-- ==== Sys2Proof/Word.lean ====
section
/-! DEFINITION. The words of the Phorel P3 (spec/00_scope.md R4): 64-bit scalars, 2048-bit vectors, bytes. -/

namespace Sys2Proof

/-- A 64-bit scalar: an s register, a special register, a staging word. -/
abbrev Word := BitVec 64

/-- One byte. -/
abbrev Byte := BitVec 8

/-- A 2048-bit vector register: lane i occupies bits [32i+31:32i] (R4). -/
abbrev Vec := BitVec 2048

/-- The 24 bits of one slot (R61). -/
abbrev SlotWord := BitVec 24

end Sys2Proof
end

