-- ==== Sys2Proof/Syntax.lean ====
section
/-! DEFINITION. The instructions and events of the part: one constructor for each row of spec/opcode_table.json. -/

namespace Sys2Proof

/-- A source of a move (spec/03_bundles.md R67). -/
inductive Source where
  | s (n : Fin 32)
  | v (n : Fin 16)
  | m (n : Fin 8)
  /-- Small immediate: the code less 0x38, standing for the value n - 8. -/
  | small (n : Fin 16)
  | iaO | vaO | sfO | lsO
  | rdP (q : Fin 4)
  | ix | lc | rb | cid | vts | wid
  | widF (i : Fin 6)
  deriving DecidableEq, Repr

/-- An operand port (R72). -/
inductive Port where
  | iaA | iaG | vaA | vaB | vaM | sfA | lsA | rdL | rdM
  deriving DecidableEq, Repr

/-- A destination of a move that is no trigger port (R70, R71, R75). -/
inductive Dest where
  | s (cl : Fin 4) (n : Fin 32)
  | v (cl : Fin 4) (n : Fin 16)
  | m (cl : Fin 4) (n : Fin 8)
  /-- Guard k(n+1): k0 is no destination (R71). -/
  | k (n : Fin 15)
  | lc | rb | cq | ix | rm
  | port (p : Port)
  | sg (set : Fin 16) (w : Fin 4)
  deriving DecidableEq, Repr

/-- What every move slot carries beside its destination (R61): source modifier, guard, source. -/
structure MoveHead where
  hold : Bool
  trapEmpty : Bool
  inv : Bool
  g : Fin 16
  src : Source
  deriving DecidableEq, Repr

/-- What every engine-command slot carries beside its command (R61): guard and staging set. -/
structure EngHead where
  inv : Bool
  g : Fin 16
  set : Fin 16
  deriving DecidableEq, Repr

/-- Why a slot's bits are no instruction (R83). -/
inductive Reject where
  | illegalSlot | illegalSource | illegalDestination | illegalEngine | illegalCommand | illegalControl
  /-- Wait kind 5, or a selector outside its range (R82): an issue fault, not a decode fault (R84). The operand is the
  continuation segment. -/
  | illegalWait (q : BitVec 9)
  deriving DecidableEq, Repr

/-- The eight words of a host message (spec/21_host.md R370). -/
structure HostMsg where
  w0 : Word
  w1 : Word := 0
  w2 : Word := 0
  w3 : Word := 0
  w4 : Word := 0
  w5 : Word := 0
  w6 : Word := 0
  w7 : Word := 0
  deriving DecidableEq, Repr

/-- The operation of a peer packet (R388). -/
inductive PeerOp where
  | read (n : Nat)
  | write (data : List Byte)
  | amo (op : Fin 9) (w32 : Bool) (a b : Word)
  | red (op : Fin 4) (w32 : Bool) (a : Word)
  deriving DecidableEq, Repr

/-- A packet from another device (R388). -/
structure PeerPacket where
  dev : Nat
  link : Fin 12
  tenant : Fin 16
  va : Nat
  op : PeerOp
  deriving DecidableEq, Repr

/-- A detected soft error (spec/14_translation.md R301). -/
inductive MemError where
  /-- Corrected: only logged. The second number is the `where` code of R304. -/
  | corrected (pa : Nat) (loc : Fin 8)
  /-- Uncorrectable in the clean L1 line held under a cxid. -/
  | cleanL1 (pa : Nat) (cxid : BitVec 8)
  /-- Uncorrectable in a clean L2 or instruction-cache line (`where` code 1 or 4). -/
  | cleanOther (pa : Nat) (loc : Fin 8)
  /-- Uncorrectable in HBM or a dirty L2 line. -/
  | global (pa : Nat) (l2 : Bool)
  /-- Uncorrectable in this core's scratchpad. -/
  | scratch (off : Nat)
  /-- Uncorrectable in the resident record of a phaser. -/
  | phaser (tenant : Fin 16) (die : Fin 2) (index : Nat)
  /-- Uncorrectable in the state of a context. -/
  | context (c : Fin 8)
  deriving DecidableEq, Repr

/-- One constructor for each row of the table of operations and events, those without operands last (the compiler
cannot build a constructor with fields whose number is above 244). -/
inductive Instr where
  /-- MOVE (R65). A move slot carries its source to a register, operand port, staging word or special destination under its guard, forming alternatives, pushing cq or resolving a guard as the destination requires. -/
  | move (h : MoveHead) (d : Dest)
  /-- IMMEDIATE (R69). An immediate slot writes a sign-extended value into its column's ix, two such slots in one column word forming a 42-bit value. -/
  | immediate (v : BitVec 21)
  /-- IA_ADD (R167). IAU adds ia.a and t, result in ia.o after 1 cycle. -/
  | iaAdd (h : MoveHead)
  /-- IA_SUB (R167). IAU subtracts t from ia.a. -/
  | iaSub (h : MoveHead)
  /-- IA_MUL (R167). IAU low 64-bit product. -/
  | iaMul (h : MoveHead)
  /-- IA_MULH_I64 (R167). IAU high 64 bits of the signed 128-bit product. -/
  | iaMulhI64 (h : MoveHead)
  /-- IA_AND (R167). IAU bitwise and. -/
  | iaAnd (h : MoveHead)
  /-- IA_OR (R167). IAU bitwise or. -/
  | iaOr (h : MoveHead)
  /-- IA_XOR (R167). IAU bitwise exclusive or. -/
  | iaXor (h : MoveHead)
  /-- IA_SHL (R167). IAU shift left by t[5:0]. -/
  | iaShl (h : MoveHead)
  /-- IA_SHR_N64 (R167). IAU logical shift right. -/
  | iaShrN64 (h : MoveHead)
  /-- IA_SHR_I64 (R167). IAU arithmetic shift right. -/
  | iaShrI64 (h : MoveHead)
  /-- IA_MIN_I64 (R167). IAU signed minimum. -/
  | iaMinI64 (h : MoveHead)
  /-- IA_MAX_I64 (R167). IAU signed maximum. -/
  | iaMaxI64 (h : MoveHead)
  /-- IA_ADDS_I64 (R167). IAU saturating signed add, raising sat when clamped. -/
  | iaAddsI64 (h : MoveHead)
  /-- IA_SUBS_I64 (R167). IAU saturating signed subtract, raising sat when clamped. -/
  | iaSubsI64 (h : MoveHead)
  /-- IA_EQ (R167). IAU writes 1 if ia.a equals t, else 0. -/
  | iaEq (h : MoveHead)
  /-- IA_LT_I64 (R167). IAU signed less-than to ia.o. -/
  | iaLtI64 (h : MoveHead)
  /-- IA_LT_N64 (R167). IAU unsigned less-than to ia.o. -/
  | iaLtN64 (h : MoveHead)
  /-- IA_CQ_EQ (R174). Compare for equality and push the bit on the condition queue at trigger + 1. -/
  | iaCqEq (h : MoveHead)
  /-- IA_CQ_LT_I64 (R174). Signed compare pushed on the condition queue. -/
  | iaCqLtI64 (h : MoveHead)
  /-- IA_CQ_LT_N64 (R174). Unsigned compare pushed on the condition queue. -/
  | iaCqLtN64 (h : MoveHead)
  /-- IA_CG_EQ (R108). Compare for equality and write guard k(ia.g) at trigger + 1, or park on an empty t. -/
  | iaCgEq (h : MoveHead)
  /-- IA_CG_LT_I64 (R108). Signed compare to guard. -/
  | iaCgLtI64 (h : MoveHead)
  /-- IA_CG_LT_N64 (R108). Unsigned compare to guard. -/
  | iaCgLtN64 (h : MoveHead)
  /-- IA_SRD (R169). Read the system register numbered t into ia.o. -/
  | iaSrd (h : MoveHead)
  /-- IA_SWR (R169). Write t to the system register numbered ia.a, field by field, at commit. -/
  | iaSwr (h : MoveHead)
  /-- IA_POPC (R167). IAU population count of t. -/
  | iaPopc (h : MoveHead)
  /-- VA_ADD_F32 (R216). Lane-wise fp32 add under va.m. -/
  | vaAddF32 (h : MoveHead)
  /-- VA_ADD_H16 (R216). Packed fp16 add. -/
  | vaAddH16 (h : MoveHead)
  /-- VA_ADD_B16 (R216). Packed bf16 add. -/
  | vaAddB16 (h : MoveHead)
  /-- VA_SUB_F32 (R216). Lane-wise fp32 subtract. -/
  | vaSubF32 (h : MoveHead)
  /-- VA_SUB_H16 (R216). Packed fp16 subtract. -/
  | vaSubH16 (h : MoveHead)
  /-- VA_SUB_B16 (R216). Packed bf16 subtract. -/
  | vaSubB16 (h : MoveHead)
  /-- VA_MUL_F32 (R216). Lane-wise fp32 multiply. -/
  | vaMulF32 (h : MoveHead)
  /-- VA_MUL_H16 (R216). Packed fp16 multiply. -/
  | vaMulH16 (h : MoveHead)
  /-- VA_MUL_B16 (R216). Packed bf16 multiply. -/
  | vaMulB16 (h : MoveHead)
  /-- VA_FMA_F32 (R216). fp32 fused multiply-add va.a × va.b + t, latency 4. -/
  | vaFmaF32 (h : MoveHead)
  /-- VA_FMA_H16 (R216). Packed fp16 fused multiply-add. -/
  | vaFmaH16 (h : MoveHead)
  /-- VA_FMA_B16 (R216). Packed bf16 fused multiply-add. -/
  | vaFmaB16 (h : MoveHead)
  /-- VA_MIN_F32 (R216). Lane-wise fp32 minimum. -/
  | vaMinF32 (h : MoveHead)
  /-- VA_MIN_H16 (R216). Packed fp16 minimum. -/
  | vaMinH16 (h : MoveHead)
  /-- VA_MIN_B16 (R216). Packed bf16 minimum. -/
  | vaMinB16 (h : MoveHead)
  /-- VA_MAX_F32 (R216). Lane-wise fp32 maximum. -/
  | vaMaxF32 (h : MoveHead)
  /-- VA_MAX_H16 (R216). Packed fp16 maximum. -/
  | vaMaxH16 (h : MoveHead)
  /-- VA_MAX_B16 (R216). Packed bf16 maximum. -/
  | vaMaxB16 (h : MoveHead)
  /-- VA_LT_F32 (R217). fp32 less-than compare to a lane mask. -/
  | vaLtF32 (h : MoveHead)
  /-- VA_LE_F32 (R217). fp32 less-or-equal compare to a lane mask. -/
  | vaLeF32 (h : MoveHead)
  /-- VA_EQ_F32 (R217). fp32 equality compare to a lane mask. -/
  | vaEqF32 (h : MoveHead)
  /-- VA_ADD_I32 (R218). Lane-wise wrapping 32-bit add. -/
  | vaAddI32 (h : MoveHead)
  /-- VA_SUB_I32 (R218). Lane-wise wrapping 32-bit subtract. -/
  | vaSubI32 (h : MoveHead)
  /-- VA_MUL_I32 (R218). Lane-wise low 32-bit product. -/
  | vaMulI32 (h : MoveHead)
  /-- VA_ADDS_I32 (R218). Lane-wise saturating signed add. -/
  | vaAddsI32 (h : MoveHead)
  /-- VA_MIN_I32 (R218). Lane-wise signed minimum. -/
  | vaMinI32 (h : MoveHead)
  /-- VA_MAX_I32 (R218). Lane-wise signed maximum. -/
  | vaMaxI32 (h : MoveHead)
  /-- VA_MIN_N32 (R218). Lane-wise unsigned minimum. -/
  | vaMinN32 (h : MoveHead)
  /-- VA_MAX_N32 (R218). Lane-wise unsigned maximum. -/
  | vaMaxN32 (h : MoveHead)
  /-- VA_AND (R218). Lane-wise bitwise and. -/
  | vaAnd (h : MoveHead)
  /-- VA_OR (R218). Lane-wise bitwise or. -/
  | vaOr (h : MoveHead)
  /-- VA_XOR (R218). Lane-wise bitwise exclusive or. -/
  | vaXor (h : MoveHead)
  /-- VA_SHL (R218). Lane-wise shift left by t[4:0]. -/
  | vaShl (h : MoveHead)
  /-- VA_SHR_N32 (R218). Lane-wise logical shift right. -/
  | vaShrN32 (h : MoveHead)
  /-- VA_SHR_I32 (R218). Lane-wise arithmetic shift right. -/
  | vaShrI32 (h : MoveHead)
  /-- VA_LT_I32 (R217). Signed 32-bit less-than compare to a lane mask. -/
  | vaLtI32 (h : MoveHead)
  /-- VA_EQ_I32 (R217). 32-bit equality compare to a lane mask. -/
  | vaEqI32 (h : MoveHead)
  /-- VA_ABS (R219). Clear bit 31 of each active lane. -/
  | vaAbs (h : MoveHead)
  /-- VA_NEG (R219). Invert bit 31 of each active lane. -/
  | vaNeg (h : MoveHead)
  /-- VA_CSGN (R219). Copy the sign of va.a onto t lane-wise. -/
  | vaCsgn (h : MoveHead)
  /-- VA_CVT_F32_I32 (R222). Convert .i32 lanes to fp32. -/
  | vaCvtF32I32 (h : MoveHead)
  /-- VA_CVT_I32_F32 (R222). Convert fp32 lanes to clamped .i32. -/
  | vaCvtI32F32 (h : MoveHead)
  /-- VA_CVT_H16_F32 (R222). Narrow 128 fp32 inputs from va.a and t to fp16. -/
  | vaCvtH16F32 (h : MoveHead)
  /-- VA_CVT_B16_F32 (R222). Narrow 128 fp32 inputs to bf16. -/
  | vaCvtB16F32 (h : MoveHead)
  /-- VA_CVT_F32_H16 (R222). Widen 128 fp16 elements to fp32 into va.o and a spill register. -/
  | vaCvtF32H16 (h : MoveHead)
  /-- VA_CVT_F32_B16 (R222). Widen 128 bf16 elements to fp32 into va.o and a spill register. -/
  | vaCvtF32B16 (h : MoveHead)
  /-- VA_CVT_E43_F32 (R222). Narrow 128 fp32 inputs to saturated e4m3. -/
  | vaCvtE43F32 (h : MoveHead)
  /-- VA_CVT_E52_F32 (R222). Narrow 128 fp32 inputs to saturated e5m2. -/
  | vaCvtE52F32 (h : MoveHead)
  /-- VA_CVT_F32_E43 (R222). Widen half of 256 e4m3 elements to fp32, multi-register. -/
  | vaCvtF32E43 (h : MoveHead)
  /-- VA_CVT_F32_E52 (R222). Widen half of 256 e5m2 elements to fp32, multi-register. -/
  | vaCvtF32E52 (h : MoveHead)
  /-- VA_PK_SX4 (R223). Pack 128 fp32 values into SX4 blocks with husks in the spill register. -/
  | vaPkSx4 (h : MoveHead)
  /-- VA_PK_SX6 (R223). Pack 128 fp32 values into SX6 blocks. -/
  | vaPkSx6 (h : MoveHead)
  /-- VA_PK_SX8 (R223). Pack 128 fp32 values into SX8 blocks. -/
  | vaPkSx8 (h : MoveHead)
  /-- VA_PK_SX16 (R223). Pack 128 fp32 values into SX16 blocks. -/
  | vaPkSx16 (h : MoveHead)
  /-- VA_UPK (R224). Unpack up to four SX blocks into 128 fp32 values. -/
  | vaUpk (h : MoveHead)
  /-- VA_IMG_F32 (R225). Lane-wise monotone integer image of fp32. -/
  | vaImgF32 (h : MoveHead)
  /-- VA_UIMG_F32 (R225). Lane-wise inverse of the monotone image. -/
  | vaUimgF32 (h : MoveHead)
  /-- VA_PLN (R226). Transpose 64 lanes of 32 bits into 32 planes. -/
  | vaPln (h : MoveHead)
  /-- VA_UPLN (R226). Transpose 32 planes back into 64 lanes. -/
  | vaUpln (h : MoveHead)
  /-- VA_PERM (R227). Permute va.a lanes by index lanes of t. -/
  | vaPerm (h : MoveHead)
  /-- VA_BCAST (R227). Broadcast one va.a lane to all lanes. -/
  | vaBcast (h : MoveHead)
  /-- VA_CMPR (R228). Compress active va.a lanes to the low lanes. -/
  | vaCmpr (h : MoveHead)
  /-- VA_EXPD (R228). Expand low va.a lanes into active lanes. -/
  | vaExpd (h : MoveHead)
  /-- VA_SEL (R227). Select va.a or t lane-wise by va.m. -/
  | vaSel (h : MoveHead)
  /-- SF_DIV_F32 (R229). Lane-wise correctly rounded fp32 divide sf.a / t, latency 14. -/
  | sfDivF32 (h : MoveHead)
  /-- SF_SQRT_F32 (R229). Lane-wise square root, latency 14. -/
  | sfSqrtF32 (h : MoveHead)
  /-- SF_RSQRT_F32 (R229). Lane-wise reciprocal square root, latency 10. -/
  | sfRsqrtF32 (h : MoveHead)
  /-- SF_EXP2_F32 (R229). Lane-wise exp2, latency 8. -/
  | sfExp2F32 (h : MoveHead)
  /-- SF_LOG2_F32 (R229). Lane-wise log2, latency 8. -/
  | sfLog2F32 (h : MoveHead)
  /-- LS_LD_N8 (R263). Load one byte zero-extended. -/
  | lsLdN8 (h : MoveHead)
  /-- LS_LD_N16 (R263). Load two bytes zero-extended. -/
  | lsLdN16 (h : MoveHead)
  /-- LS_LD_N32 (R263). Load four bytes zero-extended. -/
  | lsLdN32 (h : MoveHead)
  /-- LS_LD_I32 (R263). Load four bytes sign-extended. -/
  | lsLdI32 (h : MoveHead)
  /-- LS_LD_64 (R263). Load eight bytes. -/
  | lsLd64 (h : MoveHead)
  /-- LS_LD_Q (R263). Load sixteen bytes. -/
  | lsLdQ (h : MoveHead)
  /-- LS_LD_V (R263). Load 256 bytes as a vector. -/
  | lsLdV (h : MoveHead)
  /-- LS_ST_8 (R264). Store one byte, or hold it under an open guard. -/
  | lsSt8 (h : MoveHead)
  /-- LS_ST_16 (R264). Store two bytes. -/
  | lsSt16 (h : MoveHead)
  /-- LS_ST_32 (R264). Store four bytes. -/
  | lsSt32 (h : MoveHead)
  /-- LS_ST_64 (R264). Store eight bytes. -/
  | lsSt64 (h : MoveHead)
  /-- LS_ST_Q (R264). Store sixteen bytes. -/
  | lsStQ (h : MoveHead)
  /-- LS_ST_V (R264). Store 256 bytes. -/
  | lsStV (h : MoveHead)
  /-- RD_SUM_F32 (R233). Fold active lanes into a partial-sum latch by fp32 addition. -/
  | rdSumF32 (h : MoveHead)
  /-- RD_SUM_I32 (R233). Fold active lanes by wrapping 64-bit integer addition. -/
  | rdSumI32 (h : MoveHead)
  /-- RD_MAX_F32 (R233). Fold by fp32 maximum. -/
  | rdMaxF32 (h : MoveHead)
  /-- RD_MIN_F32 (R233). Fold by fp32 minimum. -/
  | rdMinF32 (h : MoveHead)
  /-- RD_MAX_I32 (R233). Fold by signed maximum. -/
  | rdMaxI32 (h : MoveHead)
  /-- RD_MIN_I32 (R233). Fold by signed minimum. -/
  | rdMinI32 (h : MoveHead)
  /-- RD_AMAX_F32 (R233). Argmax fold by monotone image with index and chunk count. -/
  | rdAmaxF32 (h : MoveHead)
  /-- RD_AMIN_F32 (R233). Argmin fold by monotone image. -/
  | rdAminF32 (h : MoveHead)
  /-- RD_SET (R233). Set a partial-sum latch to lane 0 of t. -/
  | rdSet (h : MoveHead)
  /-- MX_STEP (R246). One array step of an A K-block against a B buffer into an accumulator tile. -/
  | mxStep (h : EngHead) (p : Fin 16)
  /-- MX_RUN (R247). Load a B buffer then perform one array step that reads it. -/
  | mxRun (h : EngHead) (p : Fin 16)
  /-- MX_ZERO (R248). Clear an accumulator tile, its kept values and NaN marks. -/
  | mxZero (h : EngHead) (p : Fin 16)
  /-- MX_LDB (R245). Load a B buffer from plane-layout scratchpad. -/
  | mxLdb (h : EngHead) (p : Fin 16)
  /-- MX_ST (R248). Store an accumulator tile as fp32 rows to scratchpad. -/
  | mxSt (h : EngHead) (p : Fin 16)
  /-- CP_XFER (R317). Copy a transfer of up to four dimensions, optionally plane-transposed on landing. -/
  | cpXfer (h : EngHead)
  /-- CP_TILE (R319). Drain an accumulator tile to memory with conversion. -/
  | cpTile (h : EngHead) (p : Fin 16)
  /-- CP_TSA (R319). Drain a tile and fold each row into a select-and-accumulate row record. -/
  | cpTsa (h : EngHead) (p : Fin 16)
  /-- CP_FILL (R317). Fill a transfer's destination with a 64-bit pattern. -/
  | cpFill (h : EngHead)
  /-- SL_RANK (R354). Find the k-th largest candidate by plane walk and write mask and record. -/
  | slRank (h : EngHead)
  /-- SL_WQNT (R354). Find the weighted quantile threshold by plane walk. -/
  | slWqnt (h : EngHead)
  /-- SL_THR (R354). Select candidates above or at a threshold. -/
  | slThr (h : EngHead)
  /-- CK_SNAP (R358). Copy scratchpad state into a snapshot slot and mark it held. -/
  | ckSnap (h : EngHead)
  /-- CK_LOAD (R358). Copy a snapshot slot back into scratchpad. -/
  | ckLoad (h : EngHead)
  /-- CK_COMMIT (R358). Restore a slot, mark it committed, free masked slots, and optionally publish by release swap. -/
  | ckCommit (h : EngHead)
  /-- CK_DROP (R358). Free the masked snapshot slots. -/
  | ckDrop (h : EngHead)
  /-- SY_REG (R335). Register on a phaser in a signalling or waiting mode for a phase. -/
  | syReg (h : EngHead) (p : Fin 16)
  /-- SY_DROP (R335). Drop membership of a phaser for a phase. -/
  | syDrop (h : EngHead)
  /-- SY_SIG (R336). Signal a phaser for a phase, sent after the context's earlier writes have performed. -/
  | sySig (h : EngHead)
  /-- SY_NEXT (R336). Force a phaser to advance from the current phase. -/
  | syNext (h : EngHead)
  /-- SY_BASE (R334). Initialise a phaser or a ring of phasers with phase, count and scope. -/
  | syBase (h : EngHead)
  /-- SY_AMO_LD (R340). Atomic read of a memory location at its home. -/
  | syAmoLd (h : EngHead)
  /-- SY_AMO_SWAP (R340). Atomic swap. -/
  | syAmoSwap (h : EngHead)
  /-- SY_AMO_CAS (R340). Atomic compare-and-swap. -/
  | syAmoCas (h : EngHead)
  /-- SY_AMO_ADD (R340). Atomic wrapping add. -/
  | syAmoAdd (h : EngHead)
  /-- SY_AMO_AND (R340). Atomic bitwise and. -/
  | syAmoAnd (h : EngHead)
  /-- SY_AMO_OR (R340). Atomic bitwise or. -/
  | syAmoOr (h : EngHead)
  /-- SY_AMO_XOR (R340). Atomic bitwise exclusive or. -/
  | syAmoXor (h : EngHead)
  /-- SY_AMO_MAX (R340). Atomic signed maximum. -/
  | syAmoMax (h : EngHead)
  /-- SY_AMO_MIN (R340). Atomic signed minimum. -/
  | syAmoMin (h : EngHead)
  /-- SY_RED_ADD (R341). Reduction at memory by wrapping integer add. -/
  | syRedAdd (h : EngHead)
  /-- SY_RED_ADD_F32 (R341). Reduction at memory by fp32 add. -/
  | syRedAddF32 (h : EngHead)
  /-- SY_RED_MAX_F32 (R341). Reduction at memory by fp32 maximum. -/
  | syRedMaxF32 (h : EngHead)
  /-- SY_RED_MIN_F32 (R341). Reduction at memory by fp32 minimum. -/
  | syRedMinF32 (h : EngHead)
  /-- SCOPE_SET (R275). Set a scope-table entry from a core mask, slice mask and host and peer bits, bumping its generation. -/
  | scopeSet (h : EngHead) (p : Fin 16)
  /-- SCOPE_CLR (R277). Clear a scope-table entry. -/
  | scopeClr (h : EngHead) (p : Fin 16)
  /-- BR (R177). Branch by a signed offset when the guard is satisfied. -/
  | br (i : Bool) (g : Fin 16) (o : BitVec 11)
  /-- BRQ (R175). Pop the condition queue and branch when the bit is 1. -/
  | brq (o : BitVec 11)
  /-- BRQ_F (R175). Pop the condition queue and branch when the bit is 0. -/
  | brqF (o : BitVec 11)
  /-- BRX (R177). Branch to the bundle index in ix when the guard is satisfied. -/
  | brx (i : Bool) (g : Fin 16)
  /-- CALL (R178). Push the return index on the link stack and branch by offset. -/
  | call (o : BitVec 11)
  /-- LOOP (R180). Start a counted hardware loop over the following body. -/
  | loop (l : BitVec 11)
  /-- PLOOP (R184). Start a software-pipelined loop with stage gates and rotating registers. -/
  | ploop (s : BitVec 3) (l : BitVec 11)
  /-- YIELD_TL (R187). End the task and wait for a timeline counter to reach n. -/
  | yieldTl (c : Fin 16) (q : BitVec 9)
  /-- YIELD_ARR (R187). End the task and wait for an arrival-word generation. -/
  | yieldArr (c : Fin 16) (q : BitVec 9)
  /-- YIELD_PH (R187). End the task and wait for a phaser phase. -/
  | yieldPh (c : Fin 16) (q : BitVec 9)
  /-- YIELD_GRD (R187). End the task waiting for a guard, always a pass-through. -/
  | yieldGrd (c : Fin 16) (q : BitVec 9)
  /-- YIELD_CQ (R187). End the task waiting for a non-empty condition queue. -/
  | yieldCq (q : BitVec 9)
  /-- YIELD_PG (R187). End the task waiting for a pager future. -/
  | yieldPg (q : BitVec 9)
  /-- YIELD_TIME (R187). End the task waiting until vts reaches ix. -/
  | yieldTime (q : BitVec 9)
  /-- FORK (R145). Create a child task with a new frame and queue it. -/
  | fork (q : BitVec 9)
  /-- SYNCC (R146). Yield until every forked child has executed done. -/
  | syncc (q : BitVec 9)
  /-- TRAP (R189). Commit the bundle and take a program trap with a code. -/
  | trap (c : BitVec 8)
  /-- GOPEN (R107). Open the named guards from the next bundle. -/
  | gopen (k : BitVec 15)
  /-- FENCE_ACQ (R279). Acquire fence at a scope, invalidating L1 lines homed in the scope. -/
  | fenceAcq (p : BitVec 4) (c : Fin 16)
  /-- FENCE_REL (R279). Release fence holding later writes behind stores queued at its commit. -/
  | fenceRel (p : BitVec 4) (c : Fin 16)
  /-- FENCE_AR (R279). Acquire-release fence at a scope. -/
  | fenceAr (p : BitVec 4) (c : Fin 16)
  /-- DRAIN (R281). Forced-yield until the context's earlier writes to the named spaces have performed. -/
  | drain (p : BitVec 3)
  /-- BKREL (R191). Release the task's later cells of one resource. -/
  | bkrel (r : BitVec 6)
  /-- PARKED_COMPARE_RESOLVE (R109). The cycle after its source becomes full the parked compare writes its guard. -/
  | parkedCompareResolve (c : Fin 8)
  /-- RESULT_LANDING (R10). A unit result lands in its latch, register or guard at trigger plus latency, with flags ORed into nst or an arithmetic trap raised. -/
  | resultLanding (c : Fin 8)
  /-- HELD_STORE_PERFORM (R120). The oldest held-store entry with an empty term performs, in a cycle its task owns the bank cell or the store queue has room. -/
  | heldStorePerform (c : Fin 8)
  /-- L1_FILL (R257). A missed load's data lands in its bound destination and sets its full bit. -/
  | l1Fill (c : Fin 8)
  /-- STORE_PERFORM (R264). The oldest entry of a column's global store queue performs at its home slice. -/
  | storePerform (c : Fin 8) (j : Fin 4)
  /-- TRAP_DELIVERY (R200). At a boundary the context stops, drains results in flight, writes the trap record and releases its cells. -/
  | trapDelivery (c : Fin 8)
  /-- PREEMPTION (R205). At the first boundary after a request the context stops, results in flight move to the replay buffer and cells are released. -/
  | preemption (c : Fin 8)
  /-- SLICE_END_GRACE_EXPIRY (R208). When the grace of a pending slice end expires the context is pre-empted at its next boundary. -/
  | sliceEndGraceExpiry (c : Fin 8)
  /-- CONTEXT_IMAGE_SAVE (R209). Once the context is quiescent its image is written to the save area and the context freed. -/
  | contextImageSave (c : Fin 8)
  /-- OVERRUN_AFTER_LAST_CELL (R158). A task that owns no further column cell and has not left takes an overrun fault the cycle after its last one. -/
  | overrunAfterLastCell (c : Fin 8)
  /-- TASK_READY (R140). A satisfied wait makes the task ready in the next cycle, pinned to its core or queued. -/
  | taskReady (f : Nat)
  /-- CONTEXT_FREE (R147). After done the context is freed once every result in flight has landed. -/
  | contextFree (c : Fin 8)
  /-- MTX_LOAD_PHASE_COMPLETE (R245). At the end of a load phase the B buffer takes its fields and column exponents. -/
  | mtxLoadPhaseComplete (j : Fin 4)
  /-- ARRAY_STEP_COMPLETE (R241). At step completion exact K-block sums are kept or added into the tile with one rounding. -/
  | arrayStepComplete (j : Fin 4)
  /-- MX_ST_ROW_WRITE (R248). In each row cycle mx.st writes one tile row to scratchpad. -/
  | mxStRowWrite (j : Fin 4)
  /-- MTX_COMMAND_COMPLETE (R243). An MTX command completes and advances its timeline counter's done. -/
  | mtxCommandComplete (j : Fin 4)
  /-- CPY_PIECE_EMIT (R310). In each cycle of its span a channel reads or forms one piece and injects it. -/
  | cpyPieceEmit (j : Fin 4)
  /-- CPY_PIECE_LAND (R311). A piece lands, performs at its home and updates its arrival word, completing the command with its last landing or acknowledgement. -/
  | cpyPieceLand (j : Fin 4)
  /-- CPY_RETRY_EMIT (R315). Parked pieces are re-emitted through the retry path after their future is ready. -/
  | cpyRetryEmit (j : Fin 4)
  /-- TILE_DRAIN_ROW (R319). In each row cycle a drain reads one tile row and converts it to its output. -/
  | tileDrainRow (j : Fin 4)
  /-- ROW_RECORD_FOLD (R321). Ten cycles after a row is read its row record is folded in one indivisible update. -/
  | rowRecordFold (j : Fin 4)
  /-- SYN_SIGNAL_SEND (R336). A held sy.sig or sy.next leaves the port once the context's earlier writes have performed. -/
  | synSignalSend (c : Fin 8)
  /-- EVENT_APPEND (R379). A die writes an event record to its area when there is room and then the producer word. -/
  | eventAppend (d : Fin 2)
  /-- MEMORY_ERROR (R301). A detected soft error is corrected, refetched or poisons its granule, and is logged. -/
  | memoryError (e : MemError)
  /-- REPLAY_MESSAGE (R376). Host message 0x01 runs a command graph once. -/
  | replayMessage (port : Fin 4) (m : HostMsg)
  /-- TENANT_MESSAGE (R371). Host message 0x02 sets the tenant's translation root and frame arena. -/
  | tenantMessage (port : Fin 4) (m : HostMsg)
  /-- CORE_MESSAGE (R382). Host message 0x03 sets a core's partition mode and tenants when the core is idle. -/
  | coreMessage (port : Fin 4) (m : HostMsg)
  /-- PHASER_AREA_MESSAGE (R324). Host message 0x04 sets the tenant's phaser area on a die. -/
  | phaserAreaMessage (port : Fin 4) (m : HostMsg)
  /-- CONTEXT_PREEMPT (R204). Context message action 0 requests pre-emption of a context. -/
  | contextPreempt (port : Fin 4) (m : HostMsg)
  /-- CONTEXT_SLICE_END (R208). Context message action 1 requests a slice end with a grace. -/
  | contextSliceEnd (port : Fin 4) (m : HostMsg)
  /-- CONTEXT_RESUME (R207). Context message action 2 resumes a pre-empted or held task. -/
  | contextResume (port : Fin 4) (m : HostMsg)
  /-- CONTEXT_END (R383). Context message action 3 ends a pre-empted or held task as done does. -/
  | contextEnd (port : Fin 4) (m : HostMsg)
  /-- CONTEXT_EVICT (R209). Context message action 4 requests eviction of the context image. -/
  | contextEvict (port : Fin 4) (m : HostMsg)
  /-- CONTEXT_RESTORE (R209). Context message action 5 restores an image into its own context. -/
  | contextRestore (port : Fin 4) (m : HostMsg)
  /-- CONTEXT_CXID (R383). Context message action 6 sets a free context's cxid. -/
  | contextCxid (port : Fin 4) (m : HostMsg)
  /-- INVALIDATE_MESSAGE (R293). Host message 0x06 drops translation-cache entries of the tenant. -/
  | invalidateMessage (port : Fin 4) (m : HostMsg)
  /-- PAGE_DONE_MESSAGE (R298). Host message 0x07 completes a page-request entry with ok or deny and wakes its waiters. -/
  | pageDoneMessage (port : Fin 4) (m : HostMsg)
  /-- VIRTUAL_TIME_MESSAGE (R386). Host message 0x08 sets the tenant's virtual-time base, scale, offset and floor. -/
  | virtualTimeMessage (port : Fin 4) (m : HostMsg)
  /-- EVENT_AREA_MESSAGE (R379). Host message 0x09 sets a die's event area and resets its producer and consumer. -/
  | eventAreaMessage (port : Fin 4) (m : HostMsg)
  /-- CONSUMED_MESSAGE (R379). Host message 0x0A sets the consumer count of a die's event area. -/
  | consumedMessage (port : Fin 4) (m : HostMsg)
  /-- ROUTE_MESSAGE (R389). Host message 0x0B replaces one route-table entry. -/
  | routeMessage (port : Fin 4) (m : HostMsg)
  /-- PORT_MESSAGE (R373). Host message 0x0C sets a host port's tenant mask. -/
  | portMessage (port : Fin 4) (m : HostMsg)
  /-- HOST_WRITE (R368). A host write to device memory performs at its home slice and invalidates every cached copy. -/
  | hostWrite (pa : Nat) (data : List Byte)
  /-- HOST_READ (R368). A host read of device memory is performed at the home slice and returns data. -/
  | hostRead (pa : Nat) (n : Nat)
  /-- PEER_PACKET_RECEIVE (R388). A Salef packet from another device is translated, performed at its home and acknowledged. -/
  | peerPacketReceive (p : PeerPacket)
  /-- LINK_DOWN (R389). A link with no flit for 2^20 cycles goes down, raising a link-change event and rerouting its packets. -/
  | linkDown (l : Fin 12)
  /-- LINK_UP (R389). A link comes back up and raises a link-change event. -/
  | linkUp (l : Fin 12)
  /-- KEEP_ALIVE (R389). An idle link sends a keep-alive flit at least every 2^16 cycles. -/
  | keepAlive (l : Fin 12)
  /-- PCTL_WRITE (R404). A privileged write to pctl sets the power limit and, once, the device number. -/
  | pctlWrite (port : Fin 4) (v : Word)
  /-- PLATFORM_REGISTER_WRITE (R409). A write to a platform-page register with no row of its own, such as the nonce or actl.done. -/
  | platformRegisterWrite (off : Nat) (v : Word)
  /-- SUPPLY_SAG (R405). The core supply falls below 376 mV and the die clock is halved. -/
  | supplySag (d : Fin 2)
  /-- CLOCK_RESTORE (R405). After 1024 counts at or above 388 mV the full clock is restored. -/
  | clockRestore (d : Fin 2)
  /-- POWER_INTERVAL (R406). Every 1000 counts package power is measured and the booking delay raised or lowered. -/
  | powerInterval (pw : BitVec 16)
  /-- FIRMWARE_VERIFY (R407). Boot ROM verifies the firmware signature and version and sets fw or fwfail. -/
  | firmwareVerify (image : List Byte)
  /-- FUNCTION_READY (R402). A function completes bring-up and its readiness bit in brs is set. -/
  | functionReady (b : Fin 64)
  /-- UNASSIGNED_ENCODING (R83). A bundle holding an unassigned slot, engine, command, control op or wait-kind encoding takes its decode fault before issue and commits nothing. -/
  | unassignedEncoding (r : Reject)
  /-- UNLISTED_MESSAGE_TYPE (R370). A host message with an unlisted type has no effect and produces a message-done event with status refused. -/
  | unlistedMessageType (port : Fin 4) (m : HostMsg)
  /-- FLIT_CRC_FAILURE (R388). A Salef flit that fails its CRC is resent on the same link. -/
  | flitCrcFailure (l : Fin 12)
  /-- NOP (R61). The no-op slot does nothing. -/
  | nop
  /-- CALLX (R178). Push the return index and branch to ix. -/
  | callx
  /-- RET (R178). Pop the link stack and branch there. -/
  | ret
  /-- DONE (R147). End the task, release its cells, decrement the parent's child count and free its frame. -/
  | done
  /-- TRET (R203). Leave handler mode and rebook the task at tres under segment tseg. -/
  | tret
  /-- TRANSLATION_WALK_COMPLETE (R292). A page-table walk ends, filling the translation cache or finding an absent or bad entry. -/
  | translationWalkComplete
  /-- CALENDAR_WINDOW_ADVANCE (R149). Each cycle the 4096-cycle window advances, new cells taking standing or extended owners or none. -/
  | calendarWindowAdvance
  /-- BOOKING_SEARCH (R153). Each cycle CAL books at most one candidate task, binding a context and choosing its start. -/
  | bookingSearch
  /-- COMPACTION (R160). In the cycle after a release CAL moves unstarted bookings to their earliest fitting start. -/
  | compaction
  /-- TASK_AGED (R163). A queued task ready for 16 384 cycles without booking becomes aged and gains a reservation. -/
  | taskAged
  /-- LAUNCH_EXPANSION (R132). A launch task is expanded into its ready queue when a frame can be allocated. -/
  | launchExpansion
  /-- ICACHE_LOAD_COMPLETE (R154). A kernel's whole code becomes resident in the instruction cache. -/
  | icacheLoadComplete
  /-- SEL_RECORD_WRITE (R350). After its walk a SEL command writes its record and completes the next cycle. -/
  | selRecordWrite
  /-- CKP_CHUNK_COPY (R358). In each cycle of its span CKP copies one 128-byte chunk. -/
  | ckpChunkCopy
  /-- CKP_COMMIT_PUBLISH (R363). After its directory writes are acknowledged ck.commit performs its release swap. -/
  | ckpCommitPublish
  /-- CKP_COMPLETE (R358). A CKP command completes and advances counter 9. -/
  | ckpComplete
  /-- SCOPE_UPDATE_COMPLETE (R276). When every replica acknowledges, the scope entry's chg clears and counter 11 advances. -/
  | scopeUpdateComplete
  /-- SYN_APPLY (R330). A SYN command is applied at its home and its completion record written. -/
  | synApply
  /-- PHASER_WAIT_ARRIVAL (R337). A phaser wait arrives at SYN and is tested and held there. -/
  | phaserWaitArrival
  /-- TIME_WAIT_TEST (R385). At least every 1024 counts a time wait is tested against vts. -/
  | timeWaitTest
  /-- GRAPH_NODE_START (R376). A graph node starts once every predecessor has completed. -/
  | graphNodeStart
  /-- WAIT_NODE_POLL (R375). At least every 4096 cycles a wait node reads its doubleword at home. -/
  | waitNodePoll
  /-- REPLAY_COMPLETE (R376). When every node has completed or been skipped the replay completes and reports its status. -/
  | replayComplete
  /-- PACKET_ROUTE_TIMEOUT (R389). A packet with no link in its mask for 2^20 cycles is denied. -/
  | packetRouteTimeout
  /-- ATTESTATION_REQUEST (R409). A write of req captures the nonce and starts an attestation report. -/
  | attestationRequest
  /-- ATTESTATION_COMPLETE (R409). Firmware writes the signed report, sets done and clears busy. -/
  | attestationComplete
  /-- DEVICE_RESET (R372). Device reset returns host-set state, counters and readiness to their reset values. -/
  | deviceReset
  /-- IDENTITY_KEY_READY (R408). Firmware derives the identity key pair and sets idk. -/
  | identityKeyReady
  /-- PARTITION_ZEROING_COMPLETE (R382). The zeroing started by a core message finishes within 2^17 cycles, cid.mode takes its new value and the message completes. -/
  | partitionZeroingComplete
  /-- TRANSLATION_INVALIDATION_COMPLETE (R293). A translation invalidation completes, after which every access uses the new translation and its message-done event is written. -/
  | translationInvalidationComplete
  deriving DecidableEq, Repr

end Sys2Proof
end

