-- ==== Sys2Proof/WellFormed.lean ====
section
/-! DEFINITION. Which instructions the encoding admits (spec/03_bundles.md R79, R81, R83). -/

namespace Sys2Proof

/-- The rows of the table that have an encoding; the others are events. -/
def Instr.encodable : Instr → Bool
  | .move _ _ => true
  | .immediate _ => true
  | .nop => true
  | .iaAdd _ => true
  | .iaSub _ => true
  | .iaMul _ => true
  | .iaMulhI64 _ => true
  | .iaAnd _ => true
  | .iaOr _ => true
  | .iaXor _ => true
  | .iaShl _ => true
  | .iaShrN64 _ => true
  | .iaShrI64 _ => true
  | .iaMinI64 _ => true
  | .iaMaxI64 _ => true
  | .iaAddsI64 _ => true
  | .iaSubsI64 _ => true
  | .iaEq _ => true
  | .iaLtI64 _ => true
  | .iaLtN64 _ => true
  | .iaCqEq _ => true
  | .iaCqLtI64 _ => true
  | .iaCqLtN64 _ => true
  | .iaCgEq _ => true
  | .iaCgLtI64 _ => true
  | .iaCgLtN64 _ => true
  | .iaSrd _ => true
  | .iaSwr _ => true
  | .iaPopc _ => true
  | .vaAddF32 _ => true
  | .vaAddH16 _ => true
  | .vaAddB16 _ => true
  | .vaSubF32 _ => true
  | .vaSubH16 _ => true
  | .vaSubB16 _ => true
  | .vaMulF32 _ => true
  | .vaMulH16 _ => true
  | .vaMulB16 _ => true
  | .vaFmaF32 _ => true
  | .vaFmaH16 _ => true
  | .vaFmaB16 _ => true
  | .vaMinF32 _ => true
  | .vaMinH16 _ => true
  | .vaMinB16 _ => true
  | .vaMaxF32 _ => true
  | .vaMaxH16 _ => true
  | .vaMaxB16 _ => true
  | .vaLtF32 _ => true
  | .vaLeF32 _ => true
  | .vaEqF32 _ => true
  | .vaAddI32 _ => true
  | .vaSubI32 _ => true
  | .vaMulI32 _ => true
  | .vaAddsI32 _ => true
  | .vaMinI32 _ => true
  | .vaMaxI32 _ => true
  | .vaMinN32 _ => true
  | .vaMaxN32 _ => true
  | .vaAnd _ => true
  | .vaOr _ => true
  | .vaXor _ => true
  | .vaShl _ => true
  | .vaShrN32 _ => true
  | .vaShrI32 _ => true
  | .vaLtI32 _ => true
  | .vaEqI32 _ => true
  | .vaAbs _ => true
  | .vaNeg _ => true
  | .vaCsgn _ => true
  | .vaCvtF32I32 _ => true
  | .vaCvtI32F32 _ => true
  | .vaCvtH16F32 _ => true
  | .vaCvtB16F32 _ => true
  | .vaCvtF32H16 _ => true
  | .vaCvtF32B16 _ => true
  | .vaCvtE43F32 _ => true
  | .vaCvtE52F32 _ => true
  | .vaCvtF32E43 _ => true
  | .vaCvtF32E52 _ => true
  | .vaPkSx4 _ => true
  | .vaPkSx6 _ => true
  | .vaPkSx8 _ => true
  | .vaPkSx16 _ => true
  | .vaUpk _ => true
  | .vaImgF32 _ => true
  | .vaUimgF32 _ => true
  | .vaPln _ => true
  | .vaUpln _ => true
  | .vaPerm _ => true
  | .vaBcast _ => true
  | .vaCmpr _ => true
  | .vaExpd _ => true
  | .vaSel _ => true
  | .sfDivF32 _ => true
  | .sfSqrtF32 _ => true
  | .sfRsqrtF32 _ => true
  | .sfExp2F32 _ => true
  | .sfLog2F32 _ => true
  | .lsLdN8 _ => true
  | .lsLdN16 _ => true
  | .lsLdN32 _ => true
  | .lsLdI32 _ => true
  | .lsLd64 _ => true
  | .lsLdQ _ => true
  | .lsLdV _ => true
  | .lsSt8 _ => true
  | .lsSt16 _ => true
  | .lsSt32 _ => true
  | .lsSt64 _ => true
  | .lsStQ _ => true
  | .lsStV _ => true
  | .rdSumF32 _ => true
  | .rdSumI32 _ => true
  | .rdMaxF32 _ => true
  | .rdMinF32 _ => true
  | .rdMaxI32 _ => true
  | .rdMinI32 _ => true
  | .rdAmaxF32 _ => true
  | .rdAminF32 _ => true
  | .rdSet _ => true
  | .mxStep _ _ => true
  | .mxRun _ _ => true
  | .mxZero _ _ => true
  | .mxLdb _ _ => true
  | .mxSt _ _ => true
  | .cpXfer _ => true
  | .cpTile _ _ => true
  | .cpTsa _ _ => true
  | .cpFill _ => true
  | .slRank _ => true
  | .slWqnt _ => true
  | .slThr _ => true
  | .ckSnap _ => true
  | .ckLoad _ => true
  | .ckCommit _ => true
  | .ckDrop _ => true
  | .syReg _ _ => true
  | .syDrop _ => true
  | .sySig _ => true
  | .syNext _ => true
  | .syBase _ => true
  | .syAmoLd _ => true
  | .syAmoSwap _ => true
  | .syAmoCas _ => true
  | .syAmoAdd _ => true
  | .syAmoAnd _ => true
  | .syAmoOr _ => true
  | .syAmoXor _ => true
  | .syAmoMax _ => true
  | .syAmoMin _ => true
  | .syRedAdd _ => true
  | .syRedAddF32 _ => true
  | .syRedMaxF32 _ => true
  | .syRedMinF32 _ => true
  | .scopeSet _ _ => true
  | .scopeClr _ _ => true
  | .br _ _ _ => true
  | .brq _ => true
  | .brqF _ => true
  | .brx _ _ => true
  | .call _ => true
  | .callx => true
  | .ret => true
  | .loop _ => true
  | .ploop _ _ => true
  | .yieldTl _ _ => true
  | .yieldArr _ _ => true
  | .yieldPh _ _ => true
  | .yieldGrd _ _ => true
  | .yieldCq _ => true
  | .yieldPg _ => true
  | .yieldTime _ => true
  | .fork _ => true
  | .syncc _ => true
  | .done => true
  | .trap _ => true
  | .tret => true
  | .gopen _ => true
  | .fenceAcq _ _ => true
  | .fenceRel _ _ => true
  | .fenceAr _ _ => true
  | .drain _ => true
  | .bkrel _ => true
  | .parkedCompareResolve _ => false
  | .resultLanding _ => false
  | .heldStorePerform _ => false
  | .l1Fill _ => false
  | .storePerform _ _ => false
  | .translationWalkComplete => false
  | .trapDelivery _ => false
  | .preemption _ => false
  | .sliceEndGraceExpiry _ => false
  | .contextImageSave _ => false
  | .calendarWindowAdvance => false
  | .bookingSearch => false
  | .compaction => false
  | .taskAged => false
  | .overrunAfterLastCell _ => false
  | .taskReady _ => false
  | .launchExpansion => false
  | .contextFree _ => false
  | .icacheLoadComplete => false
  | .mtxLoadPhaseComplete _ => false
  | .arrayStepComplete _ => false
  | .mxStRowWrite _ => false
  | .mtxCommandComplete _ => false
  | .cpyPieceEmit _ => false
  | .cpyPieceLand _ => false
  | .cpyRetryEmit _ => false
  | .tileDrainRow _ => false
  | .rowRecordFold _ => false
  | .selRecordWrite => false
  | .ckpChunkCopy => false
  | .ckpCommitPublish => false
  | .ckpComplete => false
  | .scopeUpdateComplete => false
  | .synSignalSend _ => false
  | .synApply => false
  | .phaserWaitArrival => false
  | .timeWaitTest => false
  | .graphNodeStart => false
  | .waitNodePoll => false
  | .replayComplete => false
  | .eventAppend _ => false
  | .memoryError _ => false
  | .replayMessage _ _ => false
  | .tenantMessage _ _ => false
  | .coreMessage _ _ => false
  | .phaserAreaMessage _ _ => false
  | .contextPreempt _ _ => false
  | .contextSliceEnd _ _ => false
  | .contextResume _ _ => false
  | .contextEnd _ _ => false
  | .contextEvict _ _ => false
  | .contextRestore _ _ => false
  | .contextCxid _ _ => false
  | .invalidateMessage _ _ => false
  | .pageDoneMessage _ _ => false
  | .virtualTimeMessage _ _ => false
  | .eventAreaMessage _ _ => false
  | .consumedMessage _ _ => false
  | .routeMessage _ _ => false
  | .portMessage _ _ => false
  | .hostWrite _ _ => false
  | .hostRead _ _ => false
  | .peerPacketReceive _ => false
  | .linkDown _ => false
  | .linkUp _ => false
  | .keepAlive _ => false
  | .packetRouteTimeout => false
  | .pctlWrite _ _ => false
  | .attestationRequest => false
  | .attestationComplete => false
  | .platformRegisterWrite _ _ => false
  | .supplySag _ => false
  | .clockRestore _ => false
  | .powerInterval _ => false
  | .deviceReset => false
  | .firmwareVerify _ => false
  | .identityKeyReady => false
  | .functionReady _ => false
  | .unassignedEncoding _ => false
  | .unlistedMessageType _ _ => false
  | .partitionZeroingComplete => false
  | .translationInvalidationComplete => false
  | .flitCrcFailure _ => false

/-- The operand ranges of R79 and R81. A value outside them is no instruction (R83); every other operand value of an
encodable row is admitted by its type. -/
def Instr.operandsOk : Instr → Bool
  | .mxStep _ p => 1 ≤ p.val && p.val ≤ 8
  | .mxRun _ p => 1 ≤ p.val && p.val ≤ 8
  | .mxZero _ p => p.val ≤ 7
  | .mxLdb _ p => 1 ≤ p.val && p.val ≤ 8
  | .mxSt _ p => p.val ≤ 7
  | .cpTile _ p => p.val ≤ 7
  | .cpTsa _ p => p.val ≤ 7
  | .syReg _ p => p.val ≤ 2
  | .scopeSet _ p => 1 ≤ p.val && p.val ≤ 14
  | .scopeClr _ p => 1 ≤ p.val && p.val ≤ 14
  | .loop l => l != 0
  | .ploop _ l => l != 0
  | .fenceAcq p _ => p != 0
  | .fenceRel p _ => p != 0
  | .fenceAr p _ => p != 0
  | .drain p => p != 0
  | .bkrel r => r.toNat ≤ 48
  | _ => true

/-- A well-formed slot instruction: encodable, every operand in its range. -/
def Instr.wf (i : Instr) : Bool := i.encodable && i.operandsOk

end Sys2Proof
end

