-- ==== Sys2Proof/Decode.lean ====
section
/-! DEFINITION. The decoder of one slot, total on any 24 bits and rejecting by name, and the encoder
(spec/03_bundles.md R61, R67, R70, R75, R78, R79, R81, R83). -/

namespace Sys2Proof

/-! ## Decoding -/

/-- Source code [15:9] (R67). -/
def sourceOf (c : Nat) : Option Source :=
  if c < 0x20 then some (.s (Fin.ofNat 32 c))
  else if c < 0x30 then some (.v (Fin.ofNat 16 (c - 0x20)))
  else if c < 0x38 then some (.m (Fin.ofNat 8 (c - 0x30)))
  else if c < 0x48 then some (.small (Fin.ofNat 16 (c - 0x38)))
  else match c with
  | 0x48 => some .iaO
  | 0x49 => some .vaO
  | 0x4A => some .sfO
  | 0x4B => some .lsO
  | 0x4C => some (.rdP 0)
  | 0x4D => some (.rdP 1)
  | 0x4E => some (.rdP 2)
  | 0x4F => some (.rdP 3)
  | 0x50 => some .ix
  | 0x51 => some .lc
  | 0x52 => some .rb
  | 0x53 => some .cid
  | 0x54 => some .vts
  | 0x55 => some .wid
  | 0x56 => some (.widF 0)
  | 0x57 => some (.widF 1)
  | 0x58 => some (.widF 2)
  | 0x59 => some (.widF 3)
  | 0x5A => some (.widF 4)
  | 0x5B => some (.widF 5)
  | _ => none

/-- Cluster-register destination codes 0x000-0x0FF (R70). -/
def clusterDest (d : Nat) : Option Dest :=
  let cl : Fin 4 := Fin.ofNat 4 (d / 64)
  let r := d % 64
  if r < 0x20 then some (.s cl (Fin.ofNat 32 r))
  else if r < 0x30 then some (.v cl (Fin.ofNat 16 (r - 0x20)))
  else if r < 0x38 then some (.m cl (Fin.ofNat 8 (r - 0x30)))
  else none

/-- Special destinations, operand ports and staging words of R75. -/
def specialDest (d : Nat) : Option Dest :=
  if 0x101 ≤ d ∧ d ≤ 0x10F then some (.k (Fin.ofNat 15 (d - 0x101)))
  else if 0x1C0 ≤ d then some (.sg (Fin.ofNat 16 ((d - 0x1C0) / 4)) (Fin.ofNat 4 (d % 4)))
  else match d with
  | 0x110 => some .lc
  | 0x111 => some .rb
  | 0x112 => some .cq
  | 0x113 => some .ix
  | 0x114 => some .rm
  | 0x120 => some (.port .iaA)
  | 0x121 => some (.port .iaG)
  | 0x122 => some (.port .vaA)
  | 0x123 => some (.port .vaB)
  | 0x124 => some (.port .vaM)
  | 0x125 => some (.port .sfA)
  | 0x126 => some (.port .lsA)
  | 0x127 => some (.port .rdL)
  | 0x128 => some (.port .rdM)
  | _ => none

/-- Trigger ports of R75. -/
def triggerOf (d : Nat) (h : MoveHead) : Option Instr :=
  match d with
  | 0x130 => some (.iaAdd h)
  | 0x131 => some (.iaSub h)
  | 0x132 => some (.iaMul h)
  | 0x133 => some (.iaMulhI64 h)
  | 0x134 => some (.iaAnd h)
  | 0x135 => some (.iaOr h)
  | 0x136 => some (.iaXor h)
  | 0x137 => some (.iaShl h)
  | 0x138 => some (.iaShrN64 h)
  | 0x139 => some (.iaShrI64 h)
  | 0x13A => some (.iaMinI64 h)
  | 0x13B => some (.iaMaxI64 h)
  | 0x13C => some (.iaAddsI64 h)
  | 0x13D => some (.iaSubsI64 h)
  | 0x13E => some (.iaEq h)
  | 0x13F => some (.iaLtI64 h)
  | 0x140 => some (.iaLtN64 h)
  | 0x141 => some (.iaCqEq h)
  | 0x142 => some (.iaCqLtI64 h)
  | 0x143 => some (.iaCqLtN64 h)
  | 0x144 => some (.iaCgEq h)
  | 0x145 => some (.iaCgLtI64 h)
  | 0x146 => some (.iaCgLtN64 h)
  | 0x147 => some (.iaSrd h)
  | 0x148 => some (.iaSwr h)
  | 0x149 => some (.iaPopc h)
  | 0x150 => some (.vaAddF32 h)
  | 0x151 => some (.vaAddH16 h)
  | 0x152 => some (.vaAddB16 h)
  | 0x153 => some (.vaSubF32 h)
  | 0x154 => some (.vaSubH16 h)
  | 0x155 => some (.vaSubB16 h)
  | 0x156 => some (.vaMulF32 h)
  | 0x157 => some (.vaMulH16 h)
  | 0x158 => some (.vaMulB16 h)
  | 0x159 => some (.vaFmaF32 h)
  | 0x15A => some (.vaFmaH16 h)
  | 0x15B => some (.vaFmaB16 h)
  | 0x15C => some (.vaMinF32 h)
  | 0x15D => some (.vaMinH16 h)
  | 0x15E => some (.vaMinB16 h)
  | 0x15F => some (.vaMaxF32 h)
  | 0x160 => some (.vaMaxH16 h)
  | 0x161 => some (.vaMaxB16 h)
  | 0x162 => some (.vaLtF32 h)
  | 0x163 => some (.vaLeF32 h)
  | 0x164 => some (.vaEqF32 h)
  | 0x165 => some (.vaAddI32 h)
  | 0x166 => some (.vaSubI32 h)
  | 0x167 => some (.vaMulI32 h)
  | 0x168 => some (.vaAddsI32 h)
  | 0x169 => some (.vaMinI32 h)
  | 0x16A => some (.vaMaxI32 h)
  | 0x16B => some (.vaMinN32 h)
  | 0x16C => some (.vaMaxN32 h)
  | 0x16D => some (.vaAnd h)
  | 0x16E => some (.vaOr h)
  | 0x16F => some (.vaXor h)
  | 0x170 => some (.vaShl h)
  | 0x171 => some (.vaShrN32 h)
  | 0x172 => some (.vaShrI32 h)
  | 0x173 => some (.vaLtI32 h)
  | 0x174 => some (.vaEqI32 h)
  | 0x175 => some (.vaAbs h)
  | 0x176 => some (.vaNeg h)
  | 0x177 => some (.vaCsgn h)
  | 0x178 => some (.vaCvtF32I32 h)
  | 0x179 => some (.vaCvtI32F32 h)
  | 0x17A => some (.vaCvtH16F32 h)
  | 0x17B => some (.vaCvtB16F32 h)
  | 0x17C => some (.vaCvtF32H16 h)
  | 0x17D => some (.vaCvtF32B16 h)
  | 0x17E => some (.vaCvtE43F32 h)
  | 0x17F => some (.vaCvtE52F32 h)
  | 0x180 => some (.vaCvtF32E43 h)
  | 0x181 => some (.vaCvtF32E52 h)
  | 0x182 => some (.vaPkSx4 h)
  | 0x183 => some (.vaPkSx6 h)
  | 0x184 => some (.vaPkSx8 h)
  | 0x185 => some (.vaPkSx16 h)
  | 0x186 => some (.vaUpk h)
  | 0x187 => some (.vaImgF32 h)
  | 0x188 => some (.vaUimgF32 h)
  | 0x189 => some (.vaPln h)
  | 0x18A => some (.vaUpln h)
  | 0x18B => some (.vaPerm h)
  | 0x18C => some (.vaBcast h)
  | 0x18D => some (.vaCmpr h)
  | 0x18E => some (.vaExpd h)
  | 0x18F => some (.vaSel h)
  | 0x190 => some (.sfDivF32 h)
  | 0x191 => some (.sfSqrtF32 h)
  | 0x192 => some (.sfRsqrtF32 h)
  | 0x193 => some (.sfExp2F32 h)
  | 0x194 => some (.sfLog2F32 h)
  | 0x198 => some (.lsLdN8 h)
  | 0x199 => some (.lsLdN16 h)
  | 0x19A => some (.lsLdN32 h)
  | 0x19B => some (.lsLdI32 h)
  | 0x19C => some (.lsLd64 h)
  | 0x19D => some (.lsLdQ h)
  | 0x19E => some (.lsLdV h)
  | 0x19F => some (.lsSt8 h)
  | 0x1A0 => some (.lsSt16 h)
  | 0x1A1 => some (.lsSt32 h)
  | 0x1A2 => some (.lsSt64 h)
  | 0x1A3 => some (.lsStQ h)
  | 0x1A4 => some (.lsStV h)
  | 0x1A8 => some (.rdSumF32 h)
  | 0x1A9 => some (.rdSumI32 h)
  | 0x1AA => some (.rdMaxF32 h)
  | 0x1AB => some (.rdMinF32 h)
  | 0x1AC => some (.rdMaxI32 h)
  | 0x1AD => some (.rdMinI32 h)
  | 0x1AE => some (.rdAmaxF32 h)
  | 0x1AF => some (.rdAminF32 h)
  | 0x1B0 => some (.rdSet h)
  | _ => none

/-- A move slot: [22:21] modifier, [20] invert, [19:16] guard, [15:9] source, [8:0] destination (R61). -/
def decodeMove (x : Nat) : Except Reject Instr :=
  match sourceOf (x / 2 ^ 9 % 128) with
  | none => .error .illegalSource
  | some src =>
    let h : MoveHead :=
      { hold := x / 2 ^ 21 % 2 == 1, trapEmpty := x / 2 ^ 22 % 2 == 1, inv := x / 2 ^ 20 % 2 == 1,
        g := Fin.ofNat 16 (x / 2 ^ 16), src := src }
    let d := x % 512
    if d < 0x100 then
      match clusterDest d with
      | some t => .ok (.move h t)
      | none => .error .illegalDestination
    else
      match specialDest d with
      | some t => .ok (.move h t)
      | none =>
        match triggerOf d h with
        | some i => .ok i
        | none => .error .illegalDestination

/-- An engine-command slot: [20:17] engine, [16:13] command, [12:9] p, [8] invert, [7:4] guard, [3:0] set (R61, R79). -/
def decodeEngine (x : Nat) : Except Reject Instr :=
  let h : EngHead :=
    { inv := x / 2 ^ 8 % 2 == 1, g := Fin.ofNat 16 (x / 16), set := Fin.ofNat 16 x }
  let p := x / 2 ^ 9 % 16
  let pf : Fin 16 := Fin.ofNat 16 p
  let plain (i : Instr) : Except Reject Instr := if p = 0 then .ok i else .error .illegalCommand
  let ranged (lo hi : Nat) (i : Instr) : Except Reject Instr :=
    if lo ≤ p ∧ p ≤ hi then .ok i else .error .illegalCommand
  if 6 ≤ x / 2 ^ 17 % 16 then .error .illegalEngine
  else match x / 2 ^ 13 % 256 with
  | 0x00 => ranged 1 8 (.mxStep h pf)
  | 0x01 => ranged 1 8 (.mxRun h pf)
  | 0x02 => ranged 0 7 (.mxZero h pf)
  | 0x03 => ranged 1 8 (.mxLdb h pf)
  | 0x04 => ranged 0 7 (.mxSt h pf)
  | 0x10 => plain (.cpXfer h)
  | 0x11 => ranged 0 7 (.cpTile h pf)
  | 0x12 => ranged 0 7 (.cpTsa h pf)
  | 0x13 => plain (.cpFill h)
  | 0x20 => plain (.slRank h)
  | 0x21 => plain (.slWqnt h)
  | 0x22 => plain (.slThr h)
  | 0x30 => plain (.ckSnap h)
  | 0x31 => plain (.ckLoad h)
  | 0x32 => plain (.ckCommit h)
  | 0x33 => plain (.ckDrop h)
  | 0x40 => ranged 0 2 (.syReg h pf)
  | 0x41 => plain (.syDrop h)
  | 0x42 => plain (.sySig h)
  | 0x43 => plain (.syNext h)
  | 0x44 => plain (.syBase h)
  | 0x45 =>
    match p with
    | 0 => .ok (.syAmoLd h)
    | 1 => .ok (.syAmoSwap h)
    | 2 => .ok (.syAmoCas h)
    | 3 => .ok (.syAmoAdd h)
    | 4 => .ok (.syAmoAnd h)
    | 5 => .ok (.syAmoOr h)
    | 6 => .ok (.syAmoXor h)
    | 7 => .ok (.syAmoMax h)
    | 8 => .ok (.syAmoMin h)
    | _ => .error .illegalCommand
  | 0x46 =>
    match p with
    | 0 => .ok (.syRedAdd h)
    | 1 => .ok (.syRedAddF32 h)
    | 2 => .ok (.syRedMaxF32 h)
    | 3 => .ok (.syRedMinF32 h)
    | _ => .error .illegalCommand
  | 0x50 => ranged 1 14 (.scopeSet h pf)
  | 0x51 => ranged 1 14 (.scopeClr h pf)
  | _ => .error .illegalCommand

/-- A control slot: [20:16] control op, [15:0] operand (R81, R82). -/
def decodeControl (x : Nat) : Except Reject Instr :=
  let o := x % 65536
  let low (k : Nat) (i : Instr) : Except Reject Instr :=
    if o < 2 ^ k then .ok i else .error .illegalControl
  let g11 : Fin 16 := Fin.ofNat 16 (o / 2 ^ 11)
  let off : BitVec 11 := BitVec.ofNat 11 o
  let sel : Fin 16 := Fin.ofNat 16 (o / 2 ^ 9)
  let seg : BitVec 9 := BitVec.ofNat 9 o
  let sel0 (i : Instr) : Except Reject Instr := if o / 2 ^ 9 % 16 = 0 then .ok i else .error (.illegalWait seg)
  match x / 2 ^ 16 % 32 with
  | 0x00 => .ok (.br (o / 2 ^ 15 == 1) g11 off)
  | 0x01 =>
    if 2 ^ 12 ≤ o then .error .illegalControl
    else if o / 2 ^ 11 = 1 then .ok (.brq off) else .ok (.brqF off)
  | 0x02 => if o % 2 ^ 11 = 0 then .ok (.brx (o / 2 ^ 15 == 1) g11) else .error .illegalControl
  | 0x03 => low 11 (.call off)
  | 0x04 => low 0 .callx
  | 0x05 => low 0 .ret
  | 0x06 => if o = 0 then .error .illegalControl else low 11 (.loop off)
  | 0x07 =>
    if o % 2 ^ 11 = 0 then .error .illegalControl else low 14 (.ploop (BitVec.ofNat 3 (o / 2 ^ 11)) off)
  | 0x08 =>
    match o / 2 ^ 13 with
    | 0 => .ok (.yieldTl sel seg)
    | 1 => .ok (.yieldArr sel seg)
    | 2 => .ok (.yieldPh sel seg)
    | 3 => .ok (.yieldGrd sel seg)
    | 4 => sel0 (.yieldCq seg)
    | 6 => sel0 (.yieldPg seg)
    | 7 => sel0 (.yieldTime seg)
    | _ => .error (.illegalWait seg)
  | 0x09 => low 9 (.fork seg)
  | 0x0A => low 9 (.syncc seg)
  | 0x0B => low 0 .done
  | 0x0C => low 8 (.trap (BitVec.ofNat 8 o))
  | 0x0D => low 0 .tret
  | 0x0E => if o % 2 = 0 then .ok (.gopen (BitVec.ofNat 15 (o / 2))) else .error .illegalControl
  | 0x0F =>
    if 2 ^ 10 ≤ o ∨ o / 2 ^ 6 = 0 then .error .illegalControl
    else
      let sp : BitVec 4 := BitVec.ofNat 4 (o / 2 ^ 6)
      let sc : Fin 16 := Fin.ofNat 16 o
      match o / 2 ^ 4 % 4 with
      | 0 => .ok (.fenceAcq sp sc)
      | 1 => .ok (.fenceRel sp sc)
      | 2 => .ok (.fenceAr sp sc)
      | _ => .error .illegalControl
  | 0x10 => if o = 0 then .error .illegalControl else low 3 (.drain (BitVec.ofNat 3 o))
  | 0x11 => if o ≤ 48 then .ok (.bkrel (BitVec.ofNat 6 o)) else .error .illegalControl
  | _ => .error .illegalControl

/-- The decoder of one slot (R61): total, and every unassigned encoding has the fate of R83 by name. -/
def decodeSlot (w : SlotWord) : Except Reject Instr :=
  let x := w.toNat
  if x < 2 ^ 23 then decodeMove x
  else match x / 2 ^ 21 % 4 with
  | 0 => .ok (.immediate (BitVec.ofNat 21 x))
  | 1 => decodeEngine x
  | 2 => decodeControl x
  | _ => if x = 0xFFFFFF then .ok .nop else .error .illegalSlot

/-- The slot's instruction, where an unassigned encoding is the event that takes its fault. -/
def decodeTotal (w : SlotWord) : Instr :=
  match decodeSlot w with
  | .ok i => i
  | .error r => .unassignedEncoding r

/-- Three bytes of memory as a slot, the lowest address first (R4, R62). -/
def slotOfBytes (b0 b1 b2 : Byte) : SlotWord :=
  BitVec.ofNat 24 (b0.toNat + 256 * b1.toNat + 65536 * b2.toNat)

/-- The bytes of a slot in ascending address. -/
def bytesOfSlot (w : SlotWord) : List Byte :=
  [BitVec.ofNat 8 w.toNat, BitVec.ofNat 8 (w.toNat / 256), BitVec.ofNat 8 (w.toNat / 65536)]

/-- The instruction the decoder reads from `w`, numbered as the opcode table numbers bits. -/
def decodeTableWord (nbits w : Nat) : Option Instr :=
  if 24 < nbits ∨ 2 ^ 24 ≤ w then none
  else
    match bytesOfSlot (BitVec.ofNat 24 w) with
    | [b0, b1, b2] =>
      match decodeSlot (slotOfBytes b0 b1 b2) with
      | .ok i => some i
      | .error _ => none
    | _ => none

/-! ## Encoding -/

/-- Source code of R67. -/
def sourceCode : Source → Nat
  | .s n => n.val
  | .v n => 0x20 + n.val
  | .m n => 0x30 + n.val
  | .small n => 0x38 + n.val
  | .iaO => 0x48
  | .vaO => 0x49
  | .sfO => 0x4A
  | .lsO => 0x4B
  | .rdP q => 0x4C + q.val
  | .ix => 0x50
  | .lc => 0x51
  | .rb => 0x52
  | .cid => 0x53
  | .vts => 0x54
  | .wid => 0x55
  | .widF i => 0x56 + i.val

/-- Operand-port code of R75. -/
def portCode : Port → Nat
  | .iaA => 0x120
  | .iaG => 0x121
  | .vaA => 0x122
  | .vaB => 0x123
  | .vaM => 0x124
  | .sfA => 0x125
  | .lsA => 0x126
  | .rdL => 0x127
  | .rdM => 0x128

/-- Destination code of R70 and R75. -/
def destCode : Dest → Nat
  | .s cl n => 64 * cl.val + n.val
  | .v cl n => 64 * cl.val + 0x20 + n.val
  | .m cl n => 64 * cl.val + 0x30 + n.val
  | .k n => 0x101 + n.val
  | .lc => 0x110
  | .rb => 0x111
  | .cq => 0x112
  | .ix => 0x113
  | .rm => 0x114
  | .port p => portCode p
  | .sg n w => 0x1C0 + 4 * n.val + w.val

/-- The bits of a move slot (R61). -/
def moveBits (h : MoveHead) (d : Nat) : Nat :=
  h.trapEmpty.toNat * 2 ^ 22 + h.hold.toNat * 2 ^ 21 + h.inv.toNat * 2 ^ 20 + h.g.val * 2 ^ 16
    + sourceCode h.src * 2 ^ 9 + d

/-- The bits of an engine-command slot (R61); `e` is engine id and command code together. -/
def engineBits (h : EngHead) (e p : Nat) : Nat :=
  0xA00000 + e * 2 ^ 13 + p * 2 ^ 9 + h.inv.toNat * 2 ^ 8 + h.g.val * 16 + h.set.val

/-- The bits of a control slot (R61). -/
def controlBits (op o : Nat) : Nat := 0xC00000 + op * 2 ^ 16 + o

/-- The bits of an encodable instruction; an event has none. -/
def encodeNat : Instr → Nat
  | .move h d => moveBits h (destCode d)
  | .immediate v => 0x800000 + v.toNat
  | .nop => 0xFFFFFF
  | .iaAdd h => moveBits h 0x130
  | .iaSub h => moveBits h 0x131
  | .iaMul h => moveBits h 0x132
  | .iaMulhI64 h => moveBits h 0x133
  | .iaAnd h => moveBits h 0x134
  | .iaOr h => moveBits h 0x135
  | .iaXor h => moveBits h 0x136
  | .iaShl h => moveBits h 0x137
  | .iaShrN64 h => moveBits h 0x138
  | .iaShrI64 h => moveBits h 0x139
  | .iaMinI64 h => moveBits h 0x13A
  | .iaMaxI64 h => moveBits h 0x13B
  | .iaAddsI64 h => moveBits h 0x13C
  | .iaSubsI64 h => moveBits h 0x13D
  | .iaEq h => moveBits h 0x13E
  | .iaLtI64 h => moveBits h 0x13F
  | .iaLtN64 h => moveBits h 0x140
  | .iaCqEq h => moveBits h 0x141
  | .iaCqLtI64 h => moveBits h 0x142
  | .iaCqLtN64 h => moveBits h 0x143
  | .iaCgEq h => moveBits h 0x144
  | .iaCgLtI64 h => moveBits h 0x145
  | .iaCgLtN64 h => moveBits h 0x146
  | .iaSrd h => moveBits h 0x147
  | .iaSwr h => moveBits h 0x148
  | .iaPopc h => moveBits h 0x149
  | .vaAddF32 h => moveBits h 0x150
  | .vaAddH16 h => moveBits h 0x151
  | .vaAddB16 h => moveBits h 0x152
  | .vaSubF32 h => moveBits h 0x153
  | .vaSubH16 h => moveBits h 0x154
  | .vaSubB16 h => moveBits h 0x155
  | .vaMulF32 h => moveBits h 0x156
  | .vaMulH16 h => moveBits h 0x157
  | .vaMulB16 h => moveBits h 0x158
  | .vaFmaF32 h => moveBits h 0x159
  | .vaFmaH16 h => moveBits h 0x15A
  | .vaFmaB16 h => moveBits h 0x15B
  | .vaMinF32 h => moveBits h 0x15C
  | .vaMinH16 h => moveBits h 0x15D
  | .vaMinB16 h => moveBits h 0x15E
  | .vaMaxF32 h => moveBits h 0x15F
  | .vaMaxH16 h => moveBits h 0x160
  | .vaMaxB16 h => moveBits h 0x161
  | .vaLtF32 h => moveBits h 0x162
  | .vaLeF32 h => moveBits h 0x163
  | .vaEqF32 h => moveBits h 0x164
  | .vaAddI32 h => moveBits h 0x165
  | .vaSubI32 h => moveBits h 0x166
  | .vaMulI32 h => moveBits h 0x167
  | .vaAddsI32 h => moveBits h 0x168
  | .vaMinI32 h => moveBits h 0x169
  | .vaMaxI32 h => moveBits h 0x16A
  | .vaMinN32 h => moveBits h 0x16B
  | .vaMaxN32 h => moveBits h 0x16C
  | .vaAnd h => moveBits h 0x16D
  | .vaOr h => moveBits h 0x16E
  | .vaXor h => moveBits h 0x16F
  | .vaShl h => moveBits h 0x170
  | .vaShrN32 h => moveBits h 0x171
  | .vaShrI32 h => moveBits h 0x172
  | .vaLtI32 h => moveBits h 0x173
  | .vaEqI32 h => moveBits h 0x174
  | .vaAbs h => moveBits h 0x175
  | .vaNeg h => moveBits h 0x176
  | .vaCsgn h => moveBits h 0x177
  | .vaCvtF32I32 h => moveBits h 0x178
  | .vaCvtI32F32 h => moveBits h 0x179
  | .vaCvtH16F32 h => moveBits h 0x17A
  | .vaCvtB16F32 h => moveBits h 0x17B
  | .vaCvtF32H16 h => moveBits h 0x17C
  | .vaCvtF32B16 h => moveBits h 0x17D
  | .vaCvtE43F32 h => moveBits h 0x17E
  | .vaCvtE52F32 h => moveBits h 0x17F
  | .vaCvtF32E43 h => moveBits h 0x180
  | .vaCvtF32E52 h => moveBits h 0x181
  | .vaPkSx4 h => moveBits h 0x182
  | .vaPkSx6 h => moveBits h 0x183
  | .vaPkSx8 h => moveBits h 0x184
  | .vaPkSx16 h => moveBits h 0x185
  | .vaUpk h => moveBits h 0x186
  | .vaImgF32 h => moveBits h 0x187
  | .vaUimgF32 h => moveBits h 0x188
  | .vaPln h => moveBits h 0x189
  | .vaUpln h => moveBits h 0x18A
  | .vaPerm h => moveBits h 0x18B
  | .vaBcast h => moveBits h 0x18C
  | .vaCmpr h => moveBits h 0x18D
  | .vaExpd h => moveBits h 0x18E
  | .vaSel h => moveBits h 0x18F
  | .sfDivF32 h => moveBits h 0x190
  | .sfSqrtF32 h => moveBits h 0x191
  | .sfRsqrtF32 h => moveBits h 0x192
  | .sfExp2F32 h => moveBits h 0x193
  | .sfLog2F32 h => moveBits h 0x194
  | .lsLdN8 h => moveBits h 0x198
  | .lsLdN16 h => moveBits h 0x199
  | .lsLdN32 h => moveBits h 0x19A
  | .lsLdI32 h => moveBits h 0x19B
  | .lsLd64 h => moveBits h 0x19C
  | .lsLdQ h => moveBits h 0x19D
  | .lsLdV h => moveBits h 0x19E
  | .lsSt8 h => moveBits h 0x19F
  | .lsSt16 h => moveBits h 0x1A0
  | .lsSt32 h => moveBits h 0x1A1
  | .lsSt64 h => moveBits h 0x1A2
  | .lsStQ h => moveBits h 0x1A3
  | .lsStV h => moveBits h 0x1A4
  | .rdSumF32 h => moveBits h 0x1A8
  | .rdSumI32 h => moveBits h 0x1A9
  | .rdMaxF32 h => moveBits h 0x1AA
  | .rdMinF32 h => moveBits h 0x1AB
  | .rdMaxI32 h => moveBits h 0x1AC
  | .rdMinI32 h => moveBits h 0x1AD
  | .rdAmaxF32 h => moveBits h 0x1AE
  | .rdAminF32 h => moveBits h 0x1AF
  | .rdSet h => moveBits h 0x1B0
  | .mxStep h p => engineBits h 0x00 p.val
  | .mxRun h p => engineBits h 0x01 p.val
  | .mxZero h p => engineBits h 0x02 p.val
  | .mxLdb h p => engineBits h 0x03 p.val
  | .mxSt h p => engineBits h 0x04 p.val
  | .cpXfer h => engineBits h 0x10 0
  | .cpTile h p => engineBits h 0x11 p.val
  | .cpTsa h p => engineBits h 0x12 p.val
  | .cpFill h => engineBits h 0x13 0
  | .slRank h => engineBits h 0x20 0
  | .slWqnt h => engineBits h 0x21 0
  | .slThr h => engineBits h 0x22 0
  | .ckSnap h => engineBits h 0x30 0
  | .ckLoad h => engineBits h 0x31 0
  | .ckCommit h => engineBits h 0x32 0
  | .ckDrop h => engineBits h 0x33 0
  | .syReg h p => engineBits h 0x40 p.val
  | .syDrop h => engineBits h 0x41 0
  | .sySig h => engineBits h 0x42 0
  | .syNext h => engineBits h 0x43 0
  | .syBase h => engineBits h 0x44 0
  | .syAmoLd h => engineBits h 0x45 0
  | .syAmoSwap h => engineBits h 0x45 1
  | .syAmoCas h => engineBits h 0x45 2
  | .syAmoAdd h => engineBits h 0x45 3
  | .syAmoAnd h => engineBits h 0x45 4
  | .syAmoOr h => engineBits h 0x45 5
  | .syAmoXor h => engineBits h 0x45 6
  | .syAmoMax h => engineBits h 0x45 7
  | .syAmoMin h => engineBits h 0x45 8
  | .syRedAdd h => engineBits h 0x46 0
  | .syRedAddF32 h => engineBits h 0x46 1
  | .syRedMaxF32 h => engineBits h 0x46 2
  | .syRedMinF32 h => engineBits h 0x46 3
  | .scopeSet h p => engineBits h 0x50 p.val
  | .scopeClr h p => engineBits h 0x51 p.val
  | .br i g o => controlBits 0x00 (i.toNat * 2 ^ 15 + g.val * 2 ^ 11 + o.toNat)
  | .brq o => controlBits 0x01 (2 ^ 11 + o.toNat)
  | .brqF o => controlBits 0x01 o.toNat
  | .brx i g => controlBits 0x02 (i.toNat * 2 ^ 15 + g.val * 2 ^ 11)
  | .call o => controlBits 0x03 o.toNat
  | .callx => controlBits 0x04 0
  | .ret => controlBits 0x05 0
  | .loop l => controlBits 0x06 l.toNat
  | .ploop s l => controlBits 0x07 (s.toNat * 2 ^ 11 + l.toNat)
  | .yieldTl c q => controlBits 0x08 (0 * 2 ^ 13 + c.val * 2 ^ 9 + q.toNat)
  | .yieldArr c q => controlBits 0x08 (1 * 2 ^ 13 + c.val * 2 ^ 9 + q.toNat)
  | .yieldPh c q => controlBits 0x08 (2 * 2 ^ 13 + c.val * 2 ^ 9 + q.toNat)
  | .yieldGrd c q => controlBits 0x08 (3 * 2 ^ 13 + c.val * 2 ^ 9 + q.toNat)
  | .yieldCq q => controlBits 0x08 (4 * 2 ^ 13 + q.toNat)
  | .yieldPg q => controlBits 0x08 (6 * 2 ^ 13 + q.toNat)
  | .yieldTime q => controlBits 0x08 (7 * 2 ^ 13 + q.toNat)
  | .fork q => controlBits 0x09 q.toNat
  | .syncc q => controlBits 0x0A q.toNat
  | .done => controlBits 0x0B 0
  | .trap c => controlBits 0x0C c.toNat
  | .tret => controlBits 0x0D 0
  | .gopen k => controlBits 0x0E (k.toNat * 2)
  | .fenceAcq p c => controlBits 0x0F (p.toNat * 2 ^ 6 + 0 * 2 ^ 4 + c.val)
  | .fenceRel p c => controlBits 0x0F (p.toNat * 2 ^ 6 + 1 * 2 ^ 4 + c.val)
  | .fenceAr p c => controlBits 0x0F (p.toNat * 2 ^ 6 + 2 * 2 ^ 4 + c.val)
  | .drain p => controlBits 0x10 p.toNat
  | .bkrel r => controlBits 0x11 r.toNat
  | _ => 0

/-- The slot of a well-formed instruction. -/
def encode (i : Instr) : SlotWord := BitVec.ofNat 24 (encodeNat i)

end Sys2Proof
end

