-- ==== Sys2Proof/Machine/Bits.lean ====
section
/-! DEFINITION. Bit fields, lanes and byte order (spec/00_scope.md R4; spec/02_numbers.md R37). -/

namespace Sys2Proof.Machine

/-- The `n` bits of `x` from bit `lo` on. -/
def fld (x lo n : Nat) : Nat := (x >>> lo) % 2 ^ n

/-- Bit `i` of `x`. -/
def bitAt (x i : Nat) : Bool := (x >>> i) % 2 == 1

/-- `n` elements of `w` bits side by side, element 0 lowest. -/
def ofElems (w : Nat) : Nat → (Nat → Nat) → Nat
  | 0, _ => 0
  | n + 1, f => ofElems w n f + ((f n % 2 ^ w) <<< (w * n))

/-- The numbers of a list side by side, `w` bits each, the first lowest. -/
def ofList (w : Nat) : List Nat → Nat
  | [] => 0
  | x :: xs => x % 2 ^ w + (ofList w xs <<< w)

/-- The mask of `n` bits whose bit i is `f i`. -/
def ofBits (n : Nat) (f : Nat → Bool) : Nat := ofElems 1 n (fun i => (f i).toNat)

/-- Lane `i` of a vector (R4). -/
def lane (v : Vec) (i : Nat) : Nat := fld v.toNat (32 * i) 32

/-- The vector whose lane i is `f i`. -/
def ofLanes (f : Nat → Nat) : Vec := BitVec.ofNat 2048 (ofElems 32 64 f)

/-- A 64-bit value in every pair of lanes or a 32-bit one in every lane: `w` bits repeated over 2048. -/
def repeatBits (w : Nat) (x : Nat) : Vec := BitVec.ofNat 2048 (ofElems w (2048 / w) (fun _ => x))

/-- The two's complement value of the low `w` bits of `x`. -/
def toSigned (w x : Nat) : Int :=
  let y := x % 2 ^ w
  if y < 2 ^ (w - 1) then (y : Int) else (y : Int) - (2 ^ w : Nat)

/-- The low `w` bits of the two's complement of `x`. -/
def ofSigned (w : Nat) (x : Int) : Nat := (x % ((2 ^ w : Nat) : Int)).toNat

/-- The `n` bytes of `x`, lowest first (R4). -/
def leBytes : Nat → Nat → List Byte
  | 0, _ => []
  | n + 1, x => BitVec.ofNat 8 x :: leBytes n (x >>> 8)

/-- The number whose bytes, lowest first, are the list. -/
def ofLeBytes : List Byte → Nat
  | [] => 0
  | b :: bs => b.toNat + 256 * ofLeBytes bs

/-- Number of ones among the low `n` bits. -/
def popCount (n x : Nat) : Nat := ((List.range n).filter (fun i => bitAt x i)).length

/-- `x` rounded up to a multiple of `k`. -/
def roundUp (x k : Nat) : Nat := (x + k - 1) / k * k

/-- The list with its element `i`, if any, replaced by `f` of it. -/
def modifyAt {α : Type} : List α → Nat → (α → α) → List α
  | [], _, _ => []
  | x :: xs, 0, f => f x :: xs
  | x :: xs, n + 1, f => x :: modifyAt xs n f

/-- The least number of a list, if it has one. -/
def leastOf : List Nat → Option Nat
  | [] => none
  | x :: xs => match leastOf xs with
    | none => some x
    | some y => some (min x y)

/-- The first number from `lo` on, below `lo + fuel`, that meets `p`. -/
def firstFrom (p : Nat → Bool) : Nat → Nat → Option Nat
  | 0, _ => none
  | fuel + 1, lo => if p lo then some lo else firstFrom p fuel (lo + 1)

/-- Whether a number below `n` meets `p`. -/
def anyBelow : Nat → (Nat → Bool) → Bool
  | 0, _ => false
  | n + 1, p => p n || anyBelow n p

/-- Put `x` before the first element that it must not follow. -/
def insertBy {α : Type} (le : α → α → Bool) (x : α) : List α → List α
  | [] => [x]
  | y :: ys => if le x y then x :: y :: ys else y :: insertBy le x ys

/-- The list in the order `le`; elements that tie keep their order. -/
def sortBy {α : Type} (le : α → α → Bool) : List α → List α
  | [] => []
  | x :: xs => insertBy le x (sortBy le xs)

end Sys2Proof.Machine
end

