-- ==== Sys2Proof/Machine/Flags.lean ====
section
/-! DEFINITION. The seven numeric flags and their effect on nst (spec/02_numbers.md R39-R42). -/

namespace Sys2Proof.Machine

/-- Flags in the order of nst[6:0] (R40): nv, dz, of, uf, nx, npv, sat from bit 0. -/
abbrev Flags := BitVec 7

namespace Flags
def nv : Flags := 1
def dz : Flags := 2
def of : Flags := 4
def uf : Flags := 8
def nx : Flags := 16
def npv : Flags := 32
def sat : Flags := 64
end Flags

/-- The trap enables, nst[14:8] (R40). -/
def nstEnables (nst : Word) : Flags := nst.extractLsb' 8 7

/-- OR raised flags into the sticky flags (R41). -/
def nstRaise (nst : Word) (fl : Flags) : Word := nst ||| fl.setWidth 64

/-- The flags that land without a trap: those raised whose enable is clear (R41). -/
def flagsQuiet (nst : Word) (fl : Flags) : Flags := fl &&& ~~~(nstEnables nst)

/-- The number of the lowest bit set, from bit `i` on. -/
def lowestFlag (fl : Flags) : Nat → Nat → Option Nat
  | 0, _ => none
  | fuel + 1, i => if fl.getLsbD i then some i else lowestFlag fl fuel (i + 1)

/-- The flag that traps: the lowest-numbered one raised and enabled (R41). -/
def flagTrap (nst : Word) (fl : Flags) : Option Nat := lowestFlag (fl &&& nstEnables nst) 7 0

/-- A write of nst: enables are written, flags are cleared by 1, reserved bits stay 0 (R40). -/
def nstWrite (old new : Word) : Word :=
  (new &&& 0x7F00#64) ||| (old &&& 0x7F#64 &&& ~~~new)

end Sys2Proof.Machine
end

