-- ==== Sys2Proof/Machine/Numbers.lean ====
section
/-! DEFINITION. Number formats and arithmetic (spec/02_numbers.md R33-R58). -/

namespace Sys2Proof.Machine

/-! ## Formats -/

/-- A floating-point format (R33): exponent and fraction widths and the bits of its largest finite value. `fp8` formats
saturate and have no infinity (R36). -/
structure Fmt where
  ew : Nat
  fw : Nat
  bias : Nat
  top : Nat
  canon : Nat
  fp8 : Bool
  deriving DecidableEq, Repr

def f32 : Fmt := { ew := 8, fw := 23, bias := 127, top := 0x7F7FFFFF, canon := 0x7FC00000, fp8 := false }
def h16 : Fmt := { ew := 5, fw := 10, bias := 15, top := 0x7BFF, canon := 0x7E00, fp8 := false }
def b16 : Fmt := { ew := 8, fw := 7, bias := 127, top := 0x7F7F, canon := 0x7FC0, fp8 := false }
def e43 : Fmt := { ew := 4, fw := 3, bias := 7, top := 0x7E, canon := 0x7F, fp8 := true }
def e52 : Fmt := { ew := 5, fw := 2, bias := 15, top := 0x7B, canon := 0x7E, fp8 := true }

def Fmt.width (f : Fmt) : Nat := 1 + f.ew + f.fw

/-- What an encoding stands for: the finite value is `man * 2 ^ exp`, negative when `neg`. -/
inductive FVal where
  | nan (signalling : Bool)
  | inf (neg : Bool)
  | fin (neg : Bool) (man : Nat) (exp : Int)
  deriving DecidableEq, Repr

/-- The value of an encoding (R33, R34); fp8 infinity codes read as the largest finite value (R36). -/
def Fmt.read (f : Fmt) (b : Nat) : FVal :=
  let neg := bitAt b (f.ew + f.fw)
  let ex := fld b f.fw f.ew
  let fr := fld b 0 f.fw
  let mag := fld b 0 (f.ew + f.fw)
  if f.fp8 && mag == 0x7C && f.fw == 2 then .fin neg 7 13
  else if mag > f.top && !(!f.fp8 && fr == 0) then .nan (!f.fp8 && !bitAt b (f.fw - 1))
  else if mag > f.top then .inf neg
  else if ex == 0 then .fin neg fr (1 - (f.bias : Int) - f.fw)
  else .fin neg (2 ^ f.fw + fr) ((ex : Int) - f.bias - f.fw)

def Fmt.withSign (f : Fmt) (neg : Bool) (mag : Nat) : Nat := mag + if neg then 2 ^ (f.ew + f.fw) else 0

/-- An infinity of the sign: in fp8 the largest finite value (R36). -/
def Fmt.inf (f : Fmt) (neg : Bool) : Nat :=
  f.withSign neg (if f.fp8 then f.top else f.top + 1)

/-! ## Rounding (R51, R52) -/

/-- A rounding mode; `rs` carries the element's 32 random bits. -/
inductive RMode where
  | rne | rz | rd | ru
  | rs (u : Nat)
  deriving DecidableEq, Repr

/-- The rounding of an operation: the mode code of rm and, for .rs, the key and the counter value (R52, R53). -/
structure Rnd where
  code : Nat := 0
  rnk : Nat := 0
  rnc : Nat := 0
  deriving DecidableEq, Repr

/-- The random bits of element `e` (R52). -/
def stochBits (rnk rnc e : Nat) : Nat :=
  let m := 2 ^ 64
  let z := Nat.xor (Nat.xor rnk (rnc * 0x9E3779B97F4A7C15 % m)) (e * 0xD1B54A32D192ED03 % m)
  let z := Nat.xor z (z >>> 30) * 0xBF58476D1CE4E5B9 % m
  let z := Nat.xor z (z >>> 27) * 0x94D049BB133111EB % m
  let z := Nat.xor z (z >>> 31)
  z % 2 ^ 32

/-- The rounding mode of element `e` (R74). -/
def Rnd.at (r : Rnd) (e : Nat) : RMode :=
  match r.code with
  | 1 => .rz
  | 2 => .rd
  | 3 => .ru
  | 4 => .rs (stochBits r.rnk r.rnc e)
  | _ => .rne

/-- Round `man / 2 ^ sh` (more, by less than one unit of `man`, when `sticky`) to an integer; also whether inexact. -/
def roundShift (m : RMode) (neg : Bool) (man sh : Nat) (sticky : Bool) : Nat × Bool :=
  let q := man >>> sh
  let rem := man % 2 ^ sh
  let inexact := rem != 0 || sticky
  let up := match m with
    | .rne => decide (2 * rem > 2 ^ sh) || (decide (2 * rem = 2 ^ sh) && (sticky || q % 2 == 1))
    | .rz => false
    | .rd => neg && inexact
    | .ru => !neg && inexact
    | .rs u => inexact && decide ((rem * 2 ^ 32) >>> sh > u)
  (q + up.toNat, inexact)

/-- Round `man * 2 ^ exp` to an integer, with the same reading of `sticky`. -/
def roundInt (m : RMode) (neg : Bool) (man : Nat) (exp : Int) (sticky : Bool) : Nat × Bool :=
  if exp < 0 then
    -- a value far below one half keeps only that it is not zero
    if (-exp).toNat > man.log2 + 200 then roundShift m neg (min man 1) 64 sticky
    else roundShift m neg man (-exp).toNat sticky
  else (man <<< exp.toNat, sticky)

/-- A computed number: its encoding and the flags raised. -/
abbrev FRes := Nat × Flags

/-- The canonical NaN, raising nv when `inv`. -/
def Fmt.nan (f : Fmt) (inv : Bool) : FRes := (f.canon, if inv then Flags.nv else 0)

/-- Round a finite exact value into the format (R35, R36, R51, R52). Tininess is judged after rounding to the format's
precision with the exponent unbounded below. -/
def Fmt.round (f : Fmt) (m : RMode) (neg : Bool) (man : Nat) (exp : Int) (sticky : Bool := false) : FRes :=
  if man == 0 && !sticky then (f.withSign neg 0, 0)
  else
    let emin : Int := 1 - (f.bias : Int)
    let e : Int := exp + man.log2
    let qe : Int := max (e - f.fw) (emin - f.fw)
    let (q, inexact) := roundInt m neg man (exp - qe) sticky
    let mag := (qe - (emin - f.fw)).toNat * 2 ^ f.fw + q
    let tiny := decide (e < emin) &&
      !(decide (e = emin - 1) && decide ((roundInt m neg man (exp - (e - f.fw)) sticky).1 ≥ 2 ^ (f.fw + 1)))
    if mag > f.top then
      let fl := Flags.of ||| Flags.nx
      let big := match m with
        | .rz => false
        | .rd => neg
        | .ru => !neg
        | _ => true
      (if f.fp8 || !big then f.withSign neg f.top else f.withSign neg (f.top + 1), fl)
    else
      (f.withSign neg mag, (if inexact then Flags.nx else 0) ||| (if tiny && inexact then Flags.uf else 0))

/-! ## Arithmetic (R38, R39, R216) -/

/-- A sum of two signed magnitudes at a common exponent: sign, magnitude. An exact zero of opposite signs is +0, or −0
under .rd (R216). -/
def sumFin (m : RMode) (n1 : Bool) (m1 : Nat) (e1 : Int) (n2 : Bool) (m2 : Nat) (e2 : Int) : Bool × Nat × Int :=
  let e := min e1 e2
  let a := m1 <<< (e1 - e).toNat
  let b := m2 <<< (e2 - e).toNat
  if n1 == n2 then (n1, a + b, e)
  else if a > b then (n1, a - b, e)
  else if b > a then (n2, b - a, e)
  else (m == .rd, 0, e)

def FVal.isNan : FVal → Bool
  | .nan _ => true
  | _ => false

def FVal.isSnan : FVal → Bool
  | .nan s => s
  | _ => false

def FVal.negate : FVal → FVal
  | .nan s => .nan s
  | .inf n => .inf !n
  | .fin n m e => .fin (!n) m e

def fAddV (f : Fmt) (m : RMode) (a b : FVal) : FRes :=
  match a, b with
  | .nan s, y => f.nan (s || y.isSnan)
  | x, .nan s => f.nan (s || x.isSnan)
  | .inf n, .inf k => if n == k then (f.inf n, 0) else f.nan true
  | .inf n, _ => (f.inf n, 0)
  | _, .inf n => (f.inf n, 0)
  | .fin n1 m1 e1, .fin n2 m2 e2 =>
    let (n, s, e) := sumFin m n1 m1 e1 n2 m2 e2
    f.round m n s e

def fAdd (f : Fmt) (m : RMode) (a b : Nat) : FRes := fAddV f m (f.read a) (f.read b)

/-- The exact difference is zero. -/
def FVal.sameAs (a b : FVal) : Bool :=
  match a, b with
  | .fin n1 m1 e1, .fin n2 m2 e2 => (sumFin .rne n1 m1 e1 (!n2) m2 e2).2.1 == 0
  | _, _ => false

/-- Subtraction: an exact zero difference is +0, and −0 under .rd, whatever the signs of zero operands (R216). -/
def fSub (f : Fmt) (m : RMode) (a b : Nat) : FRes :=
  if (f.read a).sameAs (f.read b) then (f.withSign (m == .rd) 0, 0) else fAddV f m (f.read a) (f.read b).negate

def fMul (f : Fmt) (m : RMode) (a b : Nat) : FRes :=
  match f.read a, f.read b with
  | .nan s, y => f.nan (s || y.isSnan)
  | x, .nan s => f.nan (s || x.isSnan)
  | .inf n, .inf k => (f.inf (n != k), 0)
  | .inf n, .fin k y _ => if y == 0 then f.nan true else (f.inf (n != k), 0)
  | .fin k y _, .inf n => if y == 0 then f.nan true else (f.inf (n != k), 0)
  | .fin n1 m1 e1, .fin n2 m2 e2 => f.round m (n1 != n2) (m1 * m2) (e1 + e2)

/-- `a * b + c` with one rounding; 0 × ∞ is invalid even beside a quiet NaN (R39). -/
def fFma (f : Fmt) (m : RMode) (a b c : Nat) : FRes :=
  let x := f.read a
  let y := f.read b
  let z := f.read c
  let zeroInf := match x, y with
    | .inf _, .fin _ k _ => k == 0
    | .fin _ k _, .inf _ => k == 0
    | _, _ => false
  if zeroInf || x.isSnan || y.isSnan || z.isSnan then f.nan true
  else match x, y, z with
    | .nan _, _, _ => f.nan false
    | _, .nan _, _ => f.nan false
    | _, _, .nan _ => f.nan false
    | .fin n1 m1 e1, .fin n2 m2 e2, .fin n3 m3 e3 =>
      let (n, s, e) := sumFin m (n1 != n2) (m1 * m2) (e1 + e2) n3 m3 e3
      f.round m n s e
    | .fin _ _ _, .fin _ _ _, .inf k => (f.inf k, 0)
    | x, y, z =>
      let sx := match x with | .inf n => n | .fin n _ _ => n | .nan _ => false
      let sy := match y with | .inf n => n | .fin n _ _ => n | .nan _ => false
      let p := sx != sy
      match z with
      | .inf k => if k == p then (f.inf p, 0) else f.nan true
      | _ => (f.inf p, 0)

/-- The monotone image (R49). -/
def image (f : Fmt) (b : Nat) : Nat :=
  let w := f.width
  let x := if f.fp8 && f.fw == 2 && b % 128 == 0x7C then b - 1 else b
  if bitAt x (w - 1) then 2 ^ w - 1 - x else x + 2 ^ (w - 1)

/-- The inverse image (R50). -/
def unimage (f : Fmt) (m : Nat) : Nat :=
  let w := f.width
  if bitAt m (w - 1) then m - 2 ^ (w - 1) else 2 ^ w - 1 - m

/-- Minimum or maximum (R38): −0 below +0, canonical NaN for a NaN operand. -/
def fMinMax (f : Fmt) (isMax : Bool) (a b : Nat) : FRes :=
  let x := f.read a
  let y := f.read b
  if x.isNan || y.isNan then f.nan (x.isSnan || y.isSnan)
  else (if (image f a < image f b) != isMax then a else b, 0)

/-- The integer image without the zeros told apart: for ordered comparison of numbers that are no NaN. -/
def orderKey (f : Fmt) (b : Nat) : Nat := if fld b 0 (f.width - 1) == 0 then 2 ^ (f.width - 1) else image f b

inductive FRel where
  | lt | le | eq
  deriving DecidableEq, Repr

/-- Comparison (R38). -/
def fCmp (f : Fmt) (r : FRel) (a b : Nat) : Bool × Flags :=
  let x := f.read a
  let y := f.read b
  if x.isNan || y.isNan then
    (false, if r != .eq || x.isSnan || y.isSnan then Flags.nv else 0)
  else match r with
    | .lt => (decide (orderKey f a < orderKey f b), 0)
    | .le => (decide (orderKey f a ≤ orderKey f b), 0)
    | .eq => (orderKey f a == orderKey f b, 0)

/-! ## Divide, roots, exponential and logarithm (R229, R230) -/

/-- Integer square root by bits, from bit `k` down. -/
def isqrtFrom (x : Nat) : Nat → Nat → Nat
  | 0, r => r
  | k + 1, r =>
    let t := r + 2 ^ k
    isqrtFrom x k (if t * t ≤ x then t else r)

def isqrt (x : Nat) : Nat := isqrtFrom x (x.log2 / 2 + 1) 0

def fDiv (m : RMode) (a b : Nat) : FRes :=
  match f32.read a, f32.read b with
  | .nan s, y => f32.nan (s || y.isSnan)
  | x, .nan s => f32.nan (s || x.isSnan)
  | .inf _, .inf _ => f32.nan true
  | .inf n, .fin k _ _ => (f32.inf (n != k), 0)
  | .fin n _ _, .inf k => (f32.withSign (n != k) 0, 0)
  | .fin n1 m1 e1, .fin n2 m2 e2 =>
    if m2 == 0 then (if m1 == 0 then f32.nan true else (f32.inf (n1 != n2), Flags.dz))
    else
      let num := m1 <<< 100
      f32.round m (n1 != n2) (num / m2) (e1 - e2 - 100) (num % m2 != 0)

/-- `man * 2 ^ exp` with the exponent made even and 200 more bits: radicand and half exponent. -/
def evenRadicand (man : Nat) (exp : Int) : Nat × Int :=
  if exp % 2 == 0 then (man <<< 200, (exp - 200) / 2) else ((2 * man) <<< 200, (exp - 1 - 200) / 2)

def fSqrt (m : RMode) (a : Nat) : FRes :=
  match f32.read a with
  | .nan s => f32.nan s
  | .inf n => if n then (f32.canon, Flags.nv ||| Flags.npv) else (f32.inf false, 0)
  | .fin n man e =>
    if man == 0 then (a, Flags.npv)
    else if n then (f32.canon, Flags.nv ||| Flags.npv)
    else
      let (x, h) := evenRadicand man e
      let r := isqrt x
      f32.round m false r h (r * r != x)

def fRsqrt (m : RMode) (a : Nat) : FRes :=
  match f32.read a with
  | .nan s => f32.nan s
  | .inf n => if n then (f32.canon, Flags.nv ||| Flags.npv) else (0, 0)
  | .fin n man e =>
    if man == 0 then (f32.inf n, Flags.dz ||| Flags.npv)
    else if n then (f32.canon, Flags.nv ||| Flags.npv)
    else
      let (x, h) := if e % 2 == 0 then (man, e / 2) else (2 * man, (e - 1) / 2)
      let y := 2 ^ 240 / x
      let r := isqrt y
      f32.round m false r (-120 - h) (r * r * x != 2 ^ 240)

/-- Bits of the fixed-point numbers with which exp2 and log2 are computed (notes/assumptions/20.md). -/
def fixBits : Nat := 320

/-- `2 * atanh(z)` in fixed point, by `n` terms of its series; `p` is the power of z so far, `k` the next odd number. -/
def atanhSum (z2 : Nat) : Nat → Nat → Nat → Nat
  | 0, _, _ => 0
  | n + 1, p, k => 2 * p / k + atanhSum z2 n ((p * z2) >>> fixBits) (k + 2)

/-- ln of `num / den`, between 1 and 2, in fixed point. -/
def lnFix (num den : Nat) : Nat :=
  let z := ((num - den) <<< fixBits) / (num + den)
  atanhSum ((z * z) >>> fixBits) 110 z 1

def ln2Fix : Nat := lnFix 2 1

/-- e to the `y` in fixed point, by `n` terms. -/
def expSum (y : Nat) : Nat → Nat → Nat → Nat
  | 0, _, _ => 0
  | n + 1, t, k => t + expSum y n (((t * y) >>> fixBits) / k) (k + 1)

def fExp2 (m : RMode) (a : Nat) : FRes :=
  match f32.read a with
  | .nan s => f32.nan s
  | .inf n => if n then (0, 0) else (f32.inf false, 0)
  | .fin n man e =>
    if man == 0 then (0x3F800000, 0)
    else
      -- the operand as a fixed-point number with 160 fraction bits, bounded in magnitude by 1024
      let x : Nat := if e > 5 then 1024 <<< 160 else min (man <<< (e + 160).toNat) (1024 <<< 160)
      let k : Int := if n then -((x + 2 ^ 160 - 1) >>> 160 : Nat) else (x >>> 160 : Nat)
      let frac : Nat := if n then (((x + 2 ^ 160 - 1) >>> 160) <<< 160) - x else x % 2 ^ 160
      if frac == 0 then f32.round m false 1 k
      else
        let y := (frac * ln2Fix) >>> 160
        f32.round m false (expSum y 90 (2 ^ fixBits) 1) (k - fixBits) true

def fLog2 (m : RMode) (a : Nat) : FRes :=
  match f32.read a with
  | .nan s => f32.nan s
  | .inf n => if n then f32.nan true else (f32.inf false, 0)
  | .fin n man e =>
    if man == 0 then (f32.inf true, Flags.dz)
    else if n then f32.nan true
    else
      let l := man.log2
      let k : Int := e + l
      if man == 2 ^ l then f32.round m (decide (k < 0)) k.natAbs 0
      else
        let g := (lnFix man (2 ^ l) <<< fixBits) / ln2Fix
        let t : Int := k * (2 ^ fixBits : Nat) + g
        if t ≥ 0 then f32.round m false t.toNat (-(fixBits : Int)) true
        else f32.round m true ((-t).toNat - 1) (-(fixBits : Int)) true

/-! ## Conversions (R54) -/

/-- Between float formats; an infinity entering fp8 saturates and raises of (R36). -/
def fCvt (src dst : Fmt) (m : RMode) (a : Nat) : FRes :=
  match src.read a with
  | .nan s => dst.nan s
  | .inf n => (dst.inf n, if dst.fp8 then Flags.of else 0)
  | .fin n man e => dst.round m n man e

/-- fp32 to a signed 32-bit integer, clamped. -/
def fToI32 (m : RMode) (a : Nat) : FRes :=
  match f32.read a with
  | .nan _ => (0, Flags.nv)
  | .inf n => (if n then 0x80000000 else 0x7FFFFFFF, Flags.nv)
  | .fin n man e =>
    let (q, inexact) := roundInt m n man e false
    let v : Int := if n then -(q : Int) else q
    if v > 0x7FFFFFFF then (0x7FFFFFFF, Flags.nv)
    else if v < -0x80000000 then (0x80000000, Flags.nv)
    else (ofSigned 32 v, if inexact then Flags.nx else 0)

def i32ToF (m : RMode) (a : Nat) : FRes :=
  let v := toSigned 32 a
  f32.round m (decide (v < 0)) v.natAbs 0

/-! ## Split-exponent blocks (R43-R47) -/

/-- Element width of the width code (R43, R44). -/
def sxBits (width : Nat) : Nat := match width with | 0 => 4 | 1 => 6 | 2 => 8 | _ => 16

def sxMax (width : Nat) : Nat := 2 ^ (sxBits width - 2) - 1

/-- Elements in a block (R43). -/
def sxCount (width : Nat) : Nat := match width with | 0 => 128 | 1 => 85 | 2 => 64 | _ => 32

def sxGap (code : Nat) : Nat := 2 * (code % 4) + 2

/-- A decoded element (R45): none for a NaN block. -/
def sxValue (husk e : Nat) : Option (Bool × Nat × Int) :=
  let n := sxBits (fld husk 2 2)
  let a := fld husk 8 8
  if a == 0xFF then none
  else
    let ex : Int := if bitAt e (n - 1) then (a : Int) - sxGap husk - 127 else (a : Int) - 127
    some (bitAt e (n - 2), fld e 0 (n - 2), ex)

/-- An element as fp32 (R54, R224). -/
def sxToF32 (husk e : Nat) : FRes :=
  match sxValue husk e with
  | none => (f32.canon, 0)
  | some (n, mag, ex) => f32.round .rne n mag ex

/-- The least e from `e` up, in at most `fuel` tries, with `m * 2^x ≤ mmax * 2^e`. -/
def sxScale (mmax m : Nat) (x : Int) : Nat → Int → Int
  | 0, e => e
  | fuel + 1, e =>
    let lo := min x e
    if m <<< (x - lo).toNat ≤ mmax <<< (e - lo).toNat then e else sxScale mmax m x fuel (e + 1)

/-- The larger of two finite magnitudes. -/
def maxMag (a b : Nat × Int) : Nat × Int :=
  let e := min a.2 b.2
  if a.1 <<< (a.2 - e).toNat ≥ b.1 <<< (b.2 - e).toNat then a else b

/-- One element of a packing (R46): its bits and flags. A zero takes exponent A, as the worked packing has it
(notes/assumptions/68.md). -/
def sxElem (m : RMode) (width gap a : Nat) (neg : Bool) (man : Nat) (exp : Int) : Nat × Flags :=
  let mmax := sxMax width
  let n := sxBits width
  let eb : Int := (a : Int) - gap - 127
  let ea : Int := (a : Int) - 127
  let lo := min exp eb
  let inB := man != 0 && decide (man <<< (exp - lo).toNat ≤ mmax <<< (eb - lo).toNat)
  let (q, inexact) := roundInt m neg man (exp - if inB then eb else ea) false
  let above := !inB && decide (q > mmax)
  let q' := if above then mmax else q
  -- "q differs from its exact quotient" is judged on the q written
  let fl := (if inexact || above then Flags.nx else 0) ||| (if above then Flags.of else 0) |||
    (if man != 0 && q' == 0 then Flags.uf else 0)
  (q' + (if neg then 2 ^ (n - 2) else 0) + (if inB then 2 ^ (n - 1) else 0), fl)

/-- Pack up to one block of fp32 encodings (R46): block bits, husk, flags. `e0` is the .rs index of its first element. -/
def sxPack (r : Rnd) (code : Nat) (xs : List Nat) (e0 : Nat) : Nat × Nat × Flags :=
  let width := fld code 2 2
  let vs := xs.map f32.read
  if vs.any FVal.isNan then (0, 0xFF00 + code % 256, if vs.any FVal.isSnan then Flags.nv else 0)
  else
    let fins : List (Bool × Nat × Int) := vs.map fun v => match v with
      | .fin n man e => (n, man, e)
      | .inf n => (n, 2 ^ 24 - 1, 104)
      | .nan _ => (false, 0, 0)
    let infs := vs.any fun v => match v with | .inf _ => true | _ => false
    let amax := fins.foldl (fun acc v => maxMag acc v.2) (0, 0)
    let a : Nat := if amax.1 == 0 then 0
      else (min (sxScale (sxMax width) amax.1 amax.2 300 (-127)) 127 + 127).toNat
    let es := (List.range (sxCount width)).map fun i =>
      let v := fins.getD i (false, 0, 0)
      sxElem (r.at (e0 + i)) width (sxGap code) a v.1 v.2.1 v.2.2
    (ofElems (sxBits width) (sxCount width) (fun i => (es.getD i (0, 0)).1), a * 256 + code % 256,
      es.foldl (fun fl e => fl ||| e.2) (if infs then Flags.of else 0))

/-! ## Folds (R56, R58) -/

/-- Fold fp32 values in order, each addition rounded in the mode of its element. -/
def foldAdd (r : Rnd) (acc : FRes) (xs : List (Nat × Nat)) : FRes :=
  xs.foldl (fun a x => let s := fAdd f32 (r.at x.1) a.1 x.2; (s.1, a.2 ||| s.2)) acc

end Sys2Proof.Machine
end

