-- ==== Sys2Proof/Config.lean ====
section
/-! DEFINITION. What the manual leaves open, as uninterpreted constants, and the device's fixed figures (R13). -/

namespace Sys2Proof.Config

/-- The free delay number n, in cycles: how long something takes for which the manual promises no bound
(fills R257, walks R292, store performing R264, landings R311, SYN R330, scope updates R276, messages R369, code
loads R154). Nothing constrains it (notes/assumptions/16.md). -/
opaque freeDelay : Nat → Nat

/-- The free choice number n: which victim, place or order hardware takes where the manual fixes none (R135, R256). -/
opaque freeChoice : Nat → Nat

/-- The free 2048-bit value number n: data the manual calls undefined (R302, R349). -/
opaque freeVec : Nat → Vec

/-- Whether a firmware image carries a valid signature under the fused key (R407). -/
opaque firmwareSigned : List Byte → Bool

/-- The security version of a firmware image (R407). -/
opaque firmwareVersion : List Byte → Nat

/-- The fused minimum security version (R407). -/
opaque fusedMinVersion : Nat

/-- The identity public key, x then y, derived from the fused secret (R408). -/
opaque identityPublic : BitVec 768

/-- The P-384 signature, r then s, by the identity key over a hash (R409). -/
opaque identitySign : BitVec 384 → BitVec 768

/-- The identity certificate's bytes (R408). -/
opaque identityCert : List Byte

/-- The HBM stack that holds a global physical address: the manual places the stacks and does not map addresses to them
(R13, R403) (notes/assumptions/24.md). -/
opaque hbmStack : Nat → Fin 8

/-- First physical address beyond the installed HBM (R13, R290). -/
def hbmEnd : Nat := 0x6000000000

/-- Bytes of scratchpad of one physical core (R13). -/
def spadBytes : Nat := 0x200000

/-- Cycles of the calendar window (R149). -/
def window : Nat := 4096

/-- Cycles after which a ready task is aged (R163). -/
def agedAfter : Nat := 16384

end Sys2Proof.Config
end

