-- ==== Sys2Proof/Machine/State.lean ====
section
/-! DEFINITION. The state of the part as plain data, and the state after device reset. -/

namespace Sys2Proof.Machine

/-- Why the model stops. -/
inductive Fault where
  /-- Raised where hardware must read or write a task's frame (R134, R137) at this address of a tenant and the page is absent.
  The manual gives no effect; system software must map the arena. Safe. -/
  | frameUnmapped (tenant va : Nat)
  /-- Raised where the host names a device physical address at which the manual places nothing (R13, R368). Safe. -/
  | noSuchAddress
  deriving DecidableEq, Repr

/-- Why the model refuses. -/
inductive Refusal where
  /-- Raised by an arm of `exec` that has no meaning yet. Safe. -/
  | notModelled (mnemonic : String)
  deriving DecidableEq, Repr

/-- Bytes by address: strictly rising addresses, no entry equal to what an unlisted address reads as. -/
abbrev Memory := List Host.Cell

/-! ## Alternatives (spec/04_shades.md R110, R111) -/

/-- A conjunction of literals on distinct guards, by rising guard number. -/
abbrev Term := List (Nat × Bool)

/-- A trap cause and sub-cause (spec/07_traps.md R195). -/
structure Cause where
  code : Nat
  sub : Nat := 0
  deriving DecidableEq, Repr

/-- One alternative: a value under a term, its pending flags (R42), its grey mark (R123), its hold (R72). -/
structure Alt (w : Nat) where
  val : BitVec w
  void : Bool := false
  term : Term := []
  flags : BitVec 7 := 0
  grey : Option Cause := none
  hold : Bool := false
  /-- Pending flags whose enables the landing still has to judge (R42). -/
  own : BitVec 7 := 0
  deriving DecidableEq, Repr

/-- A register or latch: its alternatives and its full bit (R100). -/
structure Holder (w : Nat) where
  alts : List (Alt w)
  full : Bool := true
  deriving DecidableEq, Repr

/-- A holder with the single unconditional value `x`. -/
def Holder.of {w : Nat} (x : BitVec w) : Holder w := { alts := [{ val := x }] }

/-- A place that holds alternatives, or a guard or cq as the target of a result. Registers are physical (R183). -/
inductive Loc where
  | s (cl n : Nat)
  | v (cl n : Nat)
  | m (cl n : Nat)
  | port (col : Nat) (p : Port)
  | iaO (col : Nat)
  | vaO (col : Nat)
  | sfO (col : Nat)
  | lsO (col : Nat)
  | rdP (q : Nat)
  | guard (n : Nat)
  | cq
  deriving DecidableEq, Repr

/-- A guard (R104). -/
inductive Guard where
  | resolved (b : Bool)
  | opened
  deriving DecidableEq, Repr

/-- The three relations of compares (R108, R174). -/
inductive Rel where
  | eq | ltI64 | ltN64
  deriving DecidableEq, Repr

/-- A parked compare (R109); `due` is the cycle of its guard write and the value, once the source is full. -/
structure Parked where
  g : Nat
  rel : Rel
  a : Word
  loc : Loc
  due : Option (Nat × Bool) := none
  /-- Its place in the order of issue, and its slot (R127). -/
  seq : Nat := 0
  slot : Nat := 0
  deriving DecidableEq, Repr

/-! ## Context state -/

/-- The registers of one cluster (R96), by physical number. -/
structure Cluster where
  s : Vector (Holder 64) 32
  v : Vector (Holder 2048) 16
  m : Vector (Holder 64) 8
  deriving DecidableEq, Repr

/-- An entry of a global store queue (spec/12_memory.md R264). `barrier`: every entry of the core under the cxid with a
lower sequence number performs first (R279); `task`: the task that issued it (R413). -/
structure StoreEntry where
  pa : Nat
  data : List Byte
  cxid : Nat
  task : Option Nat
  seq : Nat
  due : Nat
  barrier : Nat
  /-- Stores under its cxid with a lower sequence number that its context had observed, or put behind itself by an acquire: those to
  its bytes go before it (R269-R271). -/
  after : Nat := 0
  deriving DecidableEq, Repr

/-- The ports, latches, staging and store queue of one column of one context (R72, R73, R77, R264). An empty port has no
alternative. -/
structure Column where
  ix : Word
  iaA : List (Alt 64)
  iaG : List (Alt 64)
  vaA : List (Alt 2048)
  vaB : List (Alt 2048)
  vaM : List (Alt 64)
  sfA : List (Alt 2048)
  lsA : List (Alt 64)
  rdL : List (Alt 64)
  rdM : List (Alt 64)
  iaO : Holder 64
  vaO : Holder 2048
  sfO : Holder 2048
  lsO : Holder 2048
  sg : Vector Word 64
  storeQ : List StoreEntry
  deriving DecidableEq, Repr

/-- How a load's bytes become a result (R263). -/
inductive LdKind where
  | n8 | n16 | n32 | i32 | d64 | q | v
  deriving DecidableEq, Repr

/-- Held-store bytes merged over a load's bytes (R121): byte index and byte. -/
abbrev Overlay := List (Nat × Byte)

/-- The folds of RED (R233). -/
inductive RedOp where
  | sumF | sumI | maxF | minF | maxI | minI | amax | amin
  deriving DecidableEq, Repr

/-- What a fold needs to be formed again at its landing, where an enabled flag may keep an earlier result from its latch (R41, R232):
its operation, rounding, guard literal and operands; whether it was formed as a shade; and the value where it owns no RED cell. -/
structure RedStep where
  op : RedOp
  code : Nat := 0
  rnk : Nat := 0
  rnc : Nat := 0
  lit : Option (Nat × Bool) := none
  l : List (Alt 2048)
  m : List (Alt 2048)
  t : List (Alt 2048)
  shade : Bool := false
  lacking : Option Vec := none
  deriving DecidableEq, Repr

/-- A result in flight (R194), landing at `land`. `seq` orders issue, `slot` and `pc` name the trigger, `rank` orders
traps (R197). `fill` marks a load that missed: the destination becomes empty. -/
structure InFlight where
  land : Nat
  seq : Nat
  slot : Nat
  pc : Nat
  rank : Nat
  dest : Loc
  alts : List (Alt 2048)
  /-- Flags raised under the empty term (R41). -/
  flags : BitVec 7 := 0
  spill : Option (Loc × Vec) := none
  fill : Option Nat := none
  /-- What the spill register is to hold instead of the spill part alone, where a later move writes over it (R127). -/
  moved : List (Alt 2048) := []
  red : Option RedStep := none
  /-- Guards resolved before the cycle in which it lands, and guards that resolve in that cycle: it keeps its alternatives until it
  lands (R106, R115). -/
  since : List (Nat × Bool) := []
  late : List (Nat × Bool) := []
  deriving DecidableEq, Repr

/-- One alternative that a fill completes: its term, its forwarded bytes, its grey mark (R121, R124, R263). -/
structure FillForm where
  term : Term
  void : Bool := false
  ovr : Overlay := []
  grey : Option Cause := none
  deriving DecidableEq, Repr

/-- An outstanding L1 miss (R257-R259). -/
structure Fill where
  id : Nat
  col : Nat
  dest : Loc
  kind : LdKind
  pa : Nat
  due : Nat
  forms : List FillForm
  /-- The bytes read at the trigger (notes/assumptions/23.md), and whether a granule of them is poisoned. -/
  data : List Byte
  poison : Bool := false
  /-- The load has landed and marked its destination empty. -/
  marked : Bool := false
  /-- The binding ended by an overwrite: the data is discarded (R259). -/
  dropped : Bool := false
  /-- Released stores of other cxids below this number perform first (R261, R269, notes/assumptions/85.md). -/
  behind : Nat := 0
  deriving DecidableEq, Repr

/-- A held-store entry (R119). -/
structure HeldStore where
  scratch : Bool
  va : Nat
  /-- The key or physical address of its bytes, where it has one. -/
  pa : Nat
  /-- Its key or physical address is known; a global entry without one is compared by its virtual address (R119). -/
  placed : Bool := true
  size : Nat
  data : Vec
  term : Term
  col : Nat
  grey : Option Cause := none
  absent : Bool := false
  /-- A page wait has asked for its page (R295). -/
  asked : Bool := false
  /-- The cycle from which the entry may perform: that of its last resolution (R120). -/
  ready : Nat := 0
  /-- Its overrun has been raised once (R265). -/
  ovr : Bool := false
  deriving DecidableEq, Repr

/-- A loop-stack entry (spec/06_control.md R179). -/
structure LoopEntry where
  first : Nat
  last : Nat
  pipe : Bool
  save : BitVec 32
  lk : Nat
  deriving DecidableEq, Repr

/-- A denied access latched on a timeline counter (R315, R342). -/
structure Denial where
  va : Nat
  poison : Bool
  low : Nat
  deriving DecidableEq, Repr

/-- One timeline counter (R24): the latest number issued and the numbers not completed. -/
structure Timeline where
  issued : Nat
  out : List Nat
  latch : Option Denial
  deriving DecidableEq, Repr

/-- A scope-table entry (R272). -/
structure ScopeEntry where
  val : Bool := false
  chg : Bool := false
  gen : BitVec 8 := 0
  peer : Bool := false
  host : Bool := false
  slices : BitVec 64 := 0
  cores : BitVec 256 := 0
  deriving DecidableEq, Repr

/-- One booking of a resource (spec/05_tasks.md R91, R149-R157), in absolute cycles: runs of `len` cycles from `start`
every `per` cycles, `count` of them, or every cycle from `start` when `std`. `cut`: cells at or after it are released.
`holes`: spans released early. `ext`: first cycle beyond the window when it was booked as an extended entry (R157). -/
structure Booking where
  ctx : Nat
  res : Nat
  start : Nat
  len : Nat
  per : Nat
  count : Nat
  std : Bool
  cut : Option Nat := none
  holes : List (Nat × Nat) := []
  ext : Option Nat := none
  deriving DecidableEq, Repr

/-- What a forced yield waits for (R102, R118, R258, R264, R279, R281, R292, R330). -/
inductive FWait where
  | source (l : Loc)
  /-- Guard `n` blocks slot `slot` at a collapse point. -/
  | guard (n slot : Nat)
  | fill (id : Nat)
  | storeOut (col seq : Nat)
  | walk (id : Nat)
  | synOut (num : Nat)
  | drained (spaces : BitVec 3)
  /-- No fill of the context is outstanding (R279). -/
  | allFills
  /-- The homes of these spans of a tenant's memory are ready (R403). -/
  | homes (tenant : Nat) (spans : List (Nat × Nat))
  /-- A page wait that a pre-emption interrupted (R204, R294). -/
  | page (fut : Option Nat) (va : Nat) (wr : Bool)
  deriving DecidableEq, Repr

/-- A trap record (R198, R199) before it is written. -/
structure TrapRec where
  cause : Cause
  cls : Nat
  slot : Nat
  pc : Nat
  info : Nat
  mult : Bool := false
  /-- Its place among traps due together (R197). -/
  rank : Nat := 0
  /-- The enabled flags that an arithmetic trap stands for (R41, R197). -/
  flags : BitVec 7 := 0
  /-- The task is held whatever its handler: an error in the context's own state (R301). -/
  hold : Bool := false
  deriving DecidableEq, Repr

/-- What a context is doing. -/
inductive Run where
  /-- No task is bound. -/
  | free
  /-- A task is bound and booked, or runs: it issues in every cycle it owns its columns, from `start` on (R155, R161). -/
  | run (start : Nat)
  /-- A forced yield taken at `f`; `pat` are the released cells (R101, R161). -/
  | fyield (w : FWait) (f : Nat) (pat : List Booking)
  /-- Its wait is satisfied or software resumed it; the released cells must be booked again (R161). -/
  | rebook (f : Nat) (pat : List Booking) (ready : Nat)
  /-- A pinned wait that keeps the context (R138). -/
  | wait
  /-- Bound and waiting for a booking of segment `seg` from cycle `since` on, in step `rank` of R153: pass-through, handler
  or tret (1), a satisfied pinned wait (2). `pc` is the first bundle where it is not the segment's entry; `restore`: the
  carry image comes back from the frame (R138, R141, R201, R203). -/
  | ready (rank seg : Nat) (pc : Option Nat) (restore : Bool) (since : Nat)
  /-- A page wait at `f` (R294) on an entry of the die, or on none yet when the queue is full. -/
  | pageWait (f : Nat) (pat : List Booking) (fut : Option Nat) (va : Nat) (wr : Bool)
  /-- Pre-empted by system software (R204); `inner` is the forced yield or wait it was in. -/
  | preempted (f : Nat) (pat : List Booking) (inner : Option FWait) (waiting : Bool)
  /-- Held after a trap (R202). -/
  | held
  /-- A trap is being delivered: results in flight land until `d` (R200). -/
  | drain (d : Nat) (r : TrapRec)
  /-- `done` was executed; results in flight still land (R147). -/
  | ending
  /-- Eviction requested to a save area; waiting for quiescence (R209). `f`, `pat`, `inner` and `waiting` are those of the
  pre-emption, when the task was not held. -/
  | evicting (addr : Nat) (msg : HostMsg) (held : Bool) (f : Nat) (pat : List Booking) (inner : Option FWait) (waiting : Bool)
  deriving DecidableEq, Repr

/-- One hardware context (R19, R96). -/
structure Ctx where
  clusters : Vector Cluster 4
  cols : Vector Column 4
  rd : Vector (Holder 64) 4
  guards : Vector Guard 16
  parked : List Parked
  lc : BitVec 32
  rb : BitVec 7
  cq : List Bool
  wid : Word
  nst : Word
  rnk : Word
  rnc : Word
  wcol : Bool
  held : List HeldStore
  loops : List LoopEntry
  pst : BitVec 3
  fel : Bool
  fer : Bool
  pl : Bool
  strt : BitVec 32
  rem : BitVec 32
  links : List Nat
  tvec : Word
  tcs : Word
  tpc : Word
  tres : Word
  tinf : Word
  tseg : Word
  pc : Nat
  tl : Vector Timeline 12
  scopes : Vector ScopeEntry 16
  flight : List InFlight
  replay : List InFlight
  fills : List Fill
  synQ : List Nat
  perf : Vector Word 8
  /-- What each counter has counted in this cycle (R387). -/
  perfNow : Vector Nat 8
  cxid : BitVec 8
  /-- Stores of the core under the cxid with a lower sequence number perform before this context's later global stores
  (R279). -/
  relBarrier : Nat
  /-- The same bound for engine writes to each space: scratchpad, global, peer, host. -/
  relSp : Vector Nat 4
  /-- Stores of the core under the cxid with a lower sequence number go before this context's later accesses: the bound of its
  last acquire (R269, R280). -/
  acq : Nat
  /-- The same bound for stores of other contexts that its loads have returned while they waited (R256, R270). -/
  seen : Nat := 0
  lost : BitVec 4
  /-- Global lines that numbered operations of the context wrote and no satisfied wait has covered yet: counter, number,
  line (R283). -/
  wrote : List (Nat × Nat × Nat)
  /-- Acquires of atomics that no satisfied counter-10 wait has covered yet: number, home-slice mask (R342). -/
  acquires : List (Nat × BitVec 64)
  run : Run
  /-- The bound task. -/
  task : Option Nat
  /-- Segment under which the task was last booked, its start cycle, shifted cycles, base column, aged when booked. -/
  seg : Nat
  start : Nat
  shift : Nat
  base : Nat
  aged : Bool
  /-- Landing traps due at the next boundary (R195). -/
  pendL : List TrapRec
  /-- A program trap due at the next boundary (R189). -/
  pendP : Option TrapRec
  /-- An overrun of a held store, due at the next boundary: the bank's kernel resource number (R265). -/
  pendO : Option Nat
  /-- The slot of a collapse whose blocking guard lost its parked compare during the forced yield: a shade-overflow trap is due at the
  next boundary (R109). -/
  stranded : Option Nat := none
  /-- Flags that landed in this cycle, and those of a resolution that lands in the next (R41, R42). -/
  nowFlags : BitVec 7
  nextFlags : BitVec 7
  /-- Pages walked for the bundle at pc (R292) as 2 * page, pages denied to it (R296) as 2 * page + 1. -/
  walked : List Nat
  preReq : Bool
  slice : Option Nat
  /-- The last cycle in which the context issued or was examined. -/
  issuedAt : Option Nat
  deriving DecidableEq, Repr

/-- A context image that the device has saved (spec/07_traps.md R209-R211): its bytes, and what it stands for; a restore
must find those bytes (notes/assumptions/34.md). -/
structure SavedImage where
  ctx : Nat
  core : Nat
  bytes : List Byte
  saved : Ctx
  tenant : Nat := 0
  /-- Cores whose assignment to the tenant has changed since: their replicas hold another generation (R278). -/
  touched : BitVec 256 := 0
  /-- The partition mode under which its cells were booked (R162). -/
  mode : Nat := 0
  deriving DecidableEq, Repr

/-! ## Kernels and tasks -/

/-- A segment-table entry (R89). -/
structure Seg where
  entry : Nat
  fp0 : Nat
  fpn : Nat
  cs : Nat
  deriving DecidableEq, Repr

/-- A footprint entry (R91). -/
structure FpEntry where
  std : Bool
  creg : Bool
  rep : Nat
  per : Nat
  len : Nat
  off : Nat
  res : Nat
  deriving DecidableEq, Repr

/-- A kernel resident in the instruction cache (R87-R91, R154). -/
structure Kernel where
  tenant : Nat
  kimg : Nat
  width : Nat
  smode : Bool
  strict : Bool
  nfld : Nat
  fw : List Nat
  ncode : Nat
  kdat : Nat
  fxb : Nat
  segs : List Seg
  /-- Carry sets: for each kernel column the scalar and vector masks (R90). -/
  carry : List (List (BitVec 32 × BitVec 16))
  fps : List FpEntry
  code : List Byte
  used : Nat
  /-- Virtual address of its code. -/
  codeAt : Nat := 0
  deriving DecidableEq, Repr

/-- The wait of a task that yielded (R82). -/
inductive Wait where
  | none
  | timeline (i n : Nat)
  | arrival (addr g : Nat)
  | phaser (id p : Nat)
  | guard
  | cq
  | children
  | pager (fid : Nat)
  | time (v : Nat)
  deriving DecidableEq, Repr

/-- Where a task stands. -/
inductive TaskSt where
  | queued
  | waiting
  | ready
  | bound
  deriving DecidableEq, Repr

/-- A task (R133, R136). `restore`: the next booking restores the carry image from the frame; `entry` starts it. -/
structure Task where
  id : Nat
  fra : Nat
  /-- Bytes of the frame (R134). -/
  fsize : Nat
  tenant : Nat
  kimg : Nat
  width : Nat
  wid : Word
  seg : Nat
  pri : Nat
  die : Nat
  launch : Nat
  lnch : Nat
  par : Option Nat
  parFra : Nat
  nkid : Nat
  st : TaskSt
  wait : Wait
  /-- Selector of the pending wait (R136). -/
  wsel : Nat
  /-- The context it is bound to or yielded from (R153). -/
  ctx : Option Nat
  readyAt : Nat
  aged : Bool
  /-- Booking restarts the segment under R96 (a launch, a fork, or a yield). -/
  fresh : Bool
  restore : Bool
  /-- The point of R413, or the satisfied wait, at which L1 lines of the cxid become invalid: home-slice mask. -/
  inval : BitVec 64
  /-- Cores on which a phaser lets the task resume (R337). -/
  cores : BitVec 256
  /-- Numbers of the stores that perform before the next booking (R413). -/
  owes : List Nat
  /-- Numbers of the stores that waited at the end of a child, for the children ended since the last children-joined wait (R413). -/
  joined : List Nat
  /-- The task has been booked at least once: cancel has been observed at its first booking (R365). -/
  begun : Bool
  /-- A program trap of the bundle that yielded: due at the boundary before the task's next bundle (R189). -/
  trap : Option TrapRec := none
  deriving DecidableEq, Repr

/-! ## Engines -/

/-- A matrix accumulator tile (spec/11_matrix.md R235): fp32 elements, exact kept values `m * 2 ^ e`, NaN marks. -/
structure Tile where
  acc : Vector (BitVec 32) 1024
  kept : List (Nat × Int × Int)
  nan : BitVec 1024
  deriving DecidableEq, Repr

/-- A B buffer (R235): fields, signs and selectors of 32 rows k and 32 columns j (index 32k + j), and each column's
kind, gap and exponent. -/
structure BBuf where
  fld : Vector (BitVec 8) 1024
  sgn : BitVec 1024
  sel : BitVec 1024
  kind : Nat
  width : Nat
  gap : Vector Nat 32
  eb : Vector Int 32
  nan : BitVec 32
  deriving DecidableEq, Repr

inductive MOp where
  | step | run | zero | ldb | st
  deriving DecidableEq, Repr

/-- A matrix command in progress (R243-R248). `load` is the length of its load phase, `wb` the base column of its
scratchpad window; husks are read as exponent, gap and NaN mark of each row or column. -/
structure MCmd where
  op : MOp
  ctx : Nat
  num : Nat
  c : Nat
  wb : Nat
  load : Nat := 0
  p : Nat := 0
  tile : Nat := 0
  buf : Nat := 0
  ch : Bool := false
  nm1 : Nat := 0
  mm1 : Nat := 0
  km1 : Nat := 0
  /-- Operand descriptors (R238), and the B field width. -/
  aDesc : Nat := 0
  bDesc : Nat := 0
  bw : Nat := 0
  aHusk : List (Int × Nat × Bool) := []
  bHusk : List (Int × Nat × Bool) := []
  /-- Plane words read so far, plane by plane. -/
  bPlanes : List (List Nat) := []
  aPlanes : List (List Nat) := []
  /-- mx.st: base, row stride, rows written. -/
  base : Nat := 0
  rstr : Nat := 0
  rows : Nat := 0
  /-- The B buffer as the array phase found it. -/
  snap : Option BBuf := none
  /-- The issuing tenant, and the bound of a release fence for the rows that mx.st writes (R279). -/
  tenant : Nat := 0
  bar : Nat := 0
  loaded : Bool := false
  stepped : Bool := false
  aPoison : Bool := false
  bPoison : Bool := false
  deriving DecidableEq, Repr

/-- A tile that a CPY tile drain holds (R244), with the cycle of its completion where that is known at issue. -/
structure Drain where
  tile : Nat
  ctx : Nat
  num : Nat
  ends : Option Nat
  deriving DecidableEq, Repr

/-- A matrix strip (R235, R236). `chain` is the tile of a run of chained steps that no step with ch = 0 has ended (R242). -/
structure Strip where
  owner : Option Nat
  tiles : Vector Tile 8
  bufs : Vector BBuf 2
  cmds : List MCmd
  chain : Option Nat := none
  drains : List Drain := []
  deriving DecidableEq, Repr

/-- Where a piece lands (R306, R314). -/
inductive Space where
  | scratch (core : Nat)
  | global
  | peer (dev : Nat)
  | host
  deriving DecidableEq, Repr

inductive CpOp where
  | xfer | tile | tsa | fill
  deriving DecidableEq, Repr

/-- A copy command in progress (spec/15_copy.md R305-R322). `next` pieces are emitted, `left` of them have not landed;
`stamp` bounds the context's own stores that go before its accesses (R282), `acq` those of other contexts that an acquire put
before them (R269), `bars` for each space those that a release fence puts before its writes (R279). -/
structure CpCmd where
  op : CpOp
  ctx : Nat
  num : Nat
  c : Nat
  wb : Nat
  pieces : Nat
  next : Nat := 0
  left : Nat := 0
  src : Nat := 0
  dst : Nat
  rem : Bool
  dcore : Nat
  arr : Bool
  awa : Nat
  rel : Bool
  scope : Nat
  /-- Network injection port of the pieces that leave the core (R306). -/
  inj : Nat := 0
  esz : Nat := 0
  xf : Bool := false
  pb : Nat := 0
  /-- Counts less 1 and strides of the dimensions (R309). -/
  n : List Nat := []
  ss : List Int := []
  ds : List Int := []
  /-- cp.fill: the pattern. -/
  pat : Nat := 0
  /-- Tile drains (R318-R321). -/
  tile : Nat := 0
  strip : Nat := 0
  rm : Nat := 0
  clr : Bool := false
  ofmt : Nat := 0
  nm1 : Nat := 0
  rstr : Int := 0
  beta : Nat := 0
  ib : Nat := 0
  recBase : Nat := 0
  /-- Rows read, and rows folded into their records. -/
  rows : List (List Nat) := []
  folded : Nat := 0
  stamp : Nat := 0
  bars : Vector Nat 4 := Vector.replicate 4 0
  acq : Nat := 0
  /-- Graph copy node: replay and node (R375). -/
  node : Option (Nat × Nat) := none
  tenant : Nat
  /-- No completion before this cycle (R311, R319). -/
  notBefore : Nat
  deriving DecidableEq, Repr

/-- A landing on its way (R311): `parts` are places, addresses and bytes, `count` the bytes counted on the arrival word at
key `awa`; `near` for a core-local one, `port` the network port through which it reaches a scratchpad from outside the core
(R28, R313). `via` are the devices it travels to or from, each with the links that may carry it, `stuck` the cycle since
when one of them has none (R389). -/
structure Landing where
  due : Nat
  chan : Nat
  ctx : Nat
  num : Nat
  near : Bool
  parts : List (Space × Nat × List Byte)
  count : Nat
  awa : Option Nat
  stamp : Nat
  bars : Vector Nat 4
  acq : Nat := 0
  poison : Bool
  va : Nat
  port : Option Nat := none
  via : List (Nat × BitVec 12) := []
  stuck : Option Nat := none
  node : Option (Nat × Nat) := none
  /-- Timeline counter of the command (R24). -/
  counter : Nat := 4
  deriving DecidableEq, Repr

/-- A parked piece (R315): the command and piece index, a drained row's bytes, and the pager future it waits for. -/
structure ParkedPiece where
  ctx : Nat
  num : Nat
  node : Option (Nat × Nat) := none
  k : Nat
  data : List Byte
  fut : Option Nat
  va : Nat
  wr : Bool
  tenant : Nat
  /-- The future was ready at the end of an earlier cycle. -/
  ready : Bool := false
  /-- It waits for a unit that is not ready, not for a page (R403). -/
  home : Bool := false
  deriving DecidableEq, Repr

/-- A copy channel. -/
structure Chan where
  cmds : List CpCmd
  parked : List ParkedPiece
  retryAt : Nat
  deriving DecidableEq, Repr

inductive SelOp where
  | rank | wqnt | thr
  deriving DecidableEq, Repr

/-- The phases of a selection command (spec/18_selection.md R350): `writing` is the record's cycle, `complete` the one after. -/
inductive SelPhase where
  | mask | plane (j : Nat) | weights | omask | record | writing | written | complete
  deriving DecidableEq, Repr

/-- A selection command in progress (R345-R351). Sets of candidates are masks: bit i for candidate i. `todo` are the words
still to read or write in the phase, `got` the bits read in it, `wts` the weights by candidate. -/
structure SelCmd where
  op : SelOp
  ctx : Nat
  num : Nat
  c : Nat
  wb : Nat
  n : Nat
  b : Nat
  pbase : Nat
  men : Bool
  mbase : Nat
  wen : Bool
  wbase : Nat
  raddr : Nat
  mout : Bool
  obase : Nat
  incl : Bool
  arg : Nat
  dmax : Nat
  phase : SelPhase
  todo : List Nat := []
  got : Nat := 0
  wts : List (Nat × Nat) := []
  cand : Nat := 0
  above : Nat := 0
  nact : Nat := 0
  wab : Nat := 0
  thr : Nat := 0
  sel : Nat := 0
  wabove : Nat := 0
  wsel : Nat := 0
  badw : Bool := false
  poison : Bool := false
  shortw : Bool := false
  /-- The issuing tenant, and the bound of a release fence for its writes (R279). -/
  tenant : Nat := 0
  bar : Nat := 0
  deriving DecidableEq, Repr

inductive CkOp where
  | snap | load | commit | drop
  deriving DecidableEq, Repr

/-- A write of the checkpoint unit on its way (spec/20_generation.md R358): to a key of the scratchpad, or to a home. -/
structure CkLanding where
  due : Nat
  ctx : Nat
  num : Nat
  part : Space × Nat × List Byte
  stamp : Nat
  bars : Vector Nat 4
  acq : Nat := 0
  /-- Granules of the part that come from poisoned ones (R360). -/
  poison : List Nat
  deriving DecidableEq, Repr

/-- What a parked access of a checkpoint command is (R360): a chunk, a write of a directory entry, the publication. -/
inductive CkPart where
  | chunk (k : Nat)
  | entry (i : Nat) (data : List Byte)
  | publish
  deriving DecidableEq, Repr

/-- A parked access and the future it waits for. -/
structure CkPark where
  part : CkPart
  va : Nat
  fut : Option Nat
  ready : Bool := false
  /-- It waits for a unit that is not ready, not for a page (R403). -/
  home : Bool := false
  /-- Its place among the parked accesses of the unit. -/
  order : Nat := 0
  deriving DecidableEq, Repr

/-- A checkpoint command in progress (R358). `k` steps of its span are done, `left` accesses have not been acknowledged. -/
structure CkCmd where
  op : CkOp
  ctx : Nat
  num : Nat
  c : Nat
  wb : Nat
  len : Nat := 0
  base : Nat
  slot : Nat := 0
  sp : Nat := 1
  sa : Nat := 0
  node : Nat := 0
  pval : Nat := 0
  mask : Nat := 0
  pub : Bool := false
  scope : Nat := 0
  pva : Nat := 0
  k : Nat := 0
  left : Nat := 0
  /-- Its directory writes have left; the publication is over; the cycle from which it may perform; the cycle since when
  its device has no link (R389); a poisoned granule has been logged. -/
  dir : Bool := false
  published : Bool := false
  pubDue : Nat := 0
  stuck : Option Nat := none
  logged : Bool := false
  /-- The links that may carry its publication, once that is to leave (R389). -/
  link : Option (BitVec 12) := none
  stamp : Nat := 0
  bars : Vector Nat 4 := Vector.replicate 4 0
  acq : Nat := 0
  tenant : Nat
  parked : List CkPark := []
  deriving DecidableEq, Repr

inductive SyOp where
  | reg | drop | sig | next | base | amo | red
  deriving DecidableEq, Repr

/-- A SYN command in flight (spec/16_sync.md R330-R342): queued until `sent`, applied at or after `due`, completed at
`recDue`. `need` are operations whose writes a signal waits for (R336). -/
structure SynCmd where
  op : SyOp
  p : Nat
  ctx : Nat
  num : Nat
  wb : Nat
  tenant : Nat
  task : Nat
  fra : Nat
  w0 : Nat
  w1 : Nat
  w2 : Nat
  w3 : Nat
  scope : ScopeEntry
  sent : Bool := false
  /-- Its place in the order in which the core's port sent its commands (R369). -/
  order : Nat := 0
  due : Nat := 0
  need : List (Nat × Nat) := []
  stamp : Nat := 0
  bars : Vector Nat 4 := Vector.replicate 4 0
  acq : Nat := 0
  /-- The links that may carry it to a peer, once it is to leave (R389). -/
  link : Option (BitVec 12) := none
  /-- Status and value once applied (R332), and the cycle of its record. -/
  result : Option (Nat × Nat) := none
  recDue : Nat := 0
  /-- The future of an absent page; the cycle since when its device has no link. -/
  fut : Option Nat := none
  parked : Bool := false
  stuck : Option Nat := none
  deriving DecidableEq, Repr

/-- A phaser record (R326); reserved bits are not kept. -/
structure Phaser where
  phase : Nat := 0
  nreg : Int := 0
  narr : Nat := 0
  narr1 : Nat := 0
  dreg1 : Int := 0
  wcnt : Nat := 0
  gang : Bool := false
  val : Bool := false
  peer : Bool := false
  host : Bool := false
  slices : BitVec 64 := 0
  cores : BitVec 256 := 0
  deriving DecidableEq, Repr

/-- A phaser record resident in a die's SRAM (R325). -/
structure Resident where
  tenant : Nat
  die : Nat
  index : Nat
  ph : Phaser
  deriving DecidableEq, Repr

/-- A phaser wait (R337): arriving until `due`, then held. -/
structure PhWait where
  task : Nat
  tenant : Nat
  ctx : Nat
  die : Nat
  index : Nat
  phase : Nat
  due : Nat
  arrived : Bool
  deriving DecidableEq, Repr

/-- An entry of a gang phaser's member table (R326, R339). -/
structure Member where
  tenant : Nat
  die : Nat
  index : Nat
  fra : Nat
  task : Nat
  last : Nat
  signals : Bool
  deriving DecidableEq, Repr

/-- A scope update in progress (R276). -/
structure ScopeOp where
  ctx : Nat
  num : Nat
  entry : Nat
  clr : Bool
  due : Nat
  deriving DecidableEq, Repr

/-! ## Memory system -/

/-- An L1 line (R255): line address, context identifier, 128 bytes, poisoned granules. -/
structure L1Line where
  line : Nat
  cxid : Nat
  data : List Byte
  poison : BitVec 2
  deriving DecidableEq, Repr

/-- A translation-cache entry (R292): one whole page. -/
structure TEntry where
  tenant : Nat
  vbase : Nat
  bits : Nat
  pbase : Nat
  space : Nat
  dev : Nat
  r : Bool
  w : Bool
  tent : Bool
  deriving DecidableEq, Repr

/-- A table walk in progress for a context (R292). -/
structure Walk where
  id : Nat
  ctx : Nat
  tenant : Nat
  va : Nat
  due : Nat
  deriving DecidableEq, Repr

/-- A page-request queue entry (R298). -/
structure PageReq where
  gen : BitVec 32 := 0
  cgen : BitVec 32 := 0
  eng : Bool := false
  wr : Bool := false
  tnt : Nat := 0
  vpage : Nat := 0
  busy : Bool := false
  deriving DecidableEq, Repr

/-! ## Tenants, dies, host -/

/-- The state system software sets for a tenant (R286, R371, R372, R385) (notes/assumptions/8.md). -/
structure Tenant where
  troot : Word := 0
  arenaBase : Nat := 0
  arenaSize : Nat := 0
  phBase : Vector Nat 2 := Vector.replicate 2 0
  phCount : Vector Nat 2 := Vector.replicate 2 0
  vbase : Word := 0
  vscale : BitVec 32 := 0x01000000
  voff : Word := 0
  vfloor : Word := 0
  hi : Word := 0
  deriving DecidableEq, Repr

/-- An error-log record (R304). -/
structure ErrRec where
  pa : Nat
  rpt : Nat
  core : Nat
  tnt : Nat
  ctx : Nat
  tv : Bool
  kind : Nat
  loc : Nat
  deriving DecidableEq, Repr

/-- An event record (spec/21_host.md R377). -/
structure Event where
  kind : Nat
  status : Nat
  die : Nat
  tnt : Nat := 0
  ctx : Nat := 0
  core : Nat := 0
  tag : Nat := 0
  a : Nat := 0
  b : Nat := 0
  /-- The error record that an event of kind 5 carries, for its repeat count (R303, R379). -/
  err : Option ErrRec := none
  deriving DecidableEq, Repr

/-- What one die holds (R133, R297, R379); records of the error log (R304) are events of kind 5. -/
structure Die where
  queues : Vector (List Nat) 4
  pages : Vector PageReq 256
  evSet : Bool
  evArea : Nat
  evCount : Nat
  evProd : Nat
  producer : Nat
  consumer : Nat
  waiting : List Event
  slow : Bool
  /-- Raw counts at the last sag (R405). -/
  sagAt : Nat := 0
  deriving DecidableEq, Repr

/-- A graph node's progress (R376). -/
inductive NodeSt where
  | waiting | running | done | skipped
  deriving DecidableEq, Repr

/-- A node of a replayed graph (R374, R375). `made`: tasks expanded so far; `live`: tasks and descendants not done. -/
structure Node where
  words : List Nat
  st : NodeSt
  /-- 0 ok, 3 fault, 4 cancelled, 5 bad-kernel (R377). -/
  outcome : Nat
  made : Nat := 0
  total : Nat := 0
  live : Nat := 0
  extents : List Nat := []
  fut : Option Nat := none
  poll : Nat := 0
  /-- Of the launched kernel: its width, its frame size and its field widths (R88, R134). -/
  width : Nat := 0
  fsize : Nat := 0
  fw : List Nat := []
  deriving DecidableEq, Repr

/-- A replay (R376). -/
structure Replay where
  id : Nat
  gaddr : Nat
  tenant : Nat
  tag : Nat
  param : Nat
  started : Bool
  nodes : List Node
  deriving DecidableEq, Repr

/-- A kernel load into the instruction cache in progress (R154). -/
structure ILoad where
  kernel : Kernel
  due : Nat
  /-- The image could be read; where it could not, the load is tried again after `due`. -/
  ok : Bool := true
  deriving DecidableEq, Repr

/-- A message whose effect takes time: partition zeroing (R382) or invalidation (R293). -/
structure SlowMsg where
  zeroing : Bool
  due : Nat
  msg : HostMsg
  /-- Logical cores that are zeroed. -/
  lcores : List Nat := []
  deriving DecidableEq, Repr

/-- One Salef link (R389). -/
structure Link where
  up : Bool := false
  last : Nat := 0
  deriving DecidableEq, Repr

/-- Another core's partition mode and the tenants of its logical cores (R371, R380). -/
structure CoreAssign where
  core : Nat
  mode : Nat
  tens : List (Option Nat)
  deriving DecidableEq, Repr

/-- The platform page (spec/23_platform.md R402-R409); req, and the values of nonce, report and measurement at reset:
notes/assumptions/40.md. -/
structure Platform where
  brs : Word := 0
  plim : Nat := 1500
  dlock : Bool := false
  devno : Nat := 0
  pport : Fin 4 := 0
  pw : Nat := 0
  thr : Nat := 0
  sags : Nat := 0
  /-- Raw counts at the end of the power interval in progress (R406). -/
  pwNext : Nat := 1000
  req : Bool := false
  busy : Bool := false
  done : Bool := false
  nonce : BitVec 384 := 0
  measurement : BitVec 384 := 0
  captNonce : BitVec 384 := 0
  captBrs : Word := 0
  reports : Nat := 0
  /-- Raw counts at which firmware completes the report in progress. -/
  attDue : Nat := 0
  /-- Bytes 0x080-0x1BF once written by firmware. -/
  report : List Byte := []
  deriving DecidableEq, Repr

/-- A logical core (R380). -/
structure LCore where
  tenant : Nat := 0
  assigned : Bool := false
  deriving DecidableEq, Repr

/-- The bundle being issued: its context and the slots before and after the one `exec` is given
(notes/assumptions/13.md). -/
structure Issue where
  ctx : Fin 8 := 0
  before : List Instr := []
  after : List Instr := []
  deriving DecidableEq, Repr

/-- The whole machine. -/
structure State where
  now : Nat
  coreNum : BitVec 8
  mode : BitVec 2
  lcores : Vector LCore 4
  otherCores : List CoreAssign
  ctxs : Vector Ctx 8
  mem : Memory
  spad : Memory
  /-- Scratchpad as it stood at the start of the cycle: what engines read (R249, R311, R353, R361). -/
  spad0 : Memory
  hostMem : Memory
  peerMem : Memory
  poisonG : List Nat
  poisonS : List Nat
  /-- The same at the start of the cycle (R361). -/
  poisonS0 : List Nat := []
  poisonP : List Nat
  l1 : List L1Line
  icache : List Kernel
  iload : List ILoad
  tcache : List TEntry
  walks : List Walk
  cal : List Booking
  /-- Cells engine commands in progress occupy: context, resource, first and last cycle (R160). -/
  occ : List (Nat × Nat × Nat × Nat)
  /-- Compaction is due in this cycle, after a release in the one before (R160). -/
  compactDue : Bool
  /-- Cells were released in this cycle. -/
  released : Bool
  searched : Bool
  strips : Vector Strip 4
  /-- The core's four channels, and one of a core of the other die, which runs graph copy nodes (R375). -/
  chans : Vector Chan 5
  landings : List Landing
  sel : List SelCmd
  ckp : List CkCmd
  /-- The cycle from which a parked access of the checkpoint unit may leave, and the number of accesses parked (R315, R360). -/
  ckRetryAt : Nat
  ckParks : Nat
  ckLand : List CkLanding
  syn : List SynCmd
  phasers : List Resident
  phWaits : List PhWait
  members : List Member
  /-- Records in their areas whose nreg is below 0, by address: the number itself, which the field does not hold (R335,
  notes/assumptions/18.md). -/
  phNreg : List (Nat × Int)
  scopeOps : List ScopeOp
  rawAcc : Nat
  tenants : Vector Tenant 16
  dies : Vector Die 2
  /-- Page requests that found no free entry, oldest first: die, tenant, page, wr, eng (R297). -/
  pageOver : List (Nat × Nat × Nat × Bool × Bool)
  /-- Futures whose requests were completed with deny (R296, R300). -/
  denied : List Nat
  tasks : List Task
  nextId : Nat
  replays : List Replay
  images : List SavedImage
  msgMasks : Vector (BitVec 16) 4
  slow : List SlowMsg
  routes : List (Nat × BitVec 12)
  links : Vector Link 12
  platform : Platform
  hostRead : List Byte
  /-- The replies that left last, and those that wait for dlock (R388, R404). -/
  peerReply : List (List Byte)
  peerHeld : List (List Byte)
  inputs : List (Nat × Instr)
  issue : Issue
  storeSeq : Nat
  /-- Stores in the store queues at the start of the cycle: cxid, sequence number, and whether a release of their context stands after
  them (R279). -/
  queued0 : List (Nat × Nat × Bool)
  resultSeq : Nat
  free : Nat
  deriving DecidableEq, Repr

/-! ## Reset -/

def Cluster.init : Cluster :=
  { s := Vector.replicate 32 (Holder.of 0), v := Vector.replicate 16 (Holder.of 0), m := Vector.replicate 8 (Holder.of 0) }

def Column.init : Column :=
  { ix := 0, iaA := [], iaG := [], vaA := [], vaB := [], vaM := [], sfA := [], lsA := [], rdL := [], rdM := [],
    iaO := Holder.of 0, vaO := Holder.of 0, sfO := Holder.of 0, lsO := Holder.of 0, sg := Vector.replicate 64 0,
    storeQ := [] }

/-- A context at device reset: every register at its task-start value (R96, R98, R99, R171-R173, R198, R213), the
device-reset registers at theirs (R40, R53, R24, R272, R387, R372) (notes/assumptions/9.md). -/
def Ctx.init : Ctx :=
  { clusters := Vector.replicate 4 Cluster.init, cols := Vector.replicate 4 Column.init,
    rd := Vector.replicate 4 (Holder.of 0),
    guards := (Vector.replicate 16 (Guard.resolved false)).set 0 (Guard.resolved true),
    parked := [], lc := 0, rb := 0, cq := [], wid := 0, nst := 0, rnk := 0, rnc := 0, wcol := false, held := [],
    loops := [], pst := 0, fel := false, fer := false, pl := false, strt := 0, rem := 0, links := [],
    tvec := 0, tcs := 0, tpc := 0, tres := 0, tinf := 0, tseg := 0, pc := 0,
    tl := Vector.replicate 12 { issued := 0, out := [], latch := none },
    scopes := Vector.replicate 16 {}, flight := [], replay := [], fills := [], synQ := [],
    perf := Vector.replicate 8 0, perfNow := Vector.replicate 8 0, cxid := 0, relBarrier := 0, relSp := Vector.replicate 4 0, acq := 0, lost := 0, wrote := [], acquires := [], run := .free, task := none,
    seg := 0, start := 0, shift := 0, base := 0, aged := false, pendL := [], pendP := none, pendO := none,
    nowFlags := 0, nextFlags := 0, walked := [], preReq := false,
    slice := none, issuedAt := none }

def Tile.init : Tile := { acc := Vector.replicate 1024 0, kept := [], nan := 0 }

def BBuf.init : BBuf :=
  { fld := Vector.replicate 1024 0, sgn := 0, sel := 0, kind := 0, width := 8, gap := Vector.replicate 32 0,
    eb := Vector.replicate 32 0, nan := 0 }

/-- A strip with every tile and buffer clear and no owner (R236) (notes/assumptions/7.md). -/
def Strip.init : Strip :=
  { owner := none, tiles := Vector.replicate 8 Tile.init, bufs := Vector.replicate 2 BBuf.init, cmds := [] }

def Die.init : Die :=
  { queues := Vector.replicate 4 [], pages := Vector.replicate 256 {}, evSet := false, evArea := 0,
    evCount := 0, evProd := 0, producer := 0, consumer := 0, waiting := [], slow := false }

/-- The machine right after device reset (R6, R24, R40, R53, R272, R286, R298, R372, R373, R387, R402-R409; the values
the manual does not give are those of notes/assumptions/2.md to 11.md and 50.md). -/
def State.reset : State :=
  { now := 0, coreNum := 0, mode := 0, lcores := Vector.replicate 4 {}, otherCores := [], ctxs := Vector.replicate 8 Ctx.init,
    mem := [], spad := [], spad0 := [], hostMem := [], peerMem := [], poisonG := [], poisonS := [], poisonP := [],
    l1 := [], icache := [], iload := [], tcache := [], walks := [], cal := [], occ := [], compactDue := false,
    released := false,
    searched := false, strips := Vector.replicate 4 Strip.init,
    chans := Vector.replicate 5 { cmds := [], parked := [], retryAt := 0 }, landings := [], sel := [], ckp := [], ckRetryAt := 0, ckParks := 0,
    ckLand := [], syn := [], phasers := [], phWaits := [], members := [], phNreg := [], scopeOps := [], rawAcc := 0,
    tenants := Vector.replicate 16 {}, dies := Vector.replicate 2 Die.init, pageOver := [], denied := [], tasks := [], nextId := 1,
    replays := [], images := [], msgMasks := (Vector.replicate 4 0).set 0 0xFFFF, slow := [], routes := [],
    links := Vector.replicate 12 {}, platform := {}, hostRead := [], peerReply := [], peerHeld := [], inputs := [],
    issue := {}, storeSeq := 1, queued0 := [], resultSeq := 0, free := 0 }

end Sys2Proof.Machine
end

