-- ==== Sys2Proof/Machine/Ops.lean ====
section
/-! DEFINITION. Named operations over memory, contexts and registers, and taking and leaving a trap
(spec/12_memory.md R260, R261; spec/07_traps.md R195-R203). -/

namespace Sys2Proof.Machine

/-! ## Memory -/

/-- The byte at `x`; an unlisted address reads as 0 (notes/assumptions/5.md). -/
def memGet : Memory → Nat → Byte
  | [], _ => 0
  | (a, b) :: m, x => if a = x then b else memGet m x

/-- Memory with byte `v` at `x`, in the canonical form. -/
def memPut : Memory → Nat → Byte → Memory
  | [], x, v => if v = 0 then [] else [(x, v)]
  | (a, b) :: m, x, v =>
    if x < a then (if v = 0 then (a, b) :: m else (x, v) :: (a, b) :: m)
    else if x = a then (if v = 0 then m else (x, v) :: m)
    else (a, b) :: memPut m x v

/-- Every address of the list is above `lo` (none: no bound), rising, and no byte is 0. -/
def Memory.wfFrom : Option Nat → Memory → Bool
  | _, [] => true
  | lo, (a, b) :: m => (match lo with | none => true | some l => decide (l < a)) && b != 0 && Memory.wfFrom (some a) m

/-- The canonical form: addresses strictly rising, no entry equal to what an unlisted address reads as. -/
def Memory.wf (m : Memory) : Bool := Memory.wfFrom none m

/-- The `n` bytes from `x` on. -/
def memRead (m : Memory) : Nat → Nat → List Byte
  | _, 0 => []
  | x, n + 1 => memGet m x :: memRead m (x + 1) n

/-- Memory with the bytes stored from `x` on. -/
def memWrite : Memory → Nat → List Byte → Memory
  | m, _, [] => m
  | m, x, b :: bs => memWrite (memPut m x b) (x + 1) bs

/-- The number in the `n` bytes from `x` on (R4). -/
def memNat (m : Memory) (x n : Nat) : Nat := ofLeBytes (memRead m x n)

/-! ## Vectors by number -/

/-- Element `i`, or `d` beyond the end. -/
def vget {α : Type} {n : Nat} (v : Vector α n) (i : Nat) (d : α) : α := if h : i < n then v[i] else d

/-- The vector with element `i`, if any, replaced. -/
def vset {α : Type} {n : Nat} (v : Vector α n) (i : Nat) (x : α) : Vector α n := v.setIfInBounds i x

def vmap {α β : Type} {n : Nat} (f : α → β) (v : Vector α n) : Vector β n := ⟨(v.toList.map f).toArray, by simp⟩

def vmod {α : Type} {n : Nat} (v : Vector α n) (i : Nat) (f : α → α) : Vector α n :=
  if h : i < n then v.set i (f v[i]) else v

/-! ## Contexts and columns -/

def State.ctx (s : State) (c : Nat) : Ctx := vget s.ctxs c Ctx.init

def State.setCtx (s : State) (c : Nat) (x : Ctx) : State := { s with ctxs := vset s.ctxs c x }

def State.modCtx (s : State) (c : Nat) (f : Ctx → Ctx) : State := { s with ctxs := vmod s.ctxs c f }

def Ctx.col (x : Ctx) (j : Nat) : Column := vget x.cols j Column.init

def Ctx.modCol (x : Ctx) (j : Nat) (f : Column → Column) : Ctx := { x with cols := vmod x.cols j f }

def Ctx.modCluster (x : Ctx) (j : Nat) (f : Cluster → Cluster) : Ctx := { x with clusters := vmod x.clusters j f }

/-! ## Rotation (R183) -/

/-- Physical number of logical scalar register `n`. -/
def physS (rb : BitVec 7) (n : Nat) : Nat :=
  if n < 16 then n else 16 + (n - 16 + rb.toNat % 16) % 16

/-- Physical number of logical vector register `n`. -/
def physV (rb : BitVec 7) (n : Nat) : Nat :=
  if n < 8 then n else 8 + (n - 8 + rb.toNat / 16) % 8

/-! ## Alternatives at one width -/

def Alt.widen {w : Nat} (a : Alt w) : Alt 2048 := { a with val := a.val.setWidth 2048 }

def Alt.fit64 (a : Alt 2048) : Alt 64 := { a with val := a.val.setWidth 64 }

/-- The alternatives of a place, at 2048 bits. -/
def Ctx.alts (x : Ctx) : Loc → List (Alt 2048)
  | .s cl n => (vget (vget x.clusters cl Cluster.init).s n (Holder.of 0)).alts.map Alt.widen
  | .v cl n => (vget (vget x.clusters cl Cluster.init).v n (Holder.of 0)).alts
  | .m cl n => (vget (vget x.clusters cl Cluster.init).m n (Holder.of 0)).alts.map Alt.widen
  | .port j p =>
    let c := x.col j
    match p with
    | .iaA => c.iaA.map Alt.widen
    | .iaG => c.iaG.map Alt.widen
    | .vaA => c.vaA
    | .vaB => c.vaB
    | .vaM => c.vaM.map Alt.widen
    | .sfA => c.sfA
    | .lsA => c.lsA.map Alt.widen
    | .rdL => c.rdL.map Alt.widen
    | .rdM => c.rdM.map Alt.widen
  | .iaO j => (x.col j).iaO.alts.map Alt.widen
  | .vaO j => (x.col j).vaO.alts
  | .sfO j => (x.col j).sfO.alts
  | .lsO j => (x.col j).lsO.alts
  | .rdP q => (vget x.rd q (Holder.of 0)).alts.map Alt.widen
  | .guard _ => []
  | .cq => []

/-- Whether the place is full (R100). -/
def Ctx.isFull (x : Ctx) : Loc → Bool
  | .s cl n => (vget (vget x.clusters cl Cluster.init).s n (Holder.of 0)).full
  | .v cl n => (vget (vget x.clusters cl Cluster.init).v n (Holder.of 0)).full
  | .lsO j => (x.col j).lsO.full
  | _ => true

/-- Store a port's alternatives. -/
def Column.setPort (c : Column) (p : Port) (as : List (Alt 2048)) : Column :=
  match p with
  | .iaA => { c with iaA := as.map Alt.fit64 }
  | .iaG => { c with iaG := as.map Alt.fit64 }
  | .vaA => { c with vaA := as }
  | .vaB => { c with vaB := as }
  | .vaM => { c with vaM := as.map Alt.fit64 }
  | .sfA => { c with sfA := as }
  | .lsA => { c with lsA := as.map Alt.fit64 }
  | .rdL => { c with rdL := as.map Alt.fit64 }
  | .rdM => { c with rdM := as.map Alt.fit64 }

/-- Store the alternatives and full bit of a place; guards and cq are written elsewhere. -/
def Ctx.setAlts (x : Ctx) (l : Loc) (as : List (Alt 2048)) (full : Bool := true) : Ctx :=
  match l with
  | .s cl n => x.modCluster cl fun c => { c with s := vset c.s n { alts := as.map Alt.fit64, full := full } }
  | .v cl n => x.modCluster cl fun c => { c with v := vset c.v n { alts := as, full := full } }
  | .m cl n => x.modCluster cl fun c => { c with m := vset c.m n { alts := as.map Alt.fit64, full := full } }
  | .port j p => x.modCol j fun c => c.setPort p as
  | .iaO j => x.modCol j fun c => { c with iaO := { alts := as.map Alt.fit64, full := full } }
  | .vaO j => x.modCol j fun c => { c with vaO := { alts := as, full := full } }
  | .sfO j => x.modCol j fun c => { c with sfO := { alts := as, full := full } }
  | .lsO j => x.modCol j fun c => { c with lsO := { alts := as, full := full } }
  | .rdP q => { x with rd := vset x.rd q { alts := as.map Alt.fit64, full := full } }
  | .guard _ => x
  | .cq => x

/-- Whether the place holds 2048 bits (R68). -/
def Loc.isVec : Loc → Bool
  | .v _ _ => true
  | .port _ .vaA => true
  | .port _ .vaB => true
  | .port _ .sfA => true
  | .vaO _ => true
  | .sfO _ => true
  | .lsO _ => true
  | _ => false

/-- The single unconditional value of a place, where it has one. -/
def oneOf (as : List (Alt 2048)) : Option Vec :=
  match as with
  | [a] => if a.void || !a.term.isEmpty then none else some a.val
  | _ => none

/-! ## Guards, cq and the loop counter -/

/-- What a guard field says of its slot (R65, R104). -/
inductive GState where
  | yes | no
  | opened (n : Nat) (sense : Bool)
  deriving DecidableEq, Repr

def Ctx.guard (x : Ctx) (n : Nat) : Guard := if n = 0 then .resolved true else vget x.guards n (.resolved false)

def Ctx.gstate (x : Ctx) (inv : Bool) (g : Nat) : GState :=
  match x.guard g with
  | .resolved b => if b != inv then .yes else .no
  | .opened => .opened g (!inv)

def Ctx.isOpen (x : Ctx) (n : Nat) : Bool := n != 0 && x.guard n == .opened

/-- The lowest-numbered open guard. -/
def Ctx.lowestOpen (x : Ctx) : Option Nat := firstFrom x.isOpen 15 1

def Ctx.hasPark (x : Ctx) (n : Nat) : Bool := x.parked.any (fun p => p.g == n)

/-- Whether the innermost loop entry is pipelined: lc then names plp.rem (R179). -/
def Ctx.innerPipe (x : Ctx) : Bool := match x.loops with | e :: _ => e.pipe | [] => false

def Ctx.lcNow (x : Ctx) : BitVec 32 := if x.innerPipe then x.rem else x.lc

def Ctx.setLc (x : Ctx) (v : BitVec 32) : Ctx := if x.innerPipe then { x with rem := v } else { x with lc := v }

/-! ## Timeline counters (R24) -/

def Timeline.done (t : Timeline) : Nat :=
  match leastOf t.out with
  | some n => n - 1
  | none => t.issued

def Timeline.next (t : Timeline) : Timeline := { t with issued := t.issued + 1, out := t.out ++ [t.issued + 1] }

def Timeline.finish (t : Timeline) (n : Nat) : Timeline := { t with out := t.out.filter (· != n) }

def tl0 : Timeline := { issued := 0, out := [], latch := none }

def Ctx.timeline (x : Ctx) (i : Nat) : Timeline := vget x.tl i tl0

/-- Operation `n` of context `c` on counter `i` has completed (R24). -/
def State.finishOp (s : State) (c i n : Nat) : State := s.modCtx c fun x => { x with tl := vmod x.tl i (·.finish n) }

/-- Latch a denial on counter `i` (R315, R342): the first address, the lowest number. -/
def State.latchDenial (s : State) (c i va num : Nat) (poison : Bool) : State :=
  s.modCtx c fun x => { x with tl := vmod x.tl i fun t =>
    { t with latch := some (match t.latch with
      | none => { va := va, poison := poison, low := num }
      | some d => { d with low := min d.low num }) } }

/-! ## Performance counters (R387) -/

def Ctx.count (x : Ctx) (i : Nat) (n : Nat := 1) : Ctx :=
  { x with perf := vmod x.perf i (· + BitVec.ofNat 64 n), perfNow := vmod x.perfNow i (· + n) }

/-! ## Free values and delays -/

/-- A fresh free delay (notes/assumptions/14.md, notes/assumptions/16.md). -/
def State.delay (s : State) : Nat × State := (Config.freeDelay s.free, { s with free := s.free + 1 })

def State.choice (s : State) : Nat × State := (Config.freeChoice s.free, { s with free := s.free + 1 })

def State.freeBits (s : State) : Vec × State := (Config.freeVec s.free, { s with free := s.free + 1 })

/-- Bytes that the manual leaves undefined or to the device: those of the free values from number `from_` on. -/
def freeBytes (from_ n : Nat) : List Byte :=
  ((List.range ((n + 255) / 256)).flatMap fun i => leBytes 256 (Config.freeVec (from_ + i)).toNat).take n

/-! ## Global memory at its home (R260, R261, R302) -/

/-- Home slice of a global physical address (R260). -/
def homeSlice (pa : Nat) : Nat :=
  Nat.xor (fld pa 8 6) (Nat.xor (fld pa 14 6) (Nat.xor (fld pa 20 6) (Nat.xor (fld pa 26 6)
    (Nat.xor (fld pa 32 6) (Nat.xor (fld pa 38 6) (Nat.xor (fld pa 44 6) (fld pa 50 2)))))))

/-- The home slice of an address and its HBM stack are ready (R402, R403). -/
def State.homeReady (s : State) (pa : Nat) : Bool :=
  let brs := s.platform.brs.toNat
  bitAt brs (10 + homeSlice pa / 32) && (fld brs 2 8 == 255 || bitAt brs (2 + Config.hbmStack pa))

/-- The L1 lines a span touches. -/
def linesOf (pa n : Nat) : List Nat := (List.range ((pa + n + 127) / 128 - pa / 128)).map fun i => (pa / 128 + i) * 128

/-- Granules of 64 bytes a span touches. -/
def granules (a n : Nat) : List Nat := (List.range ((a + n + 63) / 64 - a / 64)).map (· + a / 64)

/-- Granules a write of `n` bytes at `a` covers whole: their poison clears (R302). -/
def coveredGranules (a n : Nat) : List Nat :=
  (granules a n).filter fun g => decide (a ≤ 64 * g) && decide (64 * g + 64 ≤ a + n)

def clearPoison (ps : List Nat) (a n : Nat) : List Nat :=
  ps.filter fun g => !(decide (a ≤ 64 * g) && decide (64 * g + 64 ≤ a + n))

def isPoisoned (ps : List Nat) (a n : Nat) : Bool :=
  ps.any fun g => decide (64 * g < a + n) && decide (a < 64 * g + 64)

/-- A write performs at its home: memory, poison, and every L1 copy under another cxid becomes invalid; a write that
carries no cxid invalidates them all (R261). -/
def State.writeGlobal (s : State) (pa : Nat) (bs : List Byte) (cxid : Option Nat) : State :=
  if bs.isEmpty then s
  else
    let n := bs.length
    { s with
      mem := memWrite s.mem pa bs
      poisonG := clearPoison s.poisonG pa n
      l1 := s.l1.filter fun l =>
        !(decide (l.line < pa + n) && decide (pa < l.line + 128)) || cxid == some l.cxid }

/-- Bytes at the home. -/
def State.readGlobal (s : State) (pa n : Nat) : List Byte := memRead s.mem pa n

/-! ## Stores that wait in store queues (R264, R268, R279) -/

def oldestFirst : List StoreEntry → List StoreEntry := sortBy fun a b => decide (a.seq ≤ b.seq)

/-- The stores in queues of the core that `p` takes, each beside the context of its queue, oldest first. -/
def State.queued (s : State) (p : Ctx → StoreEntry → Bool) : List StoreEntry :=
  oldestFirst (s.ctxs.toList.flatMap fun x => x.cols.toList.flatMap fun k => k.storeQ.filter (p x))

/-- The store writes a byte of the range. -/
def StoreEntry.meets (e : StoreEntry) (pa n : Nat) : Bool := decide (e.pa < pa + n) && decide (pa < e.pa + e.data.length)

/-- Stores waiting under a cxid. -/
def State.pendingStores (s : State) (cxid : Nat) : List StoreEntry := s.queued fun _ e => e.cxid == cxid

/-- Stores below `bound` that wait under other cxids and that a release of their context has put before its later accesses: an acquire
whose bound this is may be the other half (R269, R280, notes/assumptions/85.md). -/
def State.releasedStores (s : State) (cxid bound : Nat) : List StoreEntry :=
  s.queued fun x e => e.cxid != cxid && decide (e.seq < bound) && decide (e.seq < x.relBarrier)

/-- A context's own stores of sequence numbers below `stamp`, oldest first. -/
def State.ownStores (s : State) (c stamp : Nat) : List StoreEntry :=
  oldestFirst ((s.ctx c).cols.toList.flatMap fun k => k.storeQ.filter fun e => decide (e.seq < stamp))

/-- Stores in queues of the core that go before an access of context `c` to their bytes: its own with a number below `stamp` (R264,
R282), and below `acq`, which bounds what it has observed or put behind itself by an acquire, those under its cxid and those that
their contexts released (R269-R271, notes/assumptions/85.md). -/
def State.storesBefore (s : State) (c stamp acq : Nat) : List StoreEntry :=
  let cxid := (s.ctx c).cxid.toNat
  s.ownStores c stamp ++ (s.pendingStores cxid).filter (fun e => decide (e.seq < acq)) ++ s.releasedStores cxid acq

/-- The bound of the stores that a context has observed or put behind itself by an acquire. -/
def Ctx.acqBound (x : Ctx) : Nat := max x.acq x.seen

/-- Numbers of the waiting stores that tasks issued. -/
def State.storesOf (s : State) (ids : List Nat) : List Nat :=
  (s.queued fun _ e => match e.task with | some i => ids.contains i | none => false).map (·.seq)

/-- Numbers of the waiting stores that a point puts after the accesses of a task: its own, and while it is bound those behind its
acquires (R148, R413, notes/assumptions/22.md). -/
def State.storesOfTask (s : State) (t : Task) : List Nat :=
  let behind := fun (c : Nat) => ((s.storesBefore c 0 (s.ctx c).acqBound).map (·.seq))
  s.storesOf [t.id] ++ (if t.st == .bound then match t.ctx with | some c => behind c | none => [] else [])

/-- Key of byte `off` of the scratchpad of a physical core. -/
def spadKey (core off : Nat) : Nat := core * Config.spadBytes + off

/-- A write of scratchpad bytes (R302). -/
def State.writeSpad (s : State) (key : Nat) (bs : List Byte) : State :=
  { s with spad := memWrite s.spad key bs, poisonS := clearPoison s.poisonS key bs.length }

/-! ## Tasks -/

def State.task (s : State) (id : Nat) : Option Task := s.tasks.find? (·.id == id)

def State.modTask (s : State) (id : Nat) (f : Task → Task) : State :=
  { s with tasks := s.tasks.map fun t => if t.id == id then f t else t }

/-- The task bound to a context. -/
def State.boundTask (s : State) (c : Nat) : Option Task :=
  match (s.ctx c).task with
  | some id => s.task id
  | none => none

/-- The resident kernel of a task. -/
def State.kernelOf (s : State) (t : Task) : Option Kernel :=
  s.icache.find? fun k => k.tenant == t.tenant && k.kimg == t.kimg

/-- The segment `q` of a kernel. -/
def Kernel.seg (k : Kernel) (q : Nat) : Seg := k.segs.getD q { entry := 0, fp0 := 0, fpn := 0, cs := 0 }

/-- The tenant of a context: that of its bound task. -/
def State.tenantOf (s : State) (c : Nat) : Nat := ((s.boundTask c).map (·.tenant)).getD 0

def State.tenant (s : State) (t : Nat) : Tenant := vget s.tenants t {}

def State.modTenant (s : State) (t : Nat) (f : Tenant → Tenant) : State := { s with tenants := vmod s.tenants t f }

def State.die (s : State) (d : Nat) : Die := vget s.dies d Die.init

def State.modDie (s : State) (d : Nat) (f : Die → Die) : State := { s with dies := vmod s.dies d f }

/-! ## Phaser records (R325, R326) -/

/-- A record from its bits. The rules keep nreg + dreg1 in 0 to 65 535, so that dreg1 follows from its field modulo 2^16. An nreg below
0, which a drop may leave (R335), is the number `low` kept beside the record (notes/assumptions/18.md). -/
def phaserOf (b : Nat) (low : Option Int) : Phaser :=
  let a := fld b 464 16
  let nreg : Int := match low with | some n => if ofSigned 16 n == a then n else a | none => a
  { phase := fld b 480 32, nreg := nreg, narr := fld b 448 16, narr1 := fld b 432 16,
    dreg1 := ((a + fld b 416 16) % 2 ^ 16 : Nat) - nreg, wcnt := fld b 400 16, gang := bitAt b 335, val := bitAt b 334, peer := bitAt b 321,
    host := bitAt b 320, slices := BitVec.ofNat 64 (fld b 256 64), cores := BitVec.ofNat 256 (fld b 0 256) }

def State.phArea (s : State) (tenant die : Nat) : Nat × Nat :=
  let t := s.tenant tenant
  (vget t.phBase die 0, vget t.phCount die 0)

/-- Address of a record in its area. -/
def State.phAddr (s : State) (tenant die i : Nat) : Nat := (s.phArea tenant die).1 + 64 * i

/-- The synchronisation engine of a die is ready (R402, R403). -/
def State.synUp (s : State) (die : Nat) : Bool := bitAt s.platform.brs.toNat (14 + die)

def State.phPoisoned (s : State) (tenant die i : Nat) : Bool := isPoisoned s.poisonG (s.phAddr tenant die i) 64

/-- A record as SYN holds it, or as the area does. -/
def State.phaser (s : State) (tenant die i : Nat) : Phaser :=
  match s.phasers.find? fun r => r.tenant == tenant && r.die == die && r.index == i with
  | some r => r.ph
  | none => phaserOf (memNat s.mem (s.phAddr tenant die i) 64) ((s.phNreg.find? (·.1 == s.phAddr tenant die i)).map (·.2))

/-- The die of the modelled core (R14). -/
def State.dieNo (s : State) : Nat := if s.coreNum.toNat < 128 then 0 else 1

/-- Width of a logical core and its base column (R18, R380). -/
def lcoreWidth (mode : Nat) : Nat := match mode with | 0 => 4 | 1 => 2 | _ => 1

def lcoreCount (mode : Nat) : Nat := match mode with | 0 => 1 | 1 => 2 | _ => 4

/-- The logical core that holds physical column `b`. -/
def lcoreOf (mode b : Nat) : Nat := b / lcoreWidth mode

/-! ## Events (R377, R379) -/

/-- A die raises an event; it waits to be appended (R379). -/
def State.raiseEvent (s : State) (d : Nat) (e : Event) : State :=
  s.modDie d fun x => { x with waiting := x.waiting ++ [e] }

/-- A flit arrives on a link: a trained link that was down comes back up (R389). -/
def State.flit (s : State) (l : Nat) : State :=
  let k := vget s.links l {}
  let s := { s with links := vset s.links l { up := k.up || bitAt s.platform.brs.toNat (32 + l), last := s.now } }
  if !k.up && bitAt s.platform.brs.toNat (32 + l) then
    s.raiseEvent (l / 6) { kind := 6, status := 0, die := l / 6, a := l, b := 1 }
  else s

/-- Where a packet of the device went to a peer, the answer that ends it arrives on one of the trained links, of the peer's choice:
a flit like any other (R389, notes/assumptions/35.md). -/
def State.answered (s : State) (peer : Bool) : State :=
  let ls := (List.range 12).filter fun l => bitAt s.platform.brs.toNat (32 + l)
  if peer && !ls.isEmpty then
    let (n, s) := s.choice
    s.flit (ls.getD (n % ls.length) 0)
  else s

/-- The 128 bits of an error-log record (R304). -/
def ErrRec.bits (r : ErrRec) : Nat :=
  r.loc * 2 ^ 32 + r.kind * 2 ^ 36 + r.tv.toNat * 2 ^ 40 + r.ctx * 2 ^ 41 + r.tnt * 2 ^ 44 + r.core * 2 ^ 48 +
    r.rpt * 2 ^ 56 + r.pa % 2 ^ 52 * 2 ^ 64

/-- A further occurrence of the same error (R303, R379): of kind 3, one tenant and one granule. -/
def ErrRec.again (r o : ErrRec) : Bool :=
  if r.kind == 3 then o.kind == 3 && o.tv == r.tv && o.tnt == r.tnt && o.pa == r.pa && (o.loc == 3) == (r.loc == 3)
  else { o with rpt := r.rpt } == r

def ErrRec.event (r : ErrRec) (d : Nat) : Event :=
  { kind := 5, status := 0, die := d, tnt := r.tnt, ctx := r.ctx, core := r.core, a := r.bits % 2 ^ 64, b := r.bits >>> 64,
    err := some r }

/-- Append a record to the error log of die `d`, an event of kind 5 (R304, R378). Where the record still waits, its repeat count
rises instead (R303, R379). -/
def State.logError (s : State) (d : Nat) (r : ErrRec) : State :=
  if (s.die d).waiting.any fun e => e.err.any r.again then
    s.modDie d fun x => { x with waiting := x.waiting.map fun e =>
      match e.err with
      | some o => if r.again o then { o with rpt := min 255 (o.rpt + 1) }.event d else e
      | none => e }
  else s.raiseEvent d (r.event d)

/-! ## Traps (R195-R203) -/

/-- Cause codes (R195). -/
def cIllegalSlot : Cause := { code := 0x01 }
def cIllegalSource : Cause := { code := 0x02 }
def cIllegalDestination : Cause := { code := 0x03 }
def cIllegalEngine : Cause := { code := 0x04 }
def cIllegalCommand : Cause := { code := 0x05 }
def cIllegalControl : Cause := { code := 0x06 }
def cUnitConflict : Cause := { code := 0x08 }
def cEngineConflict : Cause := { code := 0x09 }
def cWriteCollision : Cause := { code := 0x0A }
def cLandingCollision : Cause := { code := 0x0A, sub := 1 }
def cEmptySource : Cause := { code := 0x0B }
def cNoResolver : Cause := { code := 0x0C }
def cShadeMode : Cause := { code := 0x0C, sub := 1 }
def cMissingOperand : Cause := { code := 0x0D }
def cBadOperand : Cause := { code := 0x0E }
def cGuardState : Cause := { code := 0x0F }
def cOverrun : Cause := { code := 0x10 }
def cBooking : Cause := { code := 0x11 }
def cCqOverflow : Cause := { code := 0x12 }
def cCqUnderflow : Cause := { code := 0x12, sub := 1 }
def cBranchTarget : Cause := { code := 0x13 }
def cLinkOverflow : Cause := { code := 0x14 }
def cLinkUnderflow : Cause := { code := 0x14, sub := 1 }
def cLinkYield : Cause := { code := 0x14, sub := 2 }
def cLoopState : Cause := { code := 0x15 }
def cIllegalWait : Cause := { code := 0x16 }
def cTimelineAhead : Cause := { code := 0x17 }
def cFrameArena : Cause := { code := 0x18 }
def cTrapState : Cause := { code := 0x19 }
def cArithmetic (flag : Nat) : Cause := { code := 0x20, sub := flag }
def cBadHusk : Cause := { code := 0x21 }
def cAlignment : Cause := { code := 0x22 }
def cPermission : Cause := { code := 0x23 }
def cPoison : Cause := { code := 0x24 }
def cStaleScope : Cause := { code := 0x25 }
def cProgram : Cause := { code := 0x30 }

/-- tcs.hm: the context is in handler mode (R198). -/
def Ctx.inHandler (x : Ctx) : Bool := x.tcs.getLsbD 35

/-- The tcs word of a record (R198): handler mode and a double trap are set apart. -/
def tcsOf (r : TrapRec) : Word :=
  BitVec.ofNat 64 (r.cause.code + r.cause.sub * 2 ^ 8 + r.cls * 2 ^ 22 + r.slot * 2 ^ 32 + r.mult.toNat * 2 ^ 36)

/-- Step 3 of R200 as R202 refines it: the record, with dbl and dcause clear (notes/assumptions/83.md), or in handler mode dbl and
dcause alone. `resume` is the index of the bundle at the boundary. -/
def Ctx.recordTrap (x : Ctx) (r : TrapRec) (resume : Nat) : Ctx :=
  if x.inHandler then
    { x with tcs := (x.tcs &&& 0xFFFF00FFFFFFFFFF#64) ||| (BitVec.ofNat 64 (r.cause.code * 2 ^ 40 + 2 ^ 37)) }
  else
    { x with
      tcs := tcsOf r
      tpc := BitVec.ofNat 64 r.pc
      tinf := BitVec.ofNat 64 r.info
      tres := BitVec.ofNat 64 resume
      tseg := BitVec.ofNat 64 x.seg }

/-- A context whose traps are not delivered any more: a drain (R200), or after done (R147). -/
def Run.quiet : Run → Bool
  | .drain _ _ => true
  | .ending => true
  | _ => false

/-- A further trap during a drain sets mult (R200). -/
def Ctx.drained (x : Ctx) : Ctx :=
  match x.run with
  | .drain d r => { x with run := .drain d { r with mult := true } }
  | _ => x

/-- Taking a trap at boundary `now`, the one shared operation (R200 steps 1 and 2): the context issues nothing more; the
record is written once every result in flight has landed. -/
def State.takeTrap (s : State) (c : Nat) (r : TrapRec) : State :=
  s.modCtx c fun x =>
    let last := x.flight.foldl (fun d f => max d f.land) s.now
    { (if r.cause.code == 0x10 then x.count 5 else x) with
      run := .drain last r, pendL := [], pendP := none, walked := [] }

/-- Whether the trap goes to the handler segment (R201). -/
def Ctx.entersHandler (x : Ctx) : Bool := x.tvec.getLsbD 63 && !x.inHandler

/-- Leaving a handler (R203): hm clears, nothing else of tcs. -/
def Ctx.leaveHandler (x : Ctx) : Ctx := { x with tcs := x.tcs &&& 0xFFFFFFF7FFFFFFFF#64, pc := x.tres.toNat }

end Sys2Proof.Machine
end

