-- ==== Sys2Proof/Machine/Calendar.lean ====
section
/-! DEFINITION. The calendar's cells: who owns which resource in which cycle (spec/05_tasks.md R149-R162). -/

namespace Sys2Proof.Machine

/-! ## Cells of one booking -/

/-- The run that may cover distance `d` from the start. -/
def Booking.runAt (b : Booking) (d : Nat) : Nat := min (d / b.per) (b.count - 1)

/-- Whether a run of the booking covers cycle `t` (R151), released early or not. -/
def Booking.inRun (b : Booking) (t : Nat) : Bool :=
  decide (b.start ≤ t) &&
  (match b.cut with | some c => decide (t < c) | none => true) &&
  (b.std || (b.count != 0 && decide (t - b.start - b.runAt (t - b.start) * b.per < b.len)))

/-- Whether the booking covers cycle `t`: a cell released early is free (R159, R160). -/
def Booking.covers (b : Booking) (t : Nat) : Bool :=
  b.inRun t && !b.holes.any fun h => decide (h.1 ≤ t) && decide (t ≤ h.2)

/-- The last cycle of the last run of a booking that is not standing. -/
def Booking.last (b : Booking) : Nat := b.start + (b.count - 1) * b.per + b.len - 1

/-- The first covered cycle at or after `t`, holes apart. -/
def Booking.next (b : Booking) (t : Nat) : Option Nat :=
  let f : Option Nat :=
    if b.std then some (max t b.start)
    else if b.count == 0 then none
    else if t ≤ b.start then some b.start
    else
      let k := b.runAt (t - b.start)
      if t - b.start - k * b.per < b.len then some t
      else if k + 1 < b.count then some (b.start + (k + 1) * b.per)
      else none
  match b.cut with
  | none => f
  | some c => f.filter (· < c)

/-- Runs of an extended entry remain beyond the window (R157). -/
def Booking.extending (b : Booking) (now : Nat) : Bool :=
  b.ext.isSome && b.cut.isNone && decide (now + Config.window ≤ b.last)

/-- A held cell: beyond the window of the booking, inside the extension, under no run (R157). -/
def Booking.holds (b : Booking) (now t : Nat) : Bool :=
  match b.ext with
  | some e => b.extending now && decide (e ≤ t) && !b.inRun t
  | none => false

def Booking.shift (b : Booking) (d : Nat) : Booking :=
  { b with start := b.start + d, cut := b.cut.map (· + d), holes := b.holes.map fun h => (h.1 + d, h.2 + d) }

/-! ## Cells of the core -/

/-- Context `c` owns the cell for use: booked and not held (R157, R158), or one that a command of its own in progress occupies,
which stays booked to it whatever is released (R160, R191). -/
def State.owns (s : State) (c res t : Nat) : Bool :=
  (s.cal.any fun b => b.ctx == c && b.res == res && b.covers t) ||
  s.occ.any fun o => o.1 == c && o.2.1 == res && decide (o.2.2.1 ≤ t) && decide (t ≤ o.2.2.2)

/-- An engine command in progress occupies the cell (R160). -/
def State.occupied (s : State) (res t : Nat) : Bool :=
  s.occ.any fun o => o.2.1 == res && decide (o.2.2.1 ≤ t) && decide (t ≤ o.2.2.2)

/-- The cell is owned by nobody but the contexts `ign` passes over. -/
def State.freeCell (s : State) (ign : Nat → Bool) (res t : Nat) : Bool :=
  !s.occupied res t && !s.cal.any fun b => b.res == res && !ign b.ctx && (b.covers t || b.holds s.now t)

/-- No resource: what stands for injection port 1 where the mode gives the kernel none (R142, R162). -/
def noPort : Nat := 49

/-- SEL, RED, CKP and injection cells open to logical core `h` (R162). -/
def shareOpen (mode h res t : Nat) : Bool :=
  let w := t / 64
  if 12 ≤ res && res ≤ 14 then (mode == 0 || w % lcoreCount mode == h)
  else if res ≥ noPort then false
  else if res ≥ 47 then (mode != 2 || w % 2 == h % 2)
  else true

/-- The physical resource of kernel resource `k` for base column `b` (R150, R162). -/
def physRes (mode b k : Nat) : Option Nat :=
  if k < 12 then some (k + b)
  else if k < 15 then some k
  else if k < 47 then some (k + 8 * b)
  else
    let h := lcoreOf mode b
    match mode with
    | 0 => some k
    | 1 => if k == 47 then some (47 + h) else none
    | _ => if k == 47 then some (47 + h / 2) else none

/-- The kernel's injection port that a booking under mode `mode` holds as physical resource `r` (R162). -/
def portOf (mode r : Nat) : Nat := if r == noPort then 48 else if mode == 0 then r else 47

/-- The kernel resource number of physical resource `r` for base column `b` (R91). -/
def kernelRes (b r : Nat) : Nat := if r < 12 then r - b else if r < 15 then r else if r < 47 then r - 8 * b else r

/-- A booking made at `now`: one that runs past the window is an extended entry (R157). -/
def Booking.extended (b : Booking) (now : Nat) : Booking :=
  if !b.std && b.count != 0 && decide (now + Config.window ≤ b.last) then { b with ext := some (now + Config.window) } else b

/-- The booking of one footprint entry from start `st`; `n` is a register count (R151, R156, R157). -/
def FpEntry.book (f : FpEntry) (c res st n now : Nat) : Booking :=
  ({ ctx := c, res := res, start := st + f.off, len := f.len + 1, per := f.per + 1, std := f.std,
     count := if f.std then 0 else if f.creg then n else f.rep } : Booking).extended now

/-- No other context holds the resource for good, where the booking would run on beyond the window (R156, R157). -/
def State.tailFree (s : State) (ign : Nat → Bool) (b : Booking) : Bool :=
  (b.count == 0 && !b.std) || !(b.std || b.ext.isSome) || !s.cal.any fun o =>
    o.res == b.res && !ign o.ctx && ((o.std && o.cut.isNone) || o.extending s.now)

/-- The cells of an extended entry beyond the window are in the share of logical core `h` (R162): shares repeat after at most 256
cycles, so that 256 runs, and 256 cells of each, stand for all. -/
def State.shareBeyond (s : State) (h : Nat) (b : Booking) : Bool :=
  b.ext.isNone || s.mode == 0 || decide (b.res < 12) || (decide (15 ≤ b.res) && decide (b.res < 47)) ||
  (let first := b.runAt (s.now + Config.window - b.start)
   (List.range (min (b.count - first) 257)).all fun i => (List.range (min b.len 256)).all fun j =>
    let t := b.start + (first + i) * b.per + j
    decide (t < s.now + Config.window) || shareOpen s.mode.toNat h b.res t)

/-- Whether a new booking fits (R153, R156, R157): its cells in the window are free, open and not reserved; one that runs
beyond the window meets no other such entry on its resource, and stays in its share (R162). -/
def State.fits (s : State) (ign : Nat → Bool) (h : Nat) (rsv : List Booking) (b : Booking) : Bool :=
  let lo := max s.now b.start
  let hi := if b.std then s.now + Config.window else min (s.now + Config.window) (b.last + 1)
  (b.count == 0 && !b.std) || (s.tailFree ign b && s.shareBeyond h b && ((List.range (hi - lo)).all fun i =>
    let t := lo + i
    !b.covers t ||
    (s.freeCell ign b.res t && shareOpen s.mode.toNat h b.res t && !rsv.any fun r => r.res == b.res && r.covers t)))

/-- The task of context `c` owns all its columns in cycle `t`. -/
def State.ownsColumns (s : State) (c t : Nat) : Bool :=
  match s.boundTask c with
  | none => false
  | some k => (List.range k.width).all fun j => s.owns c ((s.ctx c).base + j) t

/-- The task of context `c` owns a column cell in cycle `t`, for use or held under an extended entry (R157, R387). -/
def State.hasColumn (s : State) (c t : Nat) : Bool :=
  match s.boundTask c with
  | none => false
  | some k => (List.range k.width).any fun j =>
      let r := (s.ctx c).base + j
      s.owns c r t || s.cal.any fun b => b.ctx == c && b.res == r && b.holds s.now t

/-- The first column cell at or after `t` of context `c`. -/
def State.nextColumn (s : State) (c t : Nat) : Option Nat :=
  leastOf (s.cal.filterMap fun b => if b.ctx == c && b.res == (s.ctx c).base then b.next t else none)

/-- Release every cell of context `c` from cycle `t` on (R160). -/
def State.release (s : State) (c t : Nat) : State :=
  { s with
    cal := s.cal.map fun b => if b.ctx == c then { b with cut := some (match b.cut with | some x => min x t | none => t) } else b
    released := true }

/-- Release the cells of one resource of context `c` from cycle `t` on (R191) (notes/assumptions/62.md). -/
def State.releaseRes (s : State) (c res t : Nat) : State :=
  if s.cal.any fun b => b.ctx == c && b.res == res && (b.next t).isSome then
    { s with
      cal := s.cal.map fun b => if b.ctx == c && b.res == res
        then { b with cut := some (match b.cut with | some x => min x t | none => t) } else b
      released := true }
  else s

/-- The booking covers a cell of the span. -/
def Booking.meets (b : Booking) (x y : Nat) : Bool := (List.range (y + 1 - x)).any fun i => b.covers (x + i)

/-- Release a span of an engine's cells after an early completion (R159): no cell that another booking of the context may take up
later (R160). -/
def State.releaseSpan (s : State) (c res a b : Nat) : State :=
  if a > b then s
  else { s with
    cal := s.cal.map fun x => if x.ctx == c && x.res == res && x.meets a b then { x with holes := (a, b) :: x.holes } else x
    occ := s.occ.filterMap fun o =>
      if o.1 == c && o.2.1 == res && decide (a ≤ o.2.2.2) && decide (o.2.2.2 ≤ b) then
        (if o.2.2.1 ≥ a then none else some (o.1, o.2.1, o.2.2.1, a - 1)) else some o
    released := true }

/-- A cell of the booking lies at or after `f`. -/
def Booking.remains (b : Booking) (f : Nat) : Bool :=
  let e := b.holes.foldl (fun e h => max e (h.2 + 1)) f
  (b.next e).isSome || (List.range (e - f)).any fun i => b.covers (f + i)

/-- Spans of a resource that engine commands of context `c` occupy. -/
def State.occSpans (s : State) (c res : Nat) : List (Nat × Nat) :=
  s.occ.filterMap fun o => if o.1 == c && o.2.1 == res then some (o.2.2.1, o.2.2.2) else none

/-- The pattern a forced yield or a pre-emption releases (R161): what is booked from `f` on, but for cells that engine commands
in progress occupy; standing entries only when `standing`. -/
def State.pattern (s : State) (c f : Nat) (standing : Bool) : List Booking :=
  s.cal.filterMap fun b =>
    if b.ctx == c && (standing || !b.std) then
      let b' := { b with holes := s.occSpans c b.res ++ b.holes }
      if b'.remains f then some b' else none
    else none

/-- Release the cells at or after `f`, the standing ones too when `standing` (R161, R294). -/
def State.releasePattern (s : State) (c f : Nat) (standing : Bool) : State :=
  let p := s.pattern c f standing
  if p.isEmpty then s
  else { s with
    cal := s.cal.map fun b => if b.ctx == c && (standing || !b.std)
      then { b with cut := some (match b.cut with | some x => min x f | none => f) } else b
    released := true }

/-- The released cells at or after `f` of a booking, as a booking of their own: the first run may be a rest. -/
def Booking.fromCycle (b : Booking) (f : Nat) : List Booking :=
  if b.std then [{ b with start := max b.start f }]
  else if f ≤ b.start then [b]
  else
    let k := b.runAt (f - b.start)
    let used := f - b.start - k * b.per
    let rest := { b with start := b.start + (k + 1) * b.per, count := b.count - (k + 1), ext := none }
    (if used < b.len then [{ b with start := f, len := b.len - used, count := 1, ext := none }] else []) ++
      (if rest.count == 0 then [] else [rest])

/-- A shifted pattern as bookings made now: parts that run past the window are extended entries (R161). -/
def rebooked (p : List Booking) (f d now : Nat) : List Booking :=
  (p.flatMap (·.fromCycle f)).map fun b => ({ b.shift d with ext := none } : Booking).extended now

/-- Occupy an engine's or a bank's cells by a command of context `c` (R158, R160). -/
def State.occupy (s : State) (c res a n : Nat) : State :=
  if n == 0 then s else { s with occ := (c, res, a, a + n - 1) :: s.occ }

/-- The window moves: past occupations and spent bookings go; extensions that end release their held cells (R157). -/
def State.advanceWindow (s : State) : State :=
  let now := s.now
  { s with
    occ := s.occ.filter fun o => decide (now ≤ o.2.2.2)
    cal := s.cal.filter fun b => (b.next now).isSome || b.extending now
    released := s.released || s.cal.any fun b => b.ext.isSome && b.cut.isNone && b.last + 1 == now + Config.window }

end Sys2Proof.Machine
end

