-- ==== Sys2Proof/Machine/Translate.lean ====
section
/-! DEFINITION. Address translation, the translation cache and page requests (spec/14_translation.md R286-R300). -/

namespace Sys2Proof.Machine

/-- What a translation finds (R287-R292). -/
inductive XRes where
  | page (e : TEntry)
  | absent
  /-- A bad entry, at this physical address (R290). -/
  | bad (pa : Nat)
  /-- A poisoned entry (R302). -/
  | poisoned (pa : Nat)
  /-- The tenant's translation is not enabled (R286). -/
  | off
  deriving DecidableEq, Repr

/-- A leaf of level `lv` (R288-R290). -/
def leafEntry (tenant va lv ea e : Nat) : XRes :=
  let z := fld e 7 4
  let space := fld e 5 2
  let pa := fld e 12 40 * 4096
  let size := 2 ^ (12 + z)
  if bitAt e 11 || space == 3 || (space != 1 && fld e 52 12 != 0) || (if lv == 0 then decide (z > 8) else decide (z < 9)) ||
      pa % size != 0 || (space == 0 && decide (pa + size > Config.hbmEnd)) then .bad ea
  else .page { tenant := tenant, vbase := va / size * size, bits := 12 + z, pbase := pa, space := space, dev := fld e 52 12,
               r := bitAt e 2, w := bitAt e 3, tent := bitAt e 4 }

/-- The walk from level `lv` at table `table` (R287). -/
def walkFrom (s : State) (tenant va : Nat) : Nat → Nat → XRes
  | lv, table =>
    let ea := table + 8 * fld va (12 + 9 * lv) 9
    if isPoisoned s.poisonG ea 8 then .poisoned ea
    else
      let e := memNat s.mem ea 8
      if !bitAt e 0 then .absent
      else if bitAt e 1 then (if lv ≤ 1 then leafEntry tenant va lv ea e else .bad ea)
      else match lv with
        | 0 => .bad ea
        | lv + 1 =>
          let next := fld e 12 40 * 4096
          if fld e 2 10 != 0 || fld e 52 12 != 0 || next + 4096 > Config.hbmEnd then .bad ea
          else walkFrom s tenant va lv next

/-- The whole walk of a tenant's address (R286, R287). -/
def State.walk (s : State) (tenant va : Nat) : XRes :=
  let root := (s.tenant tenant).troot.toNat
  if !bitAt root 0 then .off else walkFrom s tenant va 4 (fld root 12 40 * 4096)

/-- The physical address of `va` under a page. -/
def TEntry.pa (e : TEntry) (va : Nat) : Nat := e.pbase + va % 2 ^ e.bits

def TEntry.hits (e : TEntry) (tenant va : Nat) : Bool := e.tenant == tenant && va / 2 ^ e.bits == e.vbase / 2 ^ e.bits

/-- The translation cache's entry (R292). -/
def State.cached (s : State) (tenant va : Nat) : Option TEntry := s.tcache.find? (·.hits tenant va)

/-- The tenant's translation is enabled: without it every translated access faults, whatever the cache holds (R286). -/
def State.enabled (s : State) (tenant : Nat) : Bool := bitAt (s.tenant tenant).troot.toNat 0

/-- Translation for an engine, a SYN command or the front end: the cache, else a walk (R292). -/
def State.translate (s : State) (tenant va : Nat) : XRes :=
  if s.enabled tenant then
    match s.cached tenant va with
    | some e => .page e
    | none => s.walk tenant va
  else .off

/-- The homes of every entry that the walk from level `lv` reads are ready (R287, R403). -/
def walkReadyFrom (s : State) (va : Nat) : Nat → Nat → Bool
  | lv, table =>
    let ea := table + 8 * fld va (12 + 9 * lv) 9
    let e := memNat s.mem ea 8
    s.homeReady ea && (isPoisoned s.poisonG ea 8 || !bitAt e 0 || bitAt e 1 || match lv with
      | 0 => true
      | lv + 1 => decide (fld e 12 40 * 4096 + 4096 > Config.hbmEnd) || walkReadyFrom s va lv (fld e 12 40 * 4096))

/-- A walk of the address can end: what it reads performs once the homes are ready (R403). -/
def State.walkReady (s : State) (tenant va : Nat) : Bool :=
  !s.enabled tenant || walkReadyFrom s va 4 (fld (s.tenant tenant).troot.toNat 12 40 * 4096)

/-- A translation can be made now: it needs no walk, or its walk can end (R403). -/
def State.mayTranslate (s : State) (tenant va : Nat) : Bool := (s.cached tenant va).isSome || s.walkReady tenant va

/-- The homes of every byte of a span are ready (R403). -/
def State.spanReady (s : State) (a n : Nat) : Bool := (granules a n).all fun g => s.homeReady (64 * g)

/-- Where a translated access lands. -/
structure Place where
  space : Nat
  dev : Nat
  pa : Nat
  tent : Bool
  deriving DecidableEq, Repr

/-- The outcome of a translated access that needs rights (R291). -/
inductive Access where
  | ok (p : Place)
  | absent
  | denied
  | poisoned
  deriving DecidableEq, Repr

def XRes.access (x : XRes) (va : Nat) (rd wr : Bool) : Access :=
  match x with
  | .page e => if (rd && !e.r) || (wr && !e.w) then .denied else .ok { space := e.space, dev := e.dev, pa := e.pa va, tent := e.tent }
  | .absent => .absent
  | .poisoned _ => .poisoned
  | .bad _ => .denied
  | .off => .denied

/-- A bad or poisoned entry met by a walk is logged, naming the context where there is one (R290, R302). -/
def State.logWalk (s : State) (x : XRes) (who : Option (Nat × Nat)) : State :=
  let put := fun pa kind => s.logError s.dieNo
    { pa := pa, rpt := 0, core := if who.isSome then s.coreNum.toNat else 0, tnt := (who.map (·.2)).getD 0,
      ctx := (who.map (·.1)).getD 0, tv := who.isSome, kind := kind, loc := 7 }
  match x with
  | .bad pa => put pa 6
  | .poisoned pa => put pa 5
  | _ => s

/-- Log the reading of poisoned granules (R303), by a context of a tenant where there is one; in a scratchpad a granule is named by its
place in the core. -/
def State.logPoisonBy (s : State) (ps : List Nat) (who : Option (Nat × Nat)) (a n loc : Nat) : State :=
  (granules a n).foldl (fun s g => if ps.contains g then
    s.logError s.dieNo { pa := if loc == 3 then 64 * g % Config.spadBytes else 64 * g, rpt := 0
                         core := if who.isSome then s.coreNum.toNat else 0, tnt := (who.map (·.2)).getD 0, ctx := (who.map (·.1)).getD 0
                         tv := who.isSome, kind := 3, loc := loc } else s) s

def State.logPoison (s : State) (ps : List Nat) (c tnt a n loc : Nat) : State := s.logPoisonBy ps (some (c, tnt)) a n loc

/-! ## Accesses of hardware that are refused -/

/-- An access of hardware that does not take place: its address, what its walk found, and, where it is the data that is poisoned, the
physical address of them (R290, R291, R302, R303). -/
structure Unread where
  va : Nat
  found : XRes
  grain : Option Nat := none
  deriving DecidableEq, Repr

/-- The fault of a refused access (R290, R302). -/
def Unread.cause (u : Unread) : Cause :=
  match u.grain, u.found with
  | none, .poisoned _ => cPoison
  | none, _ => cPermission
  | some _, _ => cPoison

/-- The record of a refused access (R290, R302, R303). -/
def State.logUnread (s : State) (who : Option (Nat × Nat)) (u : Unread) : State :=
  match u.grain with
  | some pa => s.logPoisonBy s.poisonG who pa 1 0
  | none => s.logWalk u.found who

/-! ## Hardware's accesses to frames (notes/assumptions/15.md) -/

/-- Write bytes of a task's frame through the tenant's translation, byte run by byte run within one 64-byte unit. -/
def State.frameWrite (s : State) (tenant va : Nat) (bs : List Byte) : Except Fault State :=
  match s.walk tenant va with
  | .page e => if e.space == 0 then .ok (s.writeGlobal (e.pa va) bs none) else .error (.frameUnmapped tenant va)
  | _ => .error (.frameUnmapped tenant va)

def State.frameRead (s : State) (tenant va n : Nat) : Except Fault (List Byte) :=
  match s.walk tenant va with
  | .page e => if e.space == 0 && !isPoisoned s.poisonG (e.pa va) n then .ok (s.readGlobal (e.pa va) n) else .error (.frameUnmapped tenant va)
  | _ => .error (.frameUnmapped tenant va)

/-- A frame access that is refused, with its tenant: the tables refuse it, or it reads a poisoned granule (R290, R291, R303); an absent
page refuses nothing. -/
def State.frameRefusal (s : State) (f : Fault) : Option (Nat × Unread) :=
  match f with
  | .frameUnmapped t va => match s.walk t va with
    | .absent => none
    | .page e => some (t, { va := va, found := .page e,
                            grain := if e.space == 0 && isPoisoned s.poisonG (e.pa va) 1 then some (e.pa va) else none })
    | x => some (t, { va := va, found := x })
  | .noSuchAddress => none

/-- A header that no bundle writes: one that is refused is lost, and the refusal is logged. -/
def State.headerLoose (s : State) (who : Option (Nat × Nat)) (r : Except Fault State) : Except Fault State :=
  match r with
  | .ok t => .ok t
  | .error f => match s.frameRefusal f with
    | some (_, u) => .ok (s.logUnread who u)
    | none => .error f

/-! ## Page requests and pager futures (R297-R299) -/

def State.pageEntry (s : State) (d i : Nat) : PageReq := vget (s.die d).pages i {}

def futureId (d i : Nat) (gen : BitVec 32) : Nat := i + d * 2 ^ 8 + gen.toNat * 2 ^ 9

/-- The future is ready (R299). -/
def State.futureReady (s : State) (fid : Nat) : Bool :=
  let e := s.pageEntry (fld fid 8 1) (fld fid 0 8)
  decide ((e.cgen - BitVec.ofNat 32 (fld fid 9 32)).toInt ≥ 0)

/-- The future's request was completed with deny: so it stays for every waiter (R300). -/
def State.futureDenied (s : State) (fid : Nat) : Bool := s.denied.contains fid

/-- Whether a yield may not wait for the future (R299). -/
def State.futureBad (s : State) (fid : Nat) : Bool :=
  fid / 2 ^ 41 != 0 ||
  decide ((BitVec.ofNat 32 (fld fid 9 32) - (s.pageEntry (fld fid 8 1) (fld fid 0 8)).gen).toInt > 0)

/-- Place a request (R297): join, the tenant's reserve, a shared entry, else wait. Answers the future. -/
def State.requestPage (s : State) (d tnt va : Nat) (wr eng : Bool) : Option Nat × State :=
  let vp := fld va 12 45
  let pages := (s.die d).pages
  let usable := fun i => decide (i / 2 = tnt) || decide (32 ≤ i)
  match firstFrom (fun i => let e := vget pages i {}; e.busy && e.tnt == tnt && e.vpage == vp) 256 0 with
  | some i =>
    let e := vget pages i {}
    (some (futureId d i e.gen),
      s.modDie d fun x => { x with pages := vset x.pages i { e with wr := e.wr || wr, eng := e.eng || eng } })
  | none =>
    match firstFrom (fun i => usable i && !(vget pages i {}).busy) 256 0 with
    | some i =>
      let e := vget pages i {}
      let e' : PageReq := { e with gen := e.gen + 1, busy := true, tnt := tnt, vpage := vp, wr := wr, eng := eng }
      let f := futureId d i e'.gen
      let s := ({ s with denied := s.denied.filter (· != f) } : State).modDie d fun x => { x with pages := vset x.pages i e' }
      (some f, s.raiseEvent d { kind := 4, status := 0, die := d, tnt := tnt, a := f, b := vp * 2 ^ 10 + wr.toNat * 2 ^ 59 })
    | none => (none, { s with pageOver := s.pageOver ++ [(d, tnt, va, wr, eng)] })

end Sys2Proof.Machine
end

