-- ==== Sys2Proof/Machine/Kernels.lean ====
section
/-! DEFINITION. Reading a kernel image (spec/03_bundles.md R87-R92; spec/05_tasks.md R152, R154). -/

namespace Sys2Proof.Machine

/-- Bytes of a tenant's virtual memory, read at their homes page by page; where a byte is not readable or its granule is poisoned, the
refusal (notes/assumptions/30.md). -/
def readVirt (s : State) (tenant : Nat) : Nat → Nat → Nat → Except Unread (List Byte)
  | 0, _, _ => .ok []
  | fuel + 1, va, n =>
    if n == 0 then .ok []
    else
      let k := min n (64 - va % 64)
      let x := s.translate tenant va
      match x.access va true false with
      | .ok p => if p.space != 0 then .error { va := va, found := x }
        else if isPoisoned s.poisonG p.pa k then .error { va := va, found := x, grain := some p.pa }
        else (readVirt s tenant fuel (va + k) (n - k)).map (s.readGlobal p.pa k ++ ·)
      | _ => .error { va := va, found := x }

def State.readVirtual (s : State) (tenant va n : Nat) : Option (List Byte) := (readVirt s tenant (n / 64 + 2) va n).toOption

/-- Every home that a read of virtual memory reaches is ready (R403). -/
def virtReady (s : State) (tenant : Nat) : Nat → Nat → Nat → Bool
  | 0, _, _ => true
  | fuel + 1, va, n =>
    n == 0 ||
    (let k := min n (64 - va % 64)
     s.mayTranslate tenant va && (match (s.translate tenant va).access va true false with
      | .ok p => p.space != 0 || (s.spanReady p.pa k && virtReady s tenant fuel (va + k) (n - k))
      | _ => true))

/-- Reads of the front end: each an address and a length. -/
abbrev Spans := List (Nat × Nat)

def State.readsReady (s : State) (tenant : Nat) (rs : Spans) : Bool := rs.all fun r => virtReady s tenant (r.2 / 64 + 2) r.1 r.2

/-- The first bad or poisoned entry or poisoned granule that the reads meet is logged; a front end has no context (R290, R303). -/
def State.logReads (s : State) (tenant : Nat) (rs : Spans) : State :=
  match rs.findSome? fun r => match readVirt s tenant (r.2 / 64 + 2) r.1 r.2 with | .error x => some x | .ok _ => none with
  | some u => s.logUnread none u
  | none => s

/-- What stands for a kernel whose image could not be read. -/
def noKernel (tenant kimg : Nat) : Kernel :=
  { tenant := tenant, kimg := kimg, width := 1, smode := false, strict := false, nfld := 0, fw := [], ncode := 0, kdat := 0, fxb := 0,
    segs := [], carry := [], fps := [], code := [], used := 0 }

/-- The number in `n` bytes of virtual memory. -/
def State.readVirtNat (s : State) (tenant va n : Nat) : Option Nat := (s.readVirtual tenant va n).map ofLeBytes

/-- Width from the header's code (R88). -/
def widthOf (code : Nat) : Nat := match code with | 0 => 1 | 1 => 2 | _ => 4

/-- A segment entry (R89). -/
def parseSeg (ncs nfp ncode e : Nat) : Option Seg :=
  let g : Seg := { entry := fld e 0 32, fp0 := fld e 32 16, fpn := fld e 48 16, cs := fld e 64 5 }
  if fld e 69 59 != 0 || g.cs ≥ ncs || g.fpn == 0 || g.fp0 + g.fpn > nfp || g.entry ≥ ncode then none else some g

/-- A carry set (R90): masks of the four kernel columns. -/
def parseCarry (width e : Nat) : Option (List (BitVec 32 × BitVec 16)) :=
  let ms := (List.range 4).map fun j => (fld e (64 * j) 32, fld e (64 * j + 32) 16, fld e (64 * j + 48) 16)
  if ms.zipIdx.all fun (m, j) =>
      m.2.2 == 0 && popCount 32 m.1 ≤ 16 && popCount 16 m.2.1 ≤ 2 && (j < width || (m.1 == 0 && m.2.1 == 0)) then
    some (ms.map fun m => (BitVec.ofNat 32 m.1, BitVec.ofNat 16 m.2.1))
  else none

/-- A footprint entry (R91, R92). -/
def parseFp (width e : Nat) : Option FpEntry :=
  let f : FpEntry := { std := bitAt e 63, creg := bitAt e 62, rep := fld e 44 12, per := fld e 32 12, len := fld e 20 12,
                       off := fld e 8 12, res := fld e 0 6 }
  if fld e 56 6 != 0 || fld e 6 2 != 0 || f.res > 48 then none
  else if f.std then (if f.creg || f.rep != 0 || f.per != 0 || f.len != 0 then none else some f)
  else if f.creg then (if fld e 51 5 != 0 || fld e 49 2 ≥ width then none else some f)
  else if f.rep == 0 || f.off + (f.rep - 1) * (f.per + 1) + f.len > 4095 then none
  else some f

/-- The kernel column of a column, strip, channel or bank. -/
def resColumn (res : Nat) : Option Nat :=
  if res < 12 then some (res % 4) else if 15 ≤ res ∧ res ≤ 46 then some ((res - 15) / 8) else none

/-- A segment's footprint (R152): no column beyond the width, a column booked, all columns booked alike. -/
def footprintOk (width : Nat) (fs : List FpEntry) : Bool :=
  let cols := fun j => (fs.filter (·.res == j)).map fun f => { f with res := 0 }
  fs.all (fun f => match resColumn f.res with | some j => decide (j < width) | none => true) &&
  !(cols 0).isEmpty && (List.range width).all fun j => (cols j).isPerm (cols 0)

/-- Every element parsed, or none. -/
def allSome {α β : Type} (f : α → Option β) : List α → Option (List β)
  | [] => some []
  | x :: xs => match f x, allSome f xs with
    | some y, some ys => some (y :: ys)
    | _, _ => none

/-- The 64-byte header's rules of R88. -/
def headerOk (h : Nat) : Bool :=
  let nfld := fld h 16 3
  let fw := (List.range 6).map fun i => fld h (64 + 7 * i) 7
  fld h 0 8 == 1 && fld h 8 2 != 3 && fld h 12 4 == 0 && nfld ≤ 6 && fld h 19 13 == 0 &&
  1 ≤ fld h 32 32 && fld h 32 32 ≤ 1048576 && fld h 106 22 == 0 && 1 ≤ fld h 224 16 && fld h 224 16 ≤ 512 &&
  1 ≤ fld h 240 16 && 1 ≤ fld h 256 8 && fld h 256 8 ≤ 32 && fld h 264 24 == 0 && fld h 384 32 % 64 == 0 &&
  fld h 416 96 == 0 && fld h 128 32 % 64 == 0 && fld h 320 32 % 64 == 0 && fld h 160 32 % 8 == 0 &&
  fld h 192 32 % 8 == 0 && fld h 288 32 % 8 == 0 &&
  fw.zipIdx.all (fun (w, i) => if i < nfld then 1 ≤ w && w ≤ 64 else w == 0) && fw.foldl (· + ·) 0 ≤ 64

/-- What the reading of a kernel image reads: its header, then the parts that a good header names. -/
def State.kernelReads (s : State) (tenant kimg : Nat) : Spans :=
  (kimg, 64) :: match s.readVirtNat tenant kimg 64 with
    | none => []
    | some h =>
      if !headerOk h || kimg % 64 != 0 || 6 * widthOf (fld h 8 2) * fld h 32 32 > 196608 then []
      else [(kimg + fld h 192 32, 16 * fld h 224 16), (kimg + fld h 288 32, 32 * fld h 256 8),
            (kimg + fld h 160 32, 8 * fld h 240 16), (kimg + fld h 128 32, 6 * widthOf (fld h 8 2) * fld h 32 32)]

/-- The kernel image at `kimg`; none when it is bad or not readable (R64, R87-R92, R152, R154). -/
def State.parseKernel (s : State) (tenant kimg : Nat) : Option Kernel :=
  match s.readVirtNat tenant kimg 64 with
  | none => none
  | some h =>
    let width := widthOf (fld h 8 2)
    let ncode := fld h 32 32
    if !headerOk h || kimg % 64 != 0 || 6 * width * ncode > 196608 then none
    else
      let table := fun (off size n : Nat) => allSome (fun i => s.readVirtNat tenant (kimg + off + size * i) size) (List.range n)
      match table (fld h 192 32) 16 (fld h 224 16), table (fld h 288 32) 32 (fld h 256 8),
            table (fld h 160 32) 8 (fld h 240 16), s.readVirtual tenant (kimg + fld h 128 32) (6 * width * ncode) with
      | some ss, some cs, some fs, some code =>
        match allSome (parseSeg (fld h 256 8) (fld h 240 16) ncode) ss, allSome (parseCarry width) cs,
              allSome (parseFp width) fs with
        | some segs, some carry, some fps =>
          if segs.all fun g => footprintOk width ((fps.drop g.fp0).take g.fpn) then
            some { tenant := tenant, kimg := kimg, width := width, smode := bitAt h 10, strict := bitAt h 11,
                   nfld := fld h 16 3, fw := (List.range 6).map (fun i => fld h (64 + 7 * i) 7), ncode := ncode,
                   kdat := kimg + fld h 320 32, fxb := fld h 384 32, segs := segs, carry := carry, fps := fps,
                   code := code, used := 0, codeAt := kimg + fld h 128 32 }
          else none
        | _, _, _ => none
      | _, _, _, _ => none

def Kernel.nseg (k : Kernel) : Nat := k.segs.length

/-- Bytes of a frame (R134). -/
def Kernel.frameSize (k : Kernel) : Nat := 64 + 640 * k.width + k.fxb

/-- Carried logical registers of kernel column `j` in segment `q` (R90). -/
def Kernel.carriedS (k : Kernel) (q j : Nat) : List Nat :=
  let m := ((k.carry.getD (k.seg q).cs []).getD j (0, 0)).1
  (List.range 32).filter fun n => m.getLsbD n

def Kernel.carriedV (k : Kernel) (q j : Nat) : List Nat :=
  let m := ((k.carry.getD (k.seg q).cs []).getD j (0, 0)).2
  (List.range 16).filter fun n => m.getLsbD n

/-- The footprint entries of segment `q` (R89). -/
def Kernel.footprint (k : Kernel) (q : Nat) : List FpEntry := (k.fps.drop (k.seg q).fp0).take (k.seg q).fpn

/-- The slots of bundle `i` (R62), as 24-bit words. -/
def Kernel.bundle (k : Kernel) (i : Nat) : List SlotWord :=
  let bs := (k.code.drop (6 * k.width * i)).take (6 * k.width)
  let rec go : Nat → List Byte → List SlotWord
    | 0, _ => []
    | n + 1, l => BitVec.ofNat 24 (ofLeBytes (l.take 3)) :: go n (l.drop 3)
  go (2 * k.width) bs

/-- Field `i` of a work identifier (R129). -/
def Kernel.widField (k : Kernel) (wid : Word) (i : Nat) : Nat :=
  if i < k.nfld then fld wid.toNat ((k.fw.take i).foldl (· + ·) 0) (k.fw.getD i 0) else 0

end Sys2Proof.Machine
end

