-- ==== Sys2Proof/Machine/Shades.lean ====
section
/-! DEFINITION. Terms, alternative sets, resolution and grey shades (spec/04_shades.md R110-R127). -/

namespace Sys2Proof.Machine

/-! ## Terms (R110) -/

/-- The sense in which a term holds guard `n`. -/
def Term.sense (t : Term) (n : Nat) : Option Bool :=
  match t with
  | [] => none
  | (g, b) :: r => if g == n then some b else Term.sense r n

/-- Whether a term holds the literal. -/
def Term.holds (t : Term) (l : Nat × Bool) : Bool := t.sense l.1 == some l.2

/-- Add a literal in guard order; none when the term holds its opposite. -/
def Term.add (t : Term) (l : Nat × Bool) : Option Term :=
  match t with
  | [] => some [l]
  | (g, b) :: r =>
    if l.1 < g then some (l :: (g, b) :: r)
    else if l.1 == g then (if l.2 == b then some ((g, b) :: r) else none)
    else (Term.add r l).map ((g, b) :: ·)

/-- The conjunction of two terms; none when they are not compatible. -/
def Term.conj (a : Term) : Term → Option Term
  | [] => some a
  | l :: r => match a.add l with
    | some a' => Term.conj a' r
    | none => none

def Term.compatible (a b : Term) : Bool := (a.conj b).isSome

/-- The literal of a slot as a term. -/
def GState.term : GState → Term
  | .opened n b => [(n, b)]
  | _ => []

/-- The lowest-numbered guard among the literals of terms (R117). -/
def lowestGuard (ts : List Term) : Option Nat := leastOf (ts.flatten.map (·.1))

/-- Depth of alternatives and of terms (R110, R111). -/
def depthOk {w : Nat} (as : List (Alt w)) : Bool :=
  decide (as.length ≤ 4) && as.all fun a => decide (a.term.length ≤ 4)

/-! ## Moves and triggers (R112, R113) -/

/-- An empty port is one void alternative with the empty term (R111). -/
def orVoid {w : Nat} (as : List (Alt w)) : List (Alt w) :=
  match as with
  | [] => [{ val := 0, void := true }]
  | _ => as

/-- A port left with only void alternatives is empty (R72). -/
def dropVoid {w : Nat} (as : List (Alt w)) : List (Alt w) := if as.all (·.void) then [] else as

/-- The set that a move under `g` leaves in a destination (R112). -/
def moveInto {w : Nat} (g : GState) (src dst : List (Alt w)) : List (Alt w) :=
  let put (d : Alt w) (dom : Term) : List (Alt w) :=
    (orVoid src).filterMap fun s =>
      match dom.conj s.term with
      | none => none
      | some t => if s.void then some { d with term := t } else some { s with term := t }
  match g with
  | .no => dst
  | .yes => (orVoid dst).flatMap fun d => put d d.term
  | .opened n b => (orVoid dst).flatMap fun d =>
    match d.term.add (n, b) with
    | none => [d]
    | some dom => put d dom ++
      (match d.term.sense n with
       | some _ => []
       | none => match d.term.add (n, !b) with
         | some t => [{ d with term := t }]
         | none => [])

/-- What a trigger computes from one combination of operands. -/
structure Comp where
  val : Vec := 0
  spill : Vec := 0
  flags : Flags := 0
  /-- A fault of class I the combination raises, with its tinf. -/
  fault : Option (Cause × Nat) := none
  deriving DecidableEq, Repr

/-- One combination of alternatives: values, void, term, pending flags not yet judged and judged, grey mark. -/
structure Combo where
  vals : List Vec := []
  void : Bool := false
  term : Term := []
  flags : Flags := 0
  own : Flags := 0
  grey : Option Cause := none
  deriving DecidableEq, Repr

def Combo.with (c : Combo) (a : Alt 2048) : Option Combo :=
  (c.term.conj a.term).map fun t =>
    { vals := c.vals ++ [a.val], void := c.void || a.void, term := t, flags := c.flags ||| a.flags,
      own := c.own ||| a.own, grey := c.grey.or a.grey }

/-- The compatible combinations of one alternative from each operand, under the slot's literal (R113). -/
def combos (lit : Term) (ops : List (List (Alt 2048))) : List Combo :=
  ops.foldl (fun cs as => cs.flatMap fun c => (orVoid as).filterMap fun a => c.with a) [{ term := lit }]

/-- A result under R113: its alternatives, the flags raised under the empty term, and a precise fault. -/
structure Formed where
  alts : List (Alt 2048) := []
  flags : Flags := 0
  fault : Option (Cause × Nat) := none
  deriving DecidableEq, Repr

/-- The result alternative of one combination. A fault under a non-empty term makes it grey (R123); a grey input takes
precedence over it (R124). A void carries no mark, and raises no fault (notes/assumptions/79.md). `shade`: the result was a shade
when it was issued, so that its flags are pending whatever its term is now (R42). -/
def formAlt (c : Combo) (r : Comp) (shade : Bool := false) : Alt 2048 :=
  if c.void then { val := 0, void := true, term := c.term }
  else if c.term.isEmpty && !shade then { val := r.val, grey := c.grey }
  else
    { val := r.val, term := c.term, flags := c.flags, own := c.own ||| r.flags, grey := c.grey.or (r.fault.map (·.1)) }

/-- Form a trigger's result (R113). -/
def formResult (g : GState) (ops : List (List (Alt 2048))) (f : List Vec → Comp) (shade : Bool := false) : Formed :=
  let cs := combos g.term ops
  let rs := cs.map fun c => (c, if c.void then ({} : Comp) else f c.vals)
  let base := rs.filter fun p => !p.1.void && p.1.term.isEmpty && !shade
  { alts := rs.map (fun p => formAlt p.1 p.2 shade) ++
      (match g with | .opened n b => [{ val := 0, void := true, term := [(n, !b)] }] | _ => []),
    flags := base.foldl (fun fl p => fl ||| p.2.flags) 0,
    fault := base.findSome? fun p => if p.1.grey.isSome then none else p.2.fault }

/-- Consumption: the unheld alternatives that a trigger under `g` reads turn void (notes/assumptions/21.md). -/
def consume {w : Nat} (g : GState) (as : List (Alt w)) : List (Alt w) :=
  dropVoid (as.map fun a =>
    if a.hold || !(a.term.compatible g.term) then a
    else { a with val := 0, void := true, flags := 0, own := 0, grey := none })

/-- A result under R113 lands in a holder: it replaces the whole set, but in its void domains after another result of the
same cycle the earlier one stands (R113, R127). -/
def overlay (later earlier : List (Alt 2048)) : List (Alt 2048) := moveInto .yes later earlier

/-! ## Resolution (R115) -/

/-- The alternatives once kn is `x`: contradicted ones vanish, the literal goes, a single one left is unconditional. -/
def resolveAlts {w : Nat} (n : Nat) (x : Bool) (as : List (Alt w)) : List (Alt w) :=
  let kept := (as.filter fun a => !a.term.holds (n, !x)).map fun a => { a with term := a.term.filter (·.1 != n) }
  match kept with
  | [a] => [{ a with term := [] }]
  | k => k

/-- The alternatives once each of the guards has its value. -/
def resolveEach {w : Nat} (rs : List (Nat × Bool)) (as : List (Alt w)) : List (Alt w) :=
  rs.foldl (fun as r => resolveAlts r.1 r.2 as) as

/-- A result in flight as the guards resolved before it lands leave it (R115). -/
def InFlight.settled (f : InFlight) : InFlight :=
  { f with alts := resolveEach f.since f.alts, moved := resolveEach f.since f.moved, since := [] }

/-- Guard `n` resolves to `x` in cycle `t`, which a result in flight learns as it lands: before it is written where it lands later,
after every result of that cycle is written where it lands then (R106, R115, notes/assumptions/86.md). -/
def InFlight.told (n : Nat) (x : Bool) (t : Nat) (f : InFlight) : InFlight :=
  if f.land ≤ t then { f with late := f.late ++ [(n, x)] } else { f with since := f.since ++ [(n, x)] }

/-- Judged pending flags of an alternative that has become the base value (R42). -/
def baseFlags {w : Nat} (as : List (Alt w)) : Flags :=
  match as with
  | [a] => if a.term.isEmpty && !a.void then a.flags else 0
  | _ => 0

def clearBase {w : Nat} (as : List (Alt w)) : List (Alt w) :=
  match as with
  | [a] => if a.term.isEmpty then [{ a with flags := 0 }] else [a]
  | k => k

def resolveHolder {w : Nat} (n : Nat) (x : Bool) (h : Holder w) : Holder w :=
  { h with alts := clearBase (resolveAlts n x h.alts) }

def resolvePort {w : Nat} (n : Nat) (x : Bool) (as : List (Alt w)) : List (Alt w) :=
  dropVoid (clearBase (resolveAlts n x as))

def Cluster.resolve (n : Nat) (x : Bool) (c : Cluster) : Cluster :=
  { s := vmap (resolveHolder n x) c.s, v := vmap (resolveHolder n x) c.v, m := vmap (resolveHolder n x) c.m }

def Column.resolve (n : Nat) (x : Bool) (c : Column) : Column :=
  { c with
    iaA := resolvePort n x c.iaA, iaG := resolvePort n x c.iaG, vaA := resolvePort n x c.vaA,
    vaB := resolvePort n x c.vaB, vaM := resolvePort n x c.vaM, sfA := resolvePort n x c.sfA,
    lsA := resolvePort n x c.lsA, rdL := resolvePort n x c.rdL, rdM := resolvePort n x c.rdM,
    iaO := resolveHolder n x c.iaO, vaO := resolveHolder n x c.vaO, sfO := resolveHolder n x c.sfO,
    lsO := resolveHolder n x c.lsO }

/-- Every list of alternatives in holders and ports of the context, for a fold. -/
def Ctx.allAlts (c : Ctx) : List (List (Alt 2048)) :=
  let w64 := fun (as : List (Alt 64)) => as.map Alt.widen
  (c.clusters.toList.flatMap fun k =>
    k.s.toList.map (fun h => w64 h.alts) ++ k.v.toList.map (·.alts) ++ k.m.toList.map (fun h => w64 h.alts)) ++
  (c.cols.toList.flatMap fun k =>
    [w64 k.iaO.alts, k.vaO.alts, k.sfO.alts, k.lsO.alts, w64 k.iaA, w64 k.iaG, k.vaA, k.vaB, w64 k.vaM, k.sfA,
     w64 k.lsA, w64 k.rdL, w64 k.rdM]) ++
  c.rd.toList.map fun h => w64 h.alts

/-- The alternatives a fill will complete, once kn is `x`. -/
def resolveForms (n : Nat) (x : Bool) (fs : List FillForm) : List FillForm :=
  match (fs.filter fun a => !a.term.holds (n, !x)).map fun a => { a with term := a.term.filter (·.1 != n) } with
  | [a] => [{ a with term := [] }]
  | k => k

/-- Flags that become part of the base values when kn resolves to `x` (R42). -/
def Ctx.resolvedFlags (c : Ctx) (n : Nat) (x : Bool) : Flags :=
  c.allAlts.foldl (fun fl as => if as.length > 1 then fl ||| baseFlags (resolveAlts n x as) else fl) 0

/-- Raise flags in nst in this cycle (R41). -/
def Ctx.raise (c : Ctx) (fl : Flags) : Ctx := { c with nst := nstRaise c.nst fl, nowFlags := c.nowFlags ||| fl }

/-- Every register, latch and port once kn is `x` (R115). -/
def Ctx.settle (c : Ctx) (n : Nat) (x : Bool) : Ctx :=
  { c with clusters := vmap (Cluster.resolve n x) c.clusters, cols := vmap (Column.resolve n x) c.cols, rd := vmap (resolveHolder n x) c.rd }

/-- The held stores once kn is `x`: contradicted ones go, the literal goes; an entry whose term changes, or that stands behind
one that changed or went, performs from cycle `t` on (R120). -/
def resolveHeld (n : Nat) (x : Bool) (t : Nat) : Bool → List HeldStore → List HeldStore
  | _, [] => []
  | behind, h :: hs =>
    if h.term.holds (n, !x) then resolveHeld n x t true hs
    else
      let moved := behind || !h.term.isEmpty
      { h with term := h.term.filter (·.1 != n), ready := if moved then t else h.ready } :: resolveHeld n x t moved hs

/-- kn takes the value `x` (R105). An open guard resolves: R115 on every holder, port, held store and fill; a result in flight or
in replay is told, and keeps its alternatives until it lands. A result that lands resolves in the cycle `now`; a move at commit in
the next one. A held store freed by it performs from that cycle on (R120). A park on the guard is cancelled (R109). -/
def Ctx.writeGuard (c : Ctx) (n : Nat) (x : Bool) (now : Nat) (landed : Bool) : Ctx :=
  let c1 := { c with guards := vset c.guards n (.resolved x), parked := c.parked.filter (·.g != n) }
  if !c.isOpen n then c1
  else
    let t := if landed then now else now + 1
    let fl := c.resolvedFlags n x
    let c2 := if landed then c1.raise fl else { c1 with nextFlags := c1.nextFlags ||| fl }
    { c2.settle n x with
      flight := c.flight.map (·.told n x t)
      replay := c.replay.map fun f => { f with since := f.since ++ [(n, x)] }
      fills := c.fills.map fun f => { f with forms := resolveForms n x f.forms }
      held := resolveHeld n x t false c.held }

/-! ## Parked compares (R109) -/

/-- The guard write of a parked compare lands in the cycle `now` or earlier. -/
def Parked.landsBy (p : Parked) (now : Nat) : Bool := match p.due with | some d => decide (d.1 ≤ now) | none => false

/-- A parked compare writes its guard in the cycle after `now` (R109). -/
def Parked.landsNext (p : Parked) (now : Nat) : Bool := match p.due with | some d => d.1 == now + 1 | none => false

/-! ## Storage (R114) -/

/-- Entries of a cluster's vector pool in use. -/
def poolUse (k : Cluster) : Nat := k.v.toList.foldl (fun n h => n + (h.alts.length - 1)) 0

/-! ## Grey firings (R125) -/

/-- Holder kind of a grey firing (R199). -/
def greyInfo (kind col code : Nat) : Nat := kind * 2 ^ 12 + col * 2 ^ 10 + code

def greyOf {w : Nat} (as : List (Alt w)) : Option Cause :=
  match as with
  | [a] => if a.term.isEmpty && !a.void then a.grey else none
  | _ => none

/-- Grey marks of an indexed vector of holders that fire, with their tinf. -/
def greysIn {w n : Nat} (v : Vector (Holder w) n) (f : Nat → Nat) : List (Cause × Nat) :=
  (v.toList.zipIdx).filterMap fun (h, i) => (greyOf h.alts).map fun c => (c, f i)

/-- Registers, latches and ports whose grey alternative fires, in the order of R125, with their tinf. Latches and ports go column by
column in the order of their codes, rd.p after the columns' latches (notes/assumptions/87.md). Registers are in the order
of their physical numbers; the destination code names the register by its logical number (R183, notes/assumptions/74.md). A partial sum belongs to no
column, and its tinf names column 0 (notes/assumptions/83.md). -/
def Ctx.firing (c : Ctx) : List (Cause × Nat) :=
  let unS := fun n => if n < 16 then n else 16 + (n - 16 + 16 - c.rb.toNat % 16) % 16
  let unV := fun n => if n < 8 then n else 8 + (n - 8 + 8 - c.rb.toNat / 16 % 8) % 8
  let regs := (c.clusters.toList.zipIdx).flatMap fun (k, j) =>
    greysIn k.s (fun i => greyInfo 0 j (64 * j + unS i)) ++
    greysIn k.v (fun i => greyInfo 0 j (64 * j + 0x20 + unV i)) ++
    greysIn k.m (fun i => greyInfo 0 j (64 * j + 0x30 + i))
  let latches := ((c.cols.toList.zipIdx).flatMap fun (k, j) =>
      [((greyOf k.iaO.alts), greyInfo 2 j 0x48), ((greyOf k.vaO.alts), greyInfo 2 j 0x49),
       ((greyOf k.sfO.alts), greyInfo 2 j 0x4A), ((greyOf k.lsO.alts), greyInfo 2 j 0x4B)].filterMap
        fun p => p.1.map fun x => (x, p.2)) ++
    greysIn c.rd (fun i => greyInfo 2 0 (0x4C + i))
  let ports := (c.cols.toList.zipIdx).flatMap fun (k, j) =>
    [(greyOf k.iaA, 0x120), (greyOf k.iaG, 0x121), (greyOf k.vaA, 0x122), (greyOf k.vaB, 0x123), (greyOf k.vaM, 0x124),
     (greyOf k.sfA, 0x125), (greyOf k.lsA, 0x126), (greyOf k.rdL, 0x127), (greyOf k.rdM, 0x128)].filterMap
      fun p => p.1.map fun x => (x, greyInfo 1 j p.2)
  regs ++ latches ++ ports

end Sys2Proof.Machine
end

