-- ==== Sys2Proof/Machine/Tasks.lean ====
section
/-! DEFINITION. Tasks: frames, starting, yielding, forking and ending; forced yields, page waits and pre-emption
(spec/05_tasks.md R129-R148, R161, R413; spec/07_traps.md R201-R207). -/

namespace Sys2Proof.Machine

/-! ## Frames (R134-R136) -/

/-- Selector, kind and argument of a wait as the frame header holds them (R82, R136). -/
def Wait.kind : Wait → Nat
  | .none => 0
  | .timeline _ _ => 0
  | .arrival _ _ => 1
  | .phaser _ _ => 2
  | .guard => 3
  | .cq => 4
  | .children => 5
  | .pager _ => 6
  | .time _ => 7

def Wait.arg : Wait → Nat
  | .timeline _ n => n
  | .arrival _ g => g
  | .phaser id _ => id
  | .pager f => f
  | .time v => v
  | _ => 0

/-- A wait that keeps the task on its core (R21). -/
def Wait.pinned : Wait → Bool
  | .timeline _ _ => true
  | .arrival _ _ => true
  | .guard => true
  | .cq => true
  | _ => false

/-- The 64 bytes of a frame header (R136). -/
def State.headerBytes (s : State) (t : Task) : List Byte :=
  leBytes 64 (t.parFra % 2 ^ 64 + t.wid.toNat * 2 ^ 64 + t.wait.arg % 2 ^ 64 * 2 ^ 128 + t.nkid % 2 ^ 32 * 2 ^ 192 +
    t.seg * 2 ^ 224 + t.wait.kind * 2 ^ 233 + t.wsel * 2 ^ 236 + t.wait.pinned.toNat * 2 ^ 240 +
    (if t.wait.pinned then t.ctx.getD 0 * 2 ^ 241 + s.coreNum.toNat * 2 ^ 244 else 0) + t.lnch % 2 ^ 64 * 2 ^ 256)

/-- A list cut into pieces of 64. -/
def pieces64 : Nat → List Byte → List (List Byte)
  | 0, _ => []
  | n + 1, l => if l.isEmpty then [] else l.take 64 :: pieces64 n (l.drop 64)

/-- Write frame bytes from a multiple of 64 on. -/
def State.frameWriteAll (s : State) (tenant va : Nat) (bs : List Byte) : Except Fault State :=
  ((pieces64 (bs.length / 64 + 1) bs).zipIdx).foldlM (fun s p => s.frameWrite tenant (va + 64 * p.2) p.1) s

/-- The header as the task's record stands. -/
def State.writeHeader (s : State) (id : Nat) : Except Fault State :=
  match s.task id with
  | some t => s.frameWrite t.tenant t.fra (s.headerBytes t)
  | none => .ok s

/-- A free place for a frame: the first from a free starting point on (R135, notes/assumptions/17.md). The frame of a parent
that is done stays while a child of it lives; parent and child have one kernel, and frames of one size. -/
def State.allocFrame (s : State) (tenant size : Nat) : Option Nat × State :=
  let a := s.tenant tenant
  if size > a.arenaSize then (none, s)
  else
    let n := (a.arenaSize - size) / 64 + 1
    let (c, s') := s.choice
    let live := (s.tasks.filter (·.tenant == tenant)).flatMap fun t => (t.fra, t.fsize) :: t.par.toList.map fun _ => (t.parFra, t.fsize)
    let place := fun i => a.arenaBase + 64 * ((c + i) % n)
    let free := fun i => live.all fun f => decide (f.1 + f.2 ≤ place i) || decide (place i + size ≤ f.1)
    ((firstFrom free n 0).map place, s')

/-! ## Carry images (R90, R134, R137) -/

/-- The value of logical register s`n` of cluster `j`. -/
def Ctx.sval (x : Ctx) (j n : Nat) : Nat :=
  match x.alts (.s j (physS x.rb n)) with
  | a :: _ => a.val.toNat % 2 ^ 64
  | [] => 0

def Ctx.vval (x : Ctx) (j n : Nat) : Nat :=
  match x.alts (.v j (physV x.rb n)) with
  | a :: _ => a.val.toNat
  | [] => 0

/-- The carried registers of segment `q` with their values: cluster, number, value. -/
def Ctx.carryS (x : Ctx) (k : Kernel) (q : Nat) : List (Nat × Nat × Nat) :=
  (List.range k.width).flatMap fun j => (k.carriedS q j).map fun n => (j, n, x.sval j n)

def Ctx.carryV (x : Ctx) (k : Kernel) (q : Nat) : List (Nat × Nat × Nat) :=
  (List.range k.width).flatMap fun j => (k.carriedV q j).map fun n => (j, n, x.vval j n)

/-- The 640 bytes of cluster `j` in the carry image; those the carry set does not use are undefined: they come from `u`. -/
def Ctx.imageBytes (x : Ctx) (k : Kernel) (q j : Nat) (u : List Byte) : List Byte :=
  let a := (k.carriedS q j).flatMap fun n => leBytes 8 (x.sval j n)
  let b := (k.carriedV q j).flatMap fun n => leBytes 256 (x.vval j n)
  a ++ (u.take 128).drop a.length ++ b ++ (u.drop 128).drop b.length

/-- Write the carry image of segment `q` from the registers into a frame. -/
def State.writeImage (s : State) (x : Ctx) (k : Kernel) (q tenant fra : Nat) : Except Fault State :=
  (List.range k.width).foldlM (fun s j =>
    ({ s with free := s.free + 3 } : State).frameWriteAll tenant (fra + 64 + 640 * j) (x.imageBytes k q j (freeBytes s.free 640))) s

/-- Frame bytes, read in pieces of 64, and the refusals met: a refused piece has bytes that the spec does not state, those of the free
values from the `i`-th on (R302, notes/assumptions/15.md). -/
def State.frameReadAll (s : State) (tenant va n i : Nat) : Except Fault (List Byte × List Unread) :=
  (List.range ((n + 63) / 64)).foldlM (fun acc j =>
    let k := min 64 (n - 64 * j)
    match s.frameRead tenant (va + 64 * j) k with
    | .ok bs => .ok (acc.1 ++ bs, acc.2)
    | .error f => match s.frameRefusal f with
      | some (_, u) => .ok (acc.1 ++ freeBytes (s.free + i + j) k, acc.2 ++ [u])
      | none => .error f) ([], [])

/-- The carry image of segment `q` from a frame, and the refusals that its reading met (R290, R303). -/
def State.startImage (s : State) (k : Kernel) (q tenant fra : Nat) :
    Except Fault ((List (Nat × Nat × Nat) × List (Nat × Nat × Nat)) × List Unread) :=
  (List.range k.width).foldlM (fun acc j => do
    let rs := k.carriedS q j
    let vs := k.carriedV q j
    let a ← s.frameReadAll tenant (fra + 64 + 640 * j) (8 * rs.length) (10 * j)
    let b ← s.frameReadAll tenant (fra + 192 + 640 * j) (256 * vs.length) (10 * j + 2)
    pure ((acc.1.1 ++ rs.zipIdx.map (fun (n, i) => (j, n, ofLeBytes ((a.1.drop (8 * i)).take 8))),
      acc.1.2 ++ vs.zipIdx.map (fun (n, i) => (j, n, ofLeBytes ((b.1.drop (256 * i)).take 256)))), acc.2 ++ a.2 ++ b.2)) (([], []), [])

/-- Refused reads at the booking of a task are logged, and the task takes the fault of the first at its first boundary (R290, R302,
R303). -/
def State.imageRefused (s : State) (c tenant : Nat) (us : List Unread) : State :=
  match us with
  | [] => s
  | u :: _ =>
    ({ us.foldl (fun s u => s.logUnread (some (c, tenant)) u) s with free := s.free + 40 } : State).modCtx c fun y => { y with
      pendL := y.pendL ++ [{ cause := u.cause, cls := 0, slot := 0, pc := y.pc, info := u.va }] }

/-- What belongs to the hardware context and stays when a task starts (R139, R264, R279, R330). -/
def Ctx.base0 (x : Ctx) : Ctx :=
  { Ctx.init with
    nst := x.nst, rnk := x.rnk, rnc := x.rnc, tl := x.tl, scopes := x.scopes, perf := x.perf, perfNow := x.perfNow,
    cxid := x.cxid, relBarrier := x.relBarrier, relSp := x.relSp, acq := x.acq, seen := x.seen, lost := x.lost, wrote := x.wrote, acquires := x.acquires, nowFlags := x.nowFlags,
    nextFlags := x.nextFlags, synQ := x.synQ, run := x.run, task := x.task, seg := x.seg, start := x.start,
    shift := x.shift, base := x.base, aged := x.aged, preReq := x.preReq, slice := x.slice, issuedAt := x.issuedAt
    pendL := x.pendL.filter (·.hold)
    cols := vmap (fun c => { Column.init with storeQ := c.storeQ }) x.cols }

/-- The state at task start (R96): the carried registers, everything else of the task at its start value. -/
def Ctx.starting (x : Ctx) (wid : Word) (rs vs : List (Nat × Nat × Nat)) : Ctx :=
  let y := { x.base0 with wid := wid }
  let y := rs.foldl (fun y r => y.setAlts (.s r.1 r.2.1) [{ val := BitVec.ofNat 2048 r.2.2 }]) y
  vs.foldl (fun y r => y.setAlts (.v r.1 r.2.1) [{ val := BitVec.ofNat 2048 r.2.2 }]) y

/-- The context is free again: no task. -/
def Ctx.freed (x : Ctx) : Ctx :=
  { x.base0 with run := .free, task := none, pendL := [], preReq := false, slice := none, base := 0 }

/-! ## Launches (R133, R376) -/

/-- A node of a replay, named by replay id * 64 + node index. -/
def State.modNode (s : State) (l : Nat) (f : Node → Node) : State :=
  { s with replays := s.replays.map fun r =>
      if r.id == l / 64 then { r with nodes := modifyAt r.nodes (l % 64) f } else r }

def State.replayOf (s : State) (l : Nat) : Option Replay := s.replays.find? (·.id == l / 64)

/-- What a task's observation of cancel reads (R364, R365): gp63 of its graph at its home, or the refusal of that read, which the task
takes as a fault (R290, R303). A word whose page is absent is not cancelled (notes/assumptions/44.md). -/
def State.cancelRead (s : State) (t : Task) : Except Unread Bool :=
  match s.replayOf t.launch with
  | none => .ok false
  | some r =>
    let va := r.param + 504
    let x := s.translate r.tenant va
    match x.access va true false with
    | .ok p =>
      if p.space != 0 then .error { va := va, found := x }
      else if isPoisoned s.poisonG p.pa 8 then .error { va := va, found := x, grain := some p.pa }
      else .ok (bitAt (memNat s.mem p.pa 8) 0)
    | .absent => .ok false
    | _ => .error { va := va, found := x }

/-- A task observes cancel = 1. -/
def State.cancelled (s : State) (t : Task) : Bool := match s.cancelRead t with | .ok b => b | .error _ => false

/-- The header of its parent's frame that a task's end writes (R147). -/
def Task.endSpans (t : Task) : Spans := if t.par.isSome then [(t.parFra, 64)] else []

/-- The count of live children in the kept frame of a parent that is done goes down (R135, R147). -/
def State.childGone (s : State) (t : Task) : Except Fault State := do
  let h ← s.frameRead t.tenant t.parFra 64
  let n := ofLeBytes h
  s.frameWrite t.tenant t.parFra (leBytes 64 (n - fld n 192 32 * 2 ^ 192 + (fld n 192 32 - 1) * 2 ^ 192))

/-- A task is over (R147): the launch counts it, the parent counts it, its frame is free. `who` names the context where no bundle
ends the task. -/
def State.retireTask (s : State) (t : Task) (outcome : Nat) (who : Option Nat := none) : Except Fault State := do
  let stores := s.storesOfTask t
  let s := s.modNode t.launch fun n => { n with live := n.live - 1, outcome := if n.outcome == 0 then outcome else n.outcome }
  let s := { s with
    tasks := s.tasks.filter (·.id != t.id)
    dies := vmap (fun d => { d with queues := vmap (·.filter (· != t.id)) d.queues }) s.dies
    phWaits := s.phWaits.filter (·.task != t.id)
    members := s.members.filter (·.task != t.id) }
  match t.par with
  | none => pure s
  | some p =>
    let s := s.modTask p fun u => { u with
      nkid := u.nkid - 1
      joined := u.joined ++ stores
      owes := if u.wait == .children then u.owes ++ stores else u.owes }
    let r := if (s.task p).isSome then s.writeHeader p else s.childGone t
    if who.isSome then s.headerLoose (who.map (·, t.tenant)) r else r

/-- `done`, and every other way a task ends: its cells go, the context is freed once every result in flight has landed
(R147). -/
def State.endTask (s : State) (c outcome : Nat) (who : Option Nat := none) : Except Fault State := do
  match s.boundTask c with
  | none => pure s
  | some t =>
    let s ← s.retireTask t outcome who
    let s := s.release c (s.now + 1)
    pure (s.modCtx c fun x => { x with run := .ending, loops := [], links := [], cq := [], parked := [], fills := [],
                                       held := [], pendL := [], pendP := none, pendO := none, preReq := false })

/-! ## Queues (R133, R140) -/

/-- Put a task at the tail of its priority's queue. -/
def State.enqueue (s : State) (id readyAt : Nat) : State :=
  match s.task id with
  | none => s
  | some t =>
    let s := s.modTask id fun u => { u with st := .queued, readyAt := readyAt, aged := false }
    s.modDie t.die fun d => { d with queues := vmod d.queues t.pri (· ++ [id]) }

/-! ## Virtual time (R384, R385) -/

def State.raw (s : State) : Nat := s.rawAcc / 17 % 2 ^ 64

/-- The value of vts a read returns. -/
def State.vts (s : State) (tenant : Nat) : Word :=
  let t := s.tenant tenant
  let f := BitVec.ofNat 64 (((BitVec.ofNat 64 s.raw - t.vbase).toNat * t.vscale.toNat) >>> 24)
  BitVec.ofNat 64 (max (max (f + t.voff).toNat t.vfloor.toNat) t.hi.toNat)

/-- A read of vts raises the tenant's high-water mark. -/
def State.readVts (s : State) (tenant : Nat) : State := s.modTenant tenant fun t => { t with hi := s.vts tenant }

/-! ## Waits (R25, R27, R140, R299) -/

/-- The generation condition of an arrival word (R26, R27). -/
def State.arrived (s : State) (key g : Nat) : Bool :=
  let gen := fld (memNat s.spad key 16) 80 32
  decide (toSigned 32 (gen + 2 ^ 32 - g % 2 ^ 32) ≥ 0)

/-- Whether a wait of a task that is off its context, or keeps it, is satisfied. Phaser waits are held by SYN. -/
def State.waitDone (s : State) (t : Task) : Bool :=
  match t.wait with
  | .none => true
  | .timeline i n => decide (n ≤ ((s.ctx (t.ctx.getD 0)).timeline i).done)
  | .arrival a g => s.arrived a g
  | .phaser _ _ => false
  | .guard => true
  | .cq => true
  | .children => t.nkid == 0
  | .pager f => s.futureReady f
  | .time v => decide (v ≤ (s.vts t.tenant).toNat)

/-! ## Yield, syncc and fork (R137-R148) -/

/-- A wait "counter `i` at `n`" of context `c` is satisfied: the L1 lines of its cxid that the covered operations wrote
become invalid (R283), and those homed in the scope of a covered acquire (R342), which puts the stores that wait now before the
context's later accesses (R269). -/
def State.coverWait (s : State) (c i n : Nat) : State :=
  let x := s.ctx c
  let hit := fun (w : Nat × Nat × Nat) => w.1 == i && decide (w.2.1 ≤ n)
  let acq := fun (a : Nat × BitVec 64) => i == 10 && decide (a.1 ≤ n)
  let stale := fun (l : Nat) => x.wrote.any (fun w => hit w && w.2.2 == l) || x.acquires.any fun a => acq a && a.2.getLsbD (homeSlice l)
  ({ s with l1 := s.l1.filter fun l => !(l.cxid == x.cxid.toNat && stale l.line) } : State).setCtx c
    { x with wrote := x.wrote.filter (!hit ·), acquires := x.acquires.filter (!acq ·)
             acq := if x.acquires.any acq then s.storeSeq else x.acq }

/-- What the point of a satisfied wait asks of the next booking (R413): the L1 lines that become invalid and the stores that
perform first, of which `own` are the task's. -/
def Task.pointOf (t : Task) (w : Wait) (own : List Nat) : Task :=
  match w with
  | .arrival _ _ => { t with inval := BitVec.allOnes 64, owes := own }
  | .children => { t with inval := BitVec.allOnes 64, owes := t.joined, joined := [] }
  | _ => { t with inval := 0, owes := [] }

/-- The header as it is written where the task stays: one whose page is absent is lost (notes/assumptions/15.md). -/
def State.noteHeader (s : State) (id : Nat) : Except Fault State :=
  match s.writeHeader id with
  | .ok t => .ok t
  | .error f => if (s.frameRefusal f).isSome then .error f else .ok s

/-- A pass-through (R141): the wait is recorded in the frame (R137), the carry set is applied, the task keeps its context and
is booked at once. `t` holds the wait. -/
def State.passThrough (s : State) (c : Nat) (k : Kernel) (t : Task) (q : Nat) : Except Fault State := do
  let s ← (s.modTask t.id fun u => { u with seg := q, wait := t.wait, wsel := t.wsel, ctx := t.ctx }).noteHeader t.id
  let x := s.ctx c
  let y := x.starting t.wid (x.carryS k q) (x.carryV k q)
  let s := s.setCtx c { y with run := .ready 1 q none false s.now, pendP := x.pendP }
  pure <| s.modTask t.id fun u => { u.pointOf t.wait (s.storesOf [t.id]) with seg := q, wait := .none, fresh := true, restore := false }

/-- The effect of a yield or syncc at its commit (R137, R138, R141, R146, R365). -/
def State.yieldTask (s : State) (c : Nat) (w : Wait) (sel q : Nat) : Except Fault State := do
  match s.boundTask c with
  | none => pure s
  | some t =>
    match s.kernelOf t with
    | none => pure s
    | some k =>
      if s.cancelled t then s.endTask c 4
      else
        let s := s.release c (s.now + 1)
        let s := if w.kind == 7 then s.readVts t.tenant else s
        let t := { t with wait := w, wsel := sel, ctx := some c }
        if s.waitDone t then
          let s := match w with | .timeline i n => s.coverWait c i n | _ => s
          s.passThrough c k t q
        else
          let x := s.ctx c
          let s ← s.writeImage x k q t.tenant t.fra
          let s := s.modTask t.id fun u => { u.pointOf w (s.storesOf [t.id]) with
            seg := q, wait := w, wsel := sel, ctx := some c, st := .waiting, fresh := true, restore := true, trap := x.pendP
            cores := BitVec.allOnes 256 }
          let s ← s.writeHeader t.id
          match w with
          | .timeline _ _ => pure (s.setCtx c { x.base0 with run := .wait, wid := x.wid, pc := (k.seg q).entry })
          | .phaser id p =>
            let (d, s) := s.delay
            pure { s.setCtx c x.freed with
              phWaits := s.phWaits ++ [{ task := t.id, tenant := t.tenant, ctx := c, die := id / 2 ^ 24 % 2, index := id % 2 ^ 24,
                                         phase := p, due := s.now + 1 + d, arrived := false }] }
          | _ => pure (s.setCtx c x.freed)

/-- The effect of a fork at its commit (R145); the frame was found free by the issue check. -/
def State.forkTask (s : State) (c q : Nat) (wid : Word) : Except Fault State := do
  match s.boundTask c with
  | none => pure s
  | some t =>
    match s.kernelOf t with
    | none => pure s
    | some k =>
      let (fra, s) := s.allocFrame t.tenant k.frameSize
      match fra with
      | none => pure s
      | some fra =>
        let id := s.nextId
        let child : Task :=
          { id := id, fra := fra, fsize := k.frameSize, tenant := t.tenant, kimg := t.kimg, width := t.width, wid := wid,
            seg := q, pri := t.pri, die := t.die, launch := t.launch, lnch := t.lnch, par := some t.id, parFra := t.fra,
            nkid := 0, st := .queued, wait := .none, wsel := 0, ctx := none, readyAt := s.now + 1, aged := false,
            fresh := true, restore := true, inval := BitVec.allOnes 64, cores := BitVec.allOnes 256,
            owes := s.storesOfTask t, joined := [], begun := false }
        let s := { s with tasks := s.tasks ++ [child], nextId := id + 1 }
        let s := s.modTask t.id fun u => { u with nkid := u.nkid + 1 }
        let s := s.modNode t.launch fun n => { n with live := n.live + 1 }
        let s ← s.writeHeader t.id
        let s ← s.writeHeader id
        let s ← s.writeImage (s.ctx c) k q t.tenant fra
        pure (s.enqueue id (s.now + 1))

/-! ## Leaving the columns without ending the segment -/

/-- A forced yield at this cycle's boundary (R101, R161). -/
def State.forceYield (s : State) (c : Nat) (w : FWait) : State :=
  let pat := s.pattern c s.now false
  let s := s.releasePattern c s.now false
  s.modCtx c fun x => { x.count 2 with run := .fyield w s.now pat }

/-- Results in flight move into the replay buffer with their offsets (R205). -/
def Ctx.toReplay (x : Ctx) (f : Nat) : Ctx :=
  { x with replay := x.replay ++ x.flight.map (fun r => { r with land := r.land - f }), flight := [] }

/-- A page wait at this cycle's boundary (R294). -/
def State.pageWait (s : State) (c va : Nat) (wr : Bool) : State :=
  let pat := s.pattern c s.now true
  let s := s.releasePattern c s.now true
  let (fut, s) := s.requestPage s.dieNo (s.tenantOf c) va wr false
  s.modCtx c fun x => { (x.toReplay s.now).count 7 with run := .pageWait s.now pat fut va wr, walked := [] }

/-- Pre-emption of a running context at boundary `now` (R205). -/
def State.preemptNow (s : State) (c : Nat) : State :=
  let pat := s.pattern c s.now false
  let s := s.releasePattern c s.now false
  s.modCtx c fun x => { x.toReplay s.now with run := .preempted s.now pat none false, preReq := false, slice := none }

end Sys2Proof.Machine
end

