-- ==== Sys2Proof/Machine/Booking.lean ====
section
/-! DEFINITION. CAL: the booking search, compaction, ageing and restarts (spec/05_tasks.md R149-R166). -/

namespace Sys2Proof.Machine

/-! ## Placing a footprint -/

/-- The bookings of segment `q` from start `st` on base `b` for context `c`; none where a resource is lacking (R142). -/
def State.place (s : State) (k : Kernel) (q b c : Nat) (count : FpEntry → Nat) (st : Nat) : Option (List Booking) :=
  allSome (fun f => (physRes s.mode.toNat b f.res).map fun r => f.book c r st (count f) s.now) (k.footprint q)

/-- The register that gives an entry's count: cluster and logical number (R91) (notes/assumptions/66.md). -/
def FpEntry.countReg (f : FpEntry) : Nat × Nat := (f.rep / 32 % 4, f.rep % 32)

/-- Register counts from the registers as they stand (R151, R201). -/
def Ctx.countOf (x : Ctx) (f : FpEntry) : Nat :=
  if f.creg then (x.sval f.countReg.1 f.countReg.2) % 2 ^ 32 else f.rep

/-- Register counts from a carry image: an uncarried register is 0 (R96, R151). -/
def imageCount (rs : List (Nat × Nat × Nat)) (f : FpEntry) : Nat :=
  if f.creg then
    match rs.find? fun r => r.1 == f.countReg.1 && r.2.1 == f.countReg.2 with
    | some r => r.2.2 % 2 ^ 32
    | none => 0
  else f.rep

/-- The least start from `lo` on, in the window, at which the footprint fits (R153, R160). -/
def State.findStart (s : State) (ign : Nat → Bool) (h : Nat) (rsv : List Booking)
    (place : Nat → Option (List Booking)) (lo : Nat) : Option Nat :=
  firstFrom (fun st => match place st with
    | some bs => bs.all (s.tailFree ign) && bs.all (s.fits ign h rsv)
    | none => false) (s.now + Config.window - lo) lo

/-- The smallest start of a new booking: four cycles on, and the power controller's delay (R153, R406). -/
def State.earliest (s : State) : Nat := s.now + 4 + s.platform.thr

/-! ## Candidates (R142, R153, R163, R165) -/

/-- A laggard of a gang (R165, R339), by the gang's record wherever it lies. -/
def State.laggard (s : State) (id : Nat) : Bool :=
  s.members.any fun m => m.task == id && m.signals &&
    let r := s.phaser m.tenant m.die m.index
    r.gang && decide (toSigned 32 (m.last + 2 ^ 32 - r.phase % 2 ^ 32) < 0)

/-- Priority with a laggard's step up (R165). -/
def State.effPri (s : State) (t : Task) : Nat := if s.laggard t.id then t.pri - 1 else t.pri

/-- Logical cores of the tenant wide enough for the kernel (R142). -/
def State.openLcores (s : State) (tenant width : Nat) : List Nat :=
  (List.range (lcoreCount s.mode.toNat)).filter fun h =>
    let l := vget s.lcores h {}
    l.assigned && l.tenant == tenant && decide (width ≤ lcoreWidth s.mode.toNat)

/-- Base columns of a kernel on logical core `h` (R63). -/
def basesOf (mode h width : Nat) : List Nat :=
  let w := lcoreWidth mode
  (List.range (w / width)).map fun i => h * w + i * width

/-- Contexts of logical core `h` (R380). -/
def ctxsOf (mode h : Nat) : List Nat := let n := 8 / lcoreCount mode; (List.range n).map (· + h * n)

/-- The named stores have left every store queue of the core (R413). -/
def State.storesDone (s : State) (owes : List Nat) : Bool := (s.queued fun _ e => owes.contains e.seq).isEmpty

/-- The free contexts that may take a task, in the order of R153, each with its logical core: the one it yielded from where that
is free, else every one from the lowest on, those only after the task's own stores (R413). -/
def State.freeCtxs (s : State) (t : Task) : List (Nat × Nat) :=
  let free := (s.openLcores t.tenant t.width).flatMap fun h =>
    ((ctxsOf s.mode.toNat h).filter fun c => match (s.ctx c).run with | .free => true | _ => false).map (·, h)
  match t.ctx with
  | none => free
  | some c => match free.find? (·.1 == c) with
    | some p => [p]
    | none => if s.storesDone (s.storesOf [t.id]) then free else []

/-- A placement found for an unbound task: context, base, start, bookings. -/
structure Spot where
  ctx : Nat
  base : Nat
  start : Nat
  cells : List Booking

/-- Where segment `q` fits for context `c` of logical core `h` on base `b`: at the smallest start (R153). -/
def State.spotAt (s : State) (k : Kernel) (q c h b : Nat) (rsv : List Booking) (count : FpEntry → Nat) : Option Spot :=
  match s.findStart (fun _ => false) h rsv (s.place k q b c count) s.earliest with
  | none => none
  | some st => (s.place k q b c count st).map fun bs => { ctx := c, base := b, start := st, cells := bs }

/-- Of some bases the one with the smallest start, the first on a tie (R153). -/
def State.bestSpot (s : State) (k : Kernel) (q c h : Nat) (bases : List Nat) (rsv : List Booking) (count : FpEntry → Nat) :
    Option Spot :=
  (bases.filterMap fun b => s.spotAt k q c h b rsv count).foldl (fun best x => match best with
    | none => some x
    | some y => if x.start < y.start then some x else some y) none

/-- The placement of an unbound task: the first free context where it fits (R153). -/
def State.spotFor (s : State) (t : Task) (k : Kernel) (rsv : List Booking) (count : FpEntry → Nat) : Option Spot :=
  (s.freeCtxs t).findSome? fun p => s.bestSpot k t.seg p.1 p.2 (basesOf s.mode.toNat p.2 t.width) rsv count

/-- A task the core may consider now: its kernel is resident and its stores have performed (R153, R413). -/
def State.ready (s : State) (t : Task) : Bool :=
  decide (t.readyAt ≤ s.now) && (s.kernelOf t).isSome && s.storesDone t.owes &&
    t.cores.getLsbD s.coreNum.toNat

/-- Queued tasks of effective priority `p`: the core's own die first, oldest first (R142, R153). -/
def State.queuedAt (s : State) (p : Nat) : List Task :=
  let inDie := fun d => sortBy (fun a b => decide (a.readyAt ≤ b.readyAt))
    (s.tasks.filter fun t => t.st == .queued && t.die == d && s.effPri t == p)
  inDie s.dieNo ++ inDie (1 - s.dieNo)

/-- A core that has every resource of the task's footprint and is its tenant's (R142). -/
def State.suits (s : State) (t : Task) (k : Kernel) : Bool :=
  (s.openLcores t.tenant t.width).any fun h => (basesOf s.mode.toNat h t.width).any fun b =>
    (s.place k t.seg b 0 (fun _ => 1) s.now).isSome

/-- The units that hold what a booking of the task reads and writes are ready (R403): its carry image, and at a first booking gp63 and,
where the task is cancelled, its parent's header. -/
def State.frameReady (s : State) (t : Task) (restore : Bool) : Bool :=
  (!restore || virtReady s t.tenant (t.fsize / 64 + 2) t.fra t.fsize) &&
  (t.begun || ((match s.replayOf t.launch with
    | some r => virtReady s r.tenant 2 (r.param + 504) 8
    | none => true) && (!s.cancelled t || s.readsReady t.tenant t.endSpans)))

/-- The oldest aged task of priority `p` that the core can consider, on either die (R153, R163). -/
def State.agedAt (s : State) (p : Nat) : Option Task :=
  (sortBy (fun a b => decide (a.readyAt ≤ b.readyAt)) (s.queuedAt p)).find? fun t =>
    t.aged && s.ready t && s.frameReady t t.restore && (s.kernelOf t).any (s.suits t) && !(s.freeCtxs t).isEmpty

/-- Start-register counts of an unbound task. -/
def State.taskCounts (s : State) (t : Task) (k : Kernel) : Except Fault (FpEntry → Nat) :=
  if t.restore then (s.startImage k t.seg t.tenant t.fra).map fun r => imageCount r.1.1 else .ok (imageCount [])

/-! ## Reservations (R163) -/

/-- The booking's cells inside a window alone: no standing tail, no extension. -/
def Booking.unextended (b : Booking) : Booking :=
  if b.std then { b with ext := none, std := false, len := Config.window, count := 1 } else { b with ext := none }

/-- S_a of an aged task with its placement: the earliest start on any free context and base, as if every cell beyond the window were
free; the first on a tie. -/
def State.agedSpot (s : State) (t : Task) (k : Kernel) (rsv : List Booking) (count : FpEntry → Nat) : Option Spot :=
  let tries := (s.freeCtxs t).flatMap fun p => (basesOf s.mode.toNat p.2 t.width).filterMap fun b =>
    let place := s.place k t.seg b p.1 count
    (firstFrom (fun st => match place st with
      | some bs => bs.all fun (x : Booking) => s.fits (fun _ => false) p.2 rsv x.unextended
      | none => false) (2 * Config.window) s.earliest).bind fun st =>
        (place st).map fun bs => { ctx := p.1, base := b, start := st, cells := bs }
  tries.foldl (fun (m : Option Spot) x => match m with
    | none => some x
    | some y => if x.start < y.start then some x else some y) none

/-- The booking of an aged task: at S_a alone, once S_a is a cycle of the window and the placement can be booked there, whether or not
it reaches beyond the window (notes/assumptions/88.md). -/
def State.agedBooking (s : State) (t : Task) (k : Kernel) (rsv : List Booking) (count : FpEntry → Nat) : Option Spot :=
  (s.agedSpot t k rsv count).filter fun p =>
    let h := lcoreOf s.mode.toNat p.base
    decide (p.start < s.now + Config.window) && p.cells.all fun b =>
      s.tailFree (fun _ => false) b && s.fits (fun _ => false) h rsv b

/-- The reserved cells of each priority, computed in order: the placement of the oldest aged task at S_a. -/
def State.reservations (s : State) : Except Fault (List (Nat × List Booking)) :=
  (List.range 4).foldlM (fun acc p => do
    match s.agedAt p with
    | none => pure acc
    | some t =>
      match s.kernelOf t with
      | none => pure acc
      | some k =>
        let count ← s.taskCounts t k
        let rsv := acc.flatMap (·.2)
        match s.agedSpot t k rsv count with
        | none => pure acc
        | some x => pure (acc ++ [(p, x.cells)])) []

/-- What a candidate of priority `p` must leave alone: reservations of its own priority and of higher ones; an aged task's
own reservation is for it (R163). -/
def reservedFor (rs : List (Nat × List Booking)) (p : Nat) (own : Bool) : List Booking :=
  (rs.filter fun r => if own then decide (r.1 < p) else decide (r.1 ≤ p)).flatMap (·.2)

/-! ## Binding and starting -/

/-- A booking of the kernel counts for its place in the instruction cache (R154). -/
def State.useCode (s : State) (k : Kernel) : State :=
  { s with icache := s.icache.map fun (x : Kernel) => if x.tenant == k.tenant && x.kimg == k.kimg then { x with used := s.now } else x }

/-- Book cells and let context `c` run from its first column cell at or after `st` (R155). -/
def State.startRun (s : State) (c : Nat) (k : Kernel) (q b st : Nat) (cells : List Booking) (aged : Bool) : State :=
  let s := { s.useCode k with cal := s.cal ++ cells }
  let s := s.modCtx c fun x => { x with seg := q, start := st, shift := 0, base := b, aged := aged }
  s.modCtx c fun x => { x with run := .run ((s.nextColumn c st).getD st) }

/-- The L1 is made current at a point of R413 or R337: the context's lines homed in the mask become invalid. -/
def State.invalidateL1 (s : State) (cxid : Nat) (mask : BitVec 64) : State :=
  { s with l1 := s.l1.filter fun l => !(l.cxid == cxid && mask.getLsbD (homeSlice l.line)) }

/-- An acquire of context `c` (R269, R279, R337, R413): lines homed in the mask become invalid, and the stores under its cxid that
wait now go before its later accesses. -/
def State.acquireL1 (s : State) (c : Nat) (mask : BitVec 64) : State :=
  (s.invalidateL1 (s.ctx c).cxid.toNat mask).modCtx c fun x => { x with acq := s.storeSeq }

/-- Book an unbound task (R96, R155); a cancelled launch's task ends at its first booking (R365), and one whose gp63 cannot be read takes
the fault at its first boundary (R290, R303). The wait is over, the bytes of
its header stay (notes/assumptions/76.md). -/
def State.bindTask (s : State) (t : Task) (k : Kernel) (p : Spot) : Except Fault State := do
  let seen := if t.begun then .ok false else s.cancelRead t
  if (match seen with | .ok b => b | .error _ => false) then s.retireTask t 4 (some p.ctx)
  else
    let (img, no) ← if t.restore then s.startImage k t.seg t.tenant t.fra else pure (([], []), [])
    let no := (match seen with | .error u => [u] | .ok _ => []) ++ no
    let s := s.modDie t.die fun d => { d with queues := vmap (·.filter (· != t.id)) d.queues }
    let s := s.modTask t.id fun u => { u with
      st := .bound, ctx := some p.ctx, begun := true, wait := .none, inval := 0, owes := [], trap := none, aged := false
      die := s.dieNo }
    let inval := if t.ctx.any (· != p.ctx) then BitVec.allOnes 64 else t.inval
    let s := s.modCtx p.ctx fun x =>
      { (({ x with task := some t.id, seg := t.seg }).starting t.wid img.1 img.2).count 6 with
        pc := (k.seg t.seg).entry, task := some t.id, pendP := t.trap }
    let s := (if inval == 0 then s else s.acquireL1 p.ctx inval).imageRefused p.ctx t.tenant no
    pure (s.startRun p.ctx k t.seg p.base p.start p.cells t.aged)

/-- The logical core of a bound context is its task's tenant's, and wide enough (R142, R380). -/
def State.mayBook (s : State) (c : Nat) (t : Task) : Bool :=
  let h := lcoreOf s.mode.toNat (s.ctx c).base
  (s.openLcores t.tenant t.width).contains h && (ctxsOf s.mode.toNat h).contains c

/-- Book a context that is bound and ready (R141, R153, R201, R203), clear of the reservations `rsv`. -/
def State.bindReady (s : State) (c q : Nat) (pc : Option Nat) (restore : Bool) (rank since : Nat) (rsv : List Booking) :
    Except Fault (Option State) := do
  match s.boundTask c with
  | none => pure none
  | some t =>
    match s.kernelOf t with
    | none => pure none
    | some k =>
      if !s.storesDone t.owes || !s.mayBook c t || !s.frameReady t restore then pure none
      else
        let (img, no) ← if restore then s.startImage k q t.tenant t.fra else pure (([], []), [])
        let x := s.ctx c
        let count := if restore then imageCount img.1 else x.countOf
        let h := lcoreOf s.mode.toNat x.base
        let fresh := rank == 2 || pc.isNone && t.fresh
        let bases := if fresh && !x.inHandler then basesOf s.mode.toNat h t.width else [x.base]
        match s.bestSpot k q c h bases rsv count with
        | none => pure none
        | some p =>
          let y := if restore then { x.starting t.wid img.1 img.2 with pendP := t.trap } else x
          let s := s.setCtx c { (y.count 6) with pc := pc.getD (k.seg q).entry, task := some t.id }
          let s := (if t.inval == 0 then s else s.acquireL1 c t.inval).imageRefused c t.tenant no
          let s := s.modTask t.id fun u => { u with
            inval := 0, owes := [], fresh := false, wait := .none, trap := none, aged := false, readyAt := since }
          pure (some (s.startRun c k q p.base p.start p.cells t.aged))

/-- Try to book again the released pattern of context `c` (R161): the smallest shift from `lo` on, to a cycle of the window, at which it
fits, clear of the reservations `rsv`; where none does, the context waits on. -/
def State.rebook (s : State) (c f : Nat) (pat : List Booking) (lo : Nat) (rsv : List Booking) : Option State :=
  let h := lcoreOf s.mode.toNat (s.ctx c).base
  match (if (s.boundTask c).any (s.mayBook c)
      then firstFrom (fun d => (rebooked pat f d s.now).all (s.fits (· == c) h rsv)) (s.now + Config.window - (f + lo)) lo else none) with
  | none => none
  | some d =>
    let s := match (s.boundTask c).bind s.kernelOf with | some k => s.useCode k | none => s
    let s := { s with cal := s.cal ++ rebooked pat f d s.now }
    let r := (s.nextColumn c (f + d)).getD (f + d)
    some (s.modCtx c fun x => { x with
      shift := x.shift + d, run := .run r
      flight := x.flight ++ x.replay.map (fun e => { e with land := e.land + r }), replay := [] })

/-- A context may go on at once: its pattern is empty, its standing cells are its own (R161). -/
def State.resumeInPlace (s : State) (c f e : Nat) : State :=
  let r := (s.nextColumn c e).getD e
  s.modCtx c fun x => { x with
    shift := x.shift + (e - f), run := .run r
    flight := x.flight ++ x.replay.map (fun i => { i with land := i.land + r }), replay := [] }

/-! ## The search (R153) -/

/-- A candidate of the search: a bound context, or a task off its context. -/
inductive Cand where
  | ctx (c : Nat)
  | task (t : Task)

/-- Contexts that are candidates of step `rank`, with their priority and the cycle they became ready. -/
def State.boundCandidates (s : State) (rank : Nat) : List (Cand × Nat × Nat) :=
  (List.range 8).filterMap fun c =>
    let pri := ((s.boundTask c).map s.effPri).getD 0
    match (s.ctx c).run with
    | .ready r _ _ _ since => if r == rank && since ≤ s.now then some (.ctx c, pri, since) else none
    | .rebook _ _ since => if rank == 2 && since ≤ s.now then some (.ctx c, pri, since) else none
    | _ => none

/-- Pinned ready tasks of the core that are off their contexts (R138, R139). -/
def State.pinnedReady (s : State) : List (Cand × Nat × Nat) :=
  (s.tasks.filter fun t => t.st == .ready).map fun t => (.task t, s.effPri t, t.readyAt)

/-- Candidates by priority, then the cycle they became ready (R153). -/
def inOrder (cs : List (Cand × Nat × Nat)) : List Cand :=
  (sortBy (fun a b => decide (a.2.1 < b.2.1) || (a.2.1 == b.2.1 && decide (a.2.2 ≤ b.2.2))) cs).map (·.1)

/-- The candidates in the order of R153. -/
def State.candidates (s : State) : List Cand :=
  inOrder (s.boundCandidates 1) ++ inOrder (s.boundCandidates 2 ++ s.pinnedReady) ++ ((List.range 4).flatMap s.queuedAt).map .task

/-- Book a bound candidate if it fits. -/
def State.bookBound (s : State) (rs : List (Nat × List Booking)) (c : Nat) : Except Fault (Option State) :=
  let rsv := reservedFor rs (((s.boundTask c).map s.effPri).getD 0) false
  match (s.ctx c).run with
  | .ready rank q pc restore since => s.bindReady c q pc restore rank since rsv
  | .rebook f pat _ =>
    if pat.isEmpty then .ok (some (s.resumeInPlace c f s.now))
    else .ok (s.rebook c f pat (s.now - f + 4) rsv)
  | _ => .ok none

/-- Book a task that is off its context, if the core may consider it and it fits. -/
def State.bookTask (s : State) (rs : List (Nat × List Booking)) (t : Task) : Except Fault (Option State) :=
  match (if s.ready t && s.frameReady t t.restore then s.kernelOf t else none) with
  | none => .ok none
  | some k => match s.taskCounts t k with
    | .error e => .error e
    | .ok count =>
      let own := t.st == .queued && ((s.agedAt (s.effPri t)).map (·.id)) == some t.id
      match (if own then s.agedBooking t k (reservedFor rs (s.effPri t) true) count
          else s.spotFor t k (reservedFor rs (s.effPri t) false) count) with
      | some p => (s.bindTask t k p).map some
      | none => .ok none

/-- Book a candidate if it fits. -/
def State.bookCand (s : State) (rs : List (Nat × List Booking)) : Cand → Except Fault (Option State)
  | .ctx c => s.bookBound rs c
  | .task t => s.bookTask rs t

/-- Book the first of some candidates that fits: at most one. -/
def State.bookFirst (s : State) (rs : List (Nat × List Booking)) : List Cand → Except Fault State
  | [] => .ok s
  | x :: xs => match s.bookCand rs x with
    | .error e => .error e
    | .ok (some s') => .ok s'
    | .ok none => s.bookFirst rs xs

/-- Load the code of the first waiting task's kernel that is not resident (R154). -/
def State.requestCode (s : State) : State :=
  let want := s.tasks.find? fun t => (t.st == .queued || t.st == .ready) && (s.kernelOf t).isNone &&
    !s.iload.any (fun l => l.kernel.tenant == t.tenant && l.kernel.kimg == t.kimg) &&
    !(s.openLcores t.tenant t.width).isEmpty && s.readsReady t.tenant (s.kernelReads t.tenant t.kimg)
  match want with
  | none => s
  | some t =>
    let (k, ok, s) := match s.parseKernel t.tenant t.kimg with
      | some k => (k, true, s)
      | none => (noKernel t.tenant t.kimg, false, s.logReads t.tenant (s.kernelReads t.tenant t.kimg))
    let (d, s) := s.delay
    { s with iload := s.iload ++ [{ kernel := k, due := s.now + 1 + d, ok := ok }] }

/-- The cycle's booking: at most one, in the order of R153. -/
def State.search (s : State) : Except Fault State := do
  let s := { s.requestCode with searched := true }
  let rs ← s.reservations
  s.bookFirst rs s.candidates

/-! ## Compaction (R160) -/

/-- Bookings of context `c` that have not started: those of a run whose start lies ahead. -/
def State.unstarted (s : State) (c : Nat) : Bool :=
  match (s.ctx c).run with
  | .run _ => decide (s.now < (s.ctx c).start) && (s.ctx c).shift == 0
  | _ => false

/-- Move the unstarted booking of context `c` to the earliest start at which it fits clear of reservations, never later. -/
def State.compactOne (s : State) (c : Nat) : State :=
  let x := s.ctx c
  let rsv := match s.reservations with
    | .ok rs => reservedFor rs (((s.boundTask c).map s.effPri).getD 0) false
    | .error _ => []
  let own := s.cal.filter fun b => b.ctx == c && b.cut.isNone
  let h := lcoreOf s.mode.toNat x.base
  let moved := fun (st : Nat) => own.map fun (b : Booking) =>
    let d := x.start - st
    ({ b with start := b.start - d, holes := b.holes.map fun h => (h.1 - d, h.2 - d), ext := none } : Booking).extended s.now
  match firstFrom (fun st => (moved st).all (s.fits (· == c) h rsv)) (x.start - (s.now + 4)) (s.now + 4) with
  | none => s
  | some st =>
    let s := { s with cal := (s.cal.filter fun (b : Booking) => !(b.ctx == c && b.cut.isNone)) ++ moved st }
    s.modCtx c fun y => { y with start := st, run := .run ((s.nextColumn c st).getD st) }

/-- Compaction, in ascending start, ties by priority then ready age. -/
def State.compact (s : State) : State :=
  let key := fun c => ((s.ctx c).start, ((s.boundTask c).map s.effPri).getD 0, ((s.boundTask c).map (·.readyAt)).getD 0)
  let before := fun a b =>
    let x := key a
    let y := key b
    decide (x.1 < y.1) || (x.1 == y.1 && (decide (x.2.1 < y.2.1) || (x.2.1 == y.2.1 && decide (x.2.2 ≤ y.2.2))))
  let cs := sortBy before ((List.range 8).filter s.unstarted)
  cs.foldl State.compactOne { s with compactDue := false }

end Sys2Proof.Machine
end

