-- ==== Sys2Proof/Machine/Operands.lean ====
section
/-! DEFINITION. Sources of moves, fitting of values, the working record of a bundle, and moves
(spec/03_bundles.md R65-R74; spec/04_shades.md R103-R105, R112, R116, R126). -/

namespace Sys2Proof.Machine

/-! ## Sources (R66-R69) -/

/-- What a source supplies: its alternatives, whether 2048 bits wide, and the place when it is empty. -/
structure Src where
  alts : List (Alt 2048)
  wide : Bool := false
  empty : Option Loc := none

/-- A source that holds the 64-bit value `x`. -/
def Src.word (x : Word) : Src := { alts := [{ val := x.setWidth 2048 }] }

/-- A source that is a register, a latch or a partial sum. -/
def Ctx.place (x : Ctx) (l : Loc) : Src :=
  { alts := x.alts l, wide := l.isVec, empty := if x.isFull l then none else some l }

/-- cid (R16). -/
def State.cid (s : State) (x : Ctx) : Word :=
  BitVec.ofNat 64 (s.coreNum.toNat + x.base % 4 * 2 ^ 8 + s.mode.toNat * 2 ^ 10)

/-- The value of a source read in kernel column `col` (R67); `imm` is what an immediate of the column word gives ix. -/
def State.source (s : State) (c : Nat) (k : Kernel) (col : Nat) (imm : Option Word) : Source → Src
  | .s n => let x := s.ctx c; x.place (.s col (physS x.rb n.val))
  | .v n => let x := s.ctx c; x.place (.v col (physV x.rb n.val))
  | .m n => (s.ctx c).place (.m col n.val)
  | .small n => .word (BitVec.ofInt 64 ((n.val : Int) - 8))
  | .iaO => (s.ctx c).place (.iaO col)
  | .vaO => (s.ctx c).place (.vaO col)
  | .sfO => (s.ctx c).place (.sfO col)
  | .lsO => (s.ctx c).place (.lsO col)
  | .rdP q => (s.ctx c).place (.rdP q.val)
  | .ix => .word (imm.getD ((s.ctx c).col col).ix)
  | .lc => .word ((s.ctx c).lcNow.setWidth 64)
  | .rb => .word ((s.ctx c).rb.setWidth 64)
  | .cid => .word (s.cid (s.ctx c))
  | .vts => .word (s.vts (s.tenantOf c))
  | .wid => .word (s.ctx c).wid
  | .widF i => .word (BitVec.ofNat 64 (k.widField (s.ctx c).wid i.val))

/-- Fit a value to its destination's width (R68). -/
def fitVal (srcWide dstWide : Bool) (v : Vec) : Vec :=
  match srcWide, dstWide with
  | false, true => repeatBits 32 (v.toNat % 2 ^ 32)
  | true, false => v &&& BitVec.ofNat 2048 (2 ^ 64 - 1)
  | _, _ => v

def fitAlts (srcWide dstWide : Bool) (as : List (Alt 2048)) : List (Alt 2048) :=
  as.map fun a => { a with val := fitVal srcWide dstWide a.val }

/-- The 64-bit value of an alternative. -/
def Alt.word {w : Nat} (a : Alt w) : Nat := a.val.toNat % 2 ^ 64

/-! ## The working record of a bundle (R85, R193, R196) -/

/-- A case of step 5 of R196. -/
inductive Stop where
  | trap (cause : Cause) (info : Nat)
  /-- A forced yield (R258, R264, R281). -/
  | yield (w : FWait)
  /-- A translation miss (R292). -/
  | walk (va : Nat)
  /-- A page that is not present (R294). -/
  | page (va : Nat) (wr : Bool)
  /-- A denial latched on a timeline counter (R315, R342). -/
  | latched (i : Nat) (d : Denial)
  /-- A read of `n` scratchpad bytes at window address `a`, a granule of which is poisoned (R302, R303). -/
  | poisoned (a n : Nat)
  /-- A read by hardware that is refused (R290, R303). -/
  | unread (u : Unread)
  deriving DecidableEq, Repr

/-- The place of a case within its slot (R196): missing-operand, bad-operand, overrun, then table order; a translation
that misses or finds no page stands where permission does. -/
def Stop.prio : Stop → Nat
  | .trap c _ => if c.code == 0x0D then 0 else if c.code == 0x0E then 1 else if c.code == 0x10 then 2 else c.code
  | .walk _ => 0x23
  | .page _ _ => 0x23
  | .latched _ d => if d.poison then 0x24 else 0x23
  | .poisoned _ _ => 0x24
  | .unread u => u.cause.code
  | .yield _ => 0x40

/-- What two slots may both write (R86, R126). -/
inductive WrKey where
  | loc (l : Loc)
  | sg (col n w : Nat)
  | rm (col : Nat)
  | ix (col : Nat)
  | lc | rb
  deriving DecidableEq, Repr

/-- A bundle under examination: the machine before it, the machine as its effects stand so far, and every case that
would keep it from committing. -/
structure Work where
  c : Nat
  k : Kernel
  s0 : State
  s : State
  /-- Immediates by column (R69), rounding modes by column (R74). -/
  imm : Nat → Option Word := fun _ => none
  rm : List (Nat × Nat) := []
  /-- Step 2: slot, trap instead of a yield, what the yield waits for. -/
  empties : List (Nat × Bool × FWait) := []
  /-- Step 3: slot and blocking guard. -/
  collapses : List (Nat × Option Nat) := []
  /-- Step 4: units and engines used; slots in conflict. -/
  units : List Nat := []
  engs : List Nat := []
  unitConf : List Nat := []
  engConf : List Nat := []
  /-- Step 5. -/
  stops : List (Nat × Stop) := []
  /-- Step 6: slots of write collisions. -/
  writes : List (WrKey × Term) := []
  colls : List Nat := []
  /-- Collisions of results that land together (R127): slots of the later writes. -/
  landColls : List Nat := []
  /-- Stochastic-rounding operations so far, and a write of rnc (R53). -/
  rsOps : Nat := 0
  rncW : Option Word := none
  /-- Moves to cq (R170): slot and bit; compares to cq of the bundle: slots. -/
  pushes : List (Nat × Bool) := []
  cqTrigs : List Nat := []
  /-- Moves to guards (R105): slot, guard, value; compares to guards: slot, guard. -/
  guardMoves : List (Nat × Nat × Bool) := []
  guardTrigs : List (Nat × Nat) := []
  /-- Vector registers written, with the slot of the last write (R114), and the terms that each such slot reads (R117). -/
  vecs : List (Nat × Nat × Nat) := []
  vecTerms : List (Nat × Term) := []
  /-- Banks used through their cells in this cycle (R253), and the stores of the bundle to global memory (R264). -/
  banks : List Nat := []
  gst : List HeldStore := []
  /-- The bundle is looked at only for the cells that a command under a false guard would hold (R159): nothing but its operands
  is checked. -/
  dry : Bool := false

/-- The context as the bundle's effects stand. -/
def Work.x (w : Work) : Ctx := w.s.ctx w.c

/-- The context before the bundle. -/
def Work.x0 (w : Work) : Ctx := w.s0.ctx w.c

def Work.modX (w : Work) (f : Ctx → Ctx) : Work := { w with s := w.s.modCtx w.c f }

def Work.now (w : Work) : Nat := w.s0.now

def Work.stop (w : Work) (slot : Nat) (c : Cause) (info : Nat := 0) : Work :=
  { w with stops := w.stops ++ [(slot, .trap c info)] }

def Work.stopWith (w : Work) (slot : Nat) (t : Stop) : Work := { w with stops := w.stops ++ [(slot, t)] }

def Work.collapse (w : Work) (slot : Nat) (g : Option Nat) : Work := { w with collapses := w.collapses ++ [(slot, g)] }

/-- Note a write of `key` under `dom`; it collides with an earlier one under a compatible domain (R86, R126). -/
def Work.wrote (w : Work) (slot : Nat) (key : WrKey) (dom : Term) : Work :=
  { w with
    writes := w.writes ++ [(key, dom)]
    colls := if w.writes.any (fun e => e.1 == key && e.2.compatible dom) then w.colls ++ [slot] else w.colls }

/-- The domains in which a move under `g` writes the alternatives `src`: none for a void one (R111, R126). -/
def writtenDoms (g : GState) (src : List (Alt 2048)) : List Term :=
  src.filterMap fun a => if a.void then none else g.term.conj a.term

/-- Note the writes of a move to `key` (R86, R126). -/
def Work.wroteAll (w : Work) (slot : Nat) (key : WrKey) (doms : List Term) : Work :=
  { w with
    writes := w.writes ++ doms.map (key, ·)
    colls := if doms.any (fun d => w.writes.any fun e => e.1 == key && e.2.compatible d) then w.colls ++ [slot] else w.colls }

/-- Terms of a set. -/
def termsOf {w : Nat} (as : List (Alt w)) : List Term := as.map (·.term)

/-! ## Moves (R65, R68, R72, R112, R116) -/

/-- The guard of a move that is not performed keeps it from everything. -/
def Work.gstate (w : Work) (h : MoveHead) : GState := w.x0.gstate h.inv h.g.val

/-- Read the source of a move, or note that it is empty (R66). -/
def Work.read (w : Work) (slot col : Nat) (h : MoveHead) : Src × Work :=
  let r := w.s0.source w.c w.k col (w.imm col) h.src
  let w := match h.src with
    | .vts => { w with s := w.s.readVts (w.s0.tenantOf w.c) }
    | _ => w
  match r.empty with
  | some l => (r, { w with empties := w.empties ++ [(slot, h.trapEmpty, .source l)] })
  | none => (r, w)

/-- Write a set under R112 to a register or an operand port. -/
def Work.put (w : Work) (slot : Nat) (g : GState) (src : List (Alt 2048)) (l : Loc) : Work :=
  let dst := w.x.alts l
  let as := moveInto g src dst
  if depthOk as then
    let as := match l with | .port _ _ => dropVoid as | _ => as
    (w.modX fun x => x.setAlts l as).wroteAll slot (.loc l) (writtenDoms g src)
  else w.collapse slot (lowestGuard (g.term :: termsOf src ++ termsOf dst ++ termsOf as))

/-- A value moved to ia.g or rd.l is out of range, judged on all 64 bits (R68, R76, R231). -/
def portRange (p : Port) (v : Nat) : Bool :=
  match p with
  | .iaG => decide (1 ≤ v) && decide (v ≤ 15)
  | .rdL => decide (v ≤ 3)
  | _ => true

/-- A move to an operand port. Out of range under the empty term it faults, under another it is grey (R123). -/
def Work.putPort (w : Work) (slot col : Nat) (g : GState) (hold : Bool) (src : List (Alt 2048)) (p : Port) : Work :=
  let mark := src.map fun a => { a with
    hold := hold, grey := if a.void || portRange p a.word then a.grey else a.grey.or (some cBadOperand) }
  let l : Loc := .port col p
  let as := moveInto g mark (w.x.alts l)
  let bad := src.any (fun a => !a.void && a.grey.isNone && !portRange p a.word) &&
    as.any fun a => a.term.isEmpty && a.grey == some cBadOperand
  let w := if bad then w.stop slot cBadOperand else w
  w.put slot g mark l

/-- The single unconditional value that a move to a destination without alternatives needs (R116). -/
def Work.single (w : Work) (slot : Nat) (g : GState) (src : List (Alt 2048)) : Work × Option Nat :=
  match g with
  | .opened n _ => (w.collapse slot (lowestGuard ([(n, true)] :: termsOf src)), none)
  | _ => match src with
    | [a] => if a.void then (w, none) else (w, some a.word)
    | _ => (w.collapse slot (lowestGuard (termsOf src)), none)

/-- A move to staging, rm, ix or an operand port: step 2 of R85. -/
def Work.moveEarly (w : Work) (slot col : Nat) (h : MoveHead) (d : Dest) : Work :=
  let g := w.gstate h
  if g == .no then w
  else
    let early := match d with
      | .port _ => true
      | .sg _ _ => true
      | .rm => true
      | .ix => true
      | _ => false
    if !early then w
    else
      let (r, w) := w.read slot col h
      if r.empty.isSome then w
      else match d with
        | .port p => w.putPort slot col g h.hold (fitAlts r.wide ((Loc.port col p).isVec) r.alts) p
        | .sg n k =>
          match w.single slot g (fitAlts r.wide false r.alts) with
          | (w, none) => w
          | (w, some v) =>
            (w.modX fun x => x.modCol col fun y =>
              { y with sg := vset y.sg (4 * n.val + k.val) (BitVec.ofNat 64 v) }).wrote slot (.sg col n.val k.val) []
        | .ix =>
          match w.single slot g (fitAlts r.wide false r.alts) with
          | (w, none) => w
          | (w, some v) => (w.modX fun x => x.modCol col fun y => { y with ix := BitVec.ofNat 64 v }).wrote slot (.ix col) []
        | .rm =>
          match w.single slot g (fitAlts r.wide false r.alts) with
          | (w, none) => w
          | (w, some v) =>
            if v > 4 then w.stop slot cBadOperand
            else { w with rm := (col, v) :: w.rm }.wrote slot (.rm col) []
        | _ => w

/-- What a miss leaves in its destination until the fill: no value of the spec's, but a free one (notes/assumptions/60.md). -/
def InFlight.hollow (f : InFlight) : List (Alt 2048) := [{ val := ((f.alts.find? (!·.void)).getD { val := 0 }).val }]

/-- The result writes register `l`: with a value, or with its spill part. -/
def InFlight.writes (f : InFlight) (l : Loc) : Bool :=
  (f.dest == l && f.settled.alts.any (!·.void)) || (f.spill.map (·.1)) == some l

/-- What a result in flight holds for register `l` where a move under `g` of `src` writes over it: elsewhere its own
alternative, or, for a miss, what that would leave (R127, R259). -/
def InFlight.movedOver (f : InFlight) (g : GState) (src : List (Alt 2048)) (l : Loc) : InFlight :=
  if f.dest == l then { f with alts := moveInto g src (if f.fill.isSome then f.hollow else f.alts), fill := none }
  else
    let own := match f.spill with
      | some p => [({ val := p.2, grey := f.alts.head?.bind (·.grey) } : Alt 2048)]
      | none => []
    { f with moved := moveInto g src (if f.moved.isEmpty then own else f.moved) }

/-- Results in flight that land in the register in the cycle the move counts as landing (R127, R221): the later write
wins where it writes, a miss that would mark the register empty loses its binding (R259). -/
def Work.overFlight (w : Work) (slot : Nat) (g : GState) (src : List (Alt 2048)) (l : Loc) : Work :=
  let due := fun (f : InFlight) => f.land == w.now + 1 && f.writes l
  let hit := w.x.flight.filter due
  if hit.isEmpty then w
  else
    let fix := fun (f : InFlight) => if due f then f.settled.movedOver g src l else f
    let gone := hit.filterMap (·.fill)
    { w.modX fun x => { x with
        flight := x.flight.map fix
        fills := x.fills.map fun f => if gone.contains f.id then { f with dropped := true } else f } with
      landColls := w.landColls ++ [slot] }

/-- A binding that has already emptied the register ends when a move overwrites it (R259). -/
def Ctx.unbind (x : Ctx) (l : Loc) : Ctx :=
  if x.isFull l then x
  else { x with fills := x.fills.map fun f => if f.marked && f.dest == l then { f with dropped := true } else f }

/-- A move under `g` of `src` over register `l`: an empty register becomes full and its binding ends; elsewhere it holds the free
value that stands there (R112, R259; notes/assumptions/60.md). A move that writes nothing leaves it empty (R111). -/
def Work.putReg (w : Work) (slot : Nat) (g : GState) (src : List (Alt 2048)) (l : Loc) : Work :=
  if (writtenDoms g src).isEmpty then (if w.x.isFull l then w.put slot g src l else w)
  else ((w.modX fun x => x.unbind l).overFlight slot g src l).put slot g src l

/-- A move to a register, guard, cq, lc or rb: step 4 of R85. -/
def Work.moveLate (w : Work) (slot col : Nat) (h : MoveHead) (d : Dest) : Work :=
  let g := w.gstate h
  if g == .no then w
  else
    let reg : Option Loc := match d with
      | .s cl n => some (.s cl.val (physS w.x0.rb n.val))
      | .v cl n => some (.v cl.val (physV w.x0.rb n.val))
      | .m cl n => some (.m cl.val n.val)
      | _ => none
    match reg with
    | some l =>
      let (r, w) := w.read slot col h
      if r.empty.isSome then w
      else
        let src := fitAlts r.wide l.isVec (r.alts.map fun a => { a with hold := false })
        let w := w.putReg slot g src l
        match l with
        | .v cl n => { w with
            vecs := (cl, n, slot) :: w.vecs.filter fun e => !(e.1 == cl && e.2.1 == n)
            vecTerms := w.vecTerms ++ (g.term :: termsOf src).map (slot, ·) }
        | _ => w
    | none =>
      let late := match d with
        | .k _ => true
        | .lc => true
        | .rb => true
        | .cq => true
        | _ => false
      if !late then w
      else
        let (r, w) := w.read slot col h
        if r.empty.isSome then w
        else match w.single slot g (fitAlts r.wide false r.alts) with
          | (w, none) => w
          | (w, some v) => match d with
            | .k n =>
              if 7 ≤ n.val && w.x0.pl then w.stop slot cGuardState
              else { w with guardMoves := w.guardMoves ++ [(slot, n.val + 1, bitAt v 0)] }
            | .lc => (w.modX fun x => x.setLc (BitVec.ofNat 32 v)).wrote slot .lc []
            | .rb => (w.modX fun x => { x with rb := BitVec.ofNat 7 v }).wrote slot .rb []
            | .cq => { w with pushes := w.pushes ++ [(slot, bitAt v 0)] }
            | _ => w

end Sys2Proof.Machine
end

