-- ==== Sys2Proof/Machine/Trigger.lean ====
section
/-! DEFINITION. What every trigger shares: ports, results in flight, multi-register forms
(spec/03_bundles.md R72, R76; spec/04_shades.md R113, R114, R127; spec/08_vector.md R214, R220, R221). -/

namespace Sys2Proof.Machine

/-- A trigger as its slot gives it: slot, kernel column, guard, operand t fitted to the port, rounding (R53, R74). -/
structure TrigEnv where
  slot : Nat
  col : Nat
  g : GState
  t : List (Alt 2048)
  rnd : Rnd
  trapEmpty : Bool

/-- What an empty port reads as, where that is no fault (R72). -/
def emptyPort : Port → Option Vec
  | .vaM => some (BitVec.ofNat 2048 (2 ^ 64 - 1))
  | .rdM => some (BitVec.ofNat 2048 (2 ^ 64 - 1))
  | .rdL => some 0
  | _ => none

/-- The alternatives that a trigger reads from a port; none where it is empty and must not be. -/
def Work.operand (w : Work) (col : Nat) (p : Port) : Option (List (Alt 2048)) :=
  match dropVoid (w.x.alts (.port col p)) with
  | [] => (emptyPort p).map fun v => [{ val := v }]
  | as => some as

/-- Ports of column `j` that a trigger under `g` read are consumed (R72). -/
def Ctx.consumed (x : Ctx) (j : Nat) (g : GState) (ps : List Port) : Ctx :=
  ps.foldl (fun x p => x.setAlts (.port j p) (consume g (x.alts (.port j p)))) x

def Work.consumePorts (w : Work) (e : TrigEnv) (ps : List Port) : Work := w.modX fun x => x.consumed e.col e.g ps

/-- The domains in which a set holds values. -/
def valueTerms (as : List (Alt 2048)) : List Term := (as.filter (!·.void)).map (·.term)

/-- Two sets both write under some outcome (R127). -/
def setsMeet (a b : List (Alt 2048)) : Bool := (valueTerms a).any fun t => (valueTerms b).any t.compatible

/-- Send a result on its way. Merged with an earlier one for the same holder and cycle, as the guards resolved by now leave it, it
must fit (R114, R127, notes/assumptions/86.md); `read` are the terms that its slot reads (R117). -/
def Work.post (w : Work) (e : TrigEnv) (rank : Nat) (dest : Loc) (lat : Nat) (as : List (Alt 2048)) (flags : Flags)
    (spill : Option (Loc × Vec) := none) (fill : Option Nat := none) (read : List Term := []) (red : Option RedStep := none) : Work :=
  let f : InFlight :=
    { land := w.now + lat, seq := w.s.resultSeq, slot := e.slot, pc := w.x0.pc, rank := rank, dest := dest, alts := as,
      flags := flags, spill := spill, fill := fill, red := red }
  let same := w.x.flight.filter fun o => o.land == f.land && o.dest == dest
  let merged := overlay as (same.foldl (fun b o => overlay o.settled.alts b) [])
  if !same.isEmpty && !depthOk merged then
    w.collapse e.slot (lowestGuard (e.g.term :: read ++ termsOf as ++ termsOf merged))
  else
    let w := w.modX fun x => { x with flight := x.flight ++ [f] }
    { w with s := { w.s with resultSeq := w.s.resultSeq + 1 } }

/-- The operands of a trigger, an empty port that must not be empty as no alternative. -/
def Work.operands (w : Work) (e : TrigEnv) (ports : List Port) (mid : List (List (Alt 2048)) := []) :
    List (List (Alt 2048)) :=
  ports.map (fun p => (w.operand e.col p).getD []) ++ mid ++ [e.t]

/-- A port that must hold a value is empty (R72). -/
def Work.missing (w : Work) (e : TrigEnv) (ports : List Port) : Bool := ports.any fun p => (w.operand e.col p).isNone

/-- A trigger under R113: it reads `ports` in that order, then the sets `mid` (a latch, R232), then t, and its result
lands in `dest` after `lat` cycles. -/
def Work.fire (w : Work) (e : TrigEnv) (ports : List Port) (dest : Loc) (lat rank : Nat) (f : List Vec → Comp)
    (mid : List (List (Alt 2048)) := []) (red : Bool → Option RedStep := fun _ => none) : Work :=
  let ops := w.operands e ports mid
  let r := formResult e.g ops f
  if !depthOk r.alts then w.collapse e.slot (lowestGuard (e.g.term :: ops.flatMap termsOf ++ termsOf r.alts))
  else if w.missing e ports then w.stop e.slot cMissingOperand
  else match r.fault with
    | some (c, info) => w.stop e.slot c info
    | none =>
      let w := w.consumePorts e ports
      if r.alts.isEmpty then w
      else w.post e rank dest lat r.alts r.flags none none (ops.flatMap termsOf) (red (r.alts.any fun a => !a.term.isEmpty))

/-- The single values of a trigger that collapses on any alternative (R116); none where the bundle may not go on. -/
def Work.singles (w : Work) (e : TrigEnv) (ports : List Port) : Work × Option (List (Alt 2048)) :=
  let ops := w.operands e ports
  let isOpen := match e.g with | .opened _ _ => true | _ => false
  if isOpen || ops.any fun as => decide (as.length > 1) then
    (w.collapse e.slot (lowestGuard (e.g.term :: ops.flatMap termsOf)), none)
  else if w.missing e ports then (w.stop e.slot cMissingOperand, none)
  else (w, some (ops.map fun as => as.headD { val := 0, void := true }))

/-- The spill register that the control word in va.b names, where the port holds one word that is in range (R220). -/
def Work.spillReg (w : Work) (e : TrigEnv) : Option Loc :=
  match w.operand e.col .vaB with
  | some [b] =>
    let c := b.val.toNat % 2 ^ 32
    if b.void || c / 2 ^ 7 != 0 then none else some (.v e.col (physV w.x0.rb (c % 16)))
  | _ => none

/-- A free value in the low `n` bits, for a result the manual leaves open; taken only when `b`. -/
def Work.openValue (w : Work) (b : Bool) (n : Nat) : Vec × Work :=
  if b then (w.s.freeBits.1 &&& BitVec.ofNat 2048 (2 ^ n - 1), { w with s := w.s.freeBits.2 }) else (0, w)

/-- The grey mark that single inputs give their result (R124). -/
def greySingles (as : List (Alt 2048)) : Option Cause := as.foldl (fun c a => c.or a.grey) none

/-- A multi-register form (R220, R221): single values; the control word is lane 0 of va.b; the second part lands in the
spill register with the first. An empty spill register counts as an empty source. `f` is given the control word and the values
of the other ports and t. A fault beside a grey input gives way to its mark, with free values (R124,
notes/assumptions/69.md); a void beside an illegal control word or a bad husk does not keep the fault away (notes/assumptions/79.md). -/
def Work.fireMulti (w : Work) (e : TrigEnv) (ports : List Port) (f : Nat → List Vec → Comp) : Work :=
  match (w.spillReg e).filter (!w.x0.isFull ·) with
  | some l => { w with empties := w.empties ++ [(e.slot, e.trapEmpty, .source l)] }
  | none =>
    match w.singles e (ports ++ [.vaB]) with
    | (w, none) => w
    | (w, some vals) =>
      let n := ports.length
      let c := ((vals.getD n { val := 0 }).val.toNat) % 2 ^ 32
      let l : Loc := .v e.col (physV w.x0.rb (c % 16))
      let gr := greySingles (vals.take n ++ vals.drop n)
      let r : Comp := if c / 2 ^ 7 != 0 then { fault := some (cBadOperand, 0) }
        else f c ((vals.take n ++ vals.drop (n + 1)).map (·.val))
      let send := fun (w : Work) (as : List (Alt 2048)) (fl : Flags) (spill : Option (Loc × Vec)) =>
        (w.consumePorts e (ports ++ [.vaB])).post e (e.col * 4 + 1) (.vaO e.col) 3 as fl spill
      match r.fault with
      | some (k, info) =>
        if gr.isSome then
          let a := w.openValue true 2048
          let b := a.2.openValue true 2048
          send b.2 [{ val := a.1, grey := gr }] 0 (some (l, b.1))
        else w.stop e.slot k info
      | none =>
        if vals.any (·.void) then send w [{ val := 0, void := true }] 0 none
        else send w [{ val := r.val, grey := gr }] r.flags (some (l, r.spill))

end Sys2Proof.Machine
end

