-- ==== Sys2Proof/Machine/Lsu.lean ====
section
/-! DEFINITION. Loads and stores, held stores, forwarding (spec/12_memory.md R250-R266; spec/04_shades.md R119-R121;
spec/14_translation.md R291-R296, R302). -/

namespace Sys2Proof.Machine

/-- First address beyond the scratchpad window (R251). -/
def windowEnd : Nat := 0x200000

/-- Bytes of scratchpad of one column. -/
def columnBytes : Nat := 524288

/-- Key of window byte `ea` for a task on base column `b` (R252). -/
def State.windowKey (s : State) (b ea : Nat) : Nat := spadKey s.coreNum.toNat (b * columnBytes + ea)

/-- Physical resource of the bank that holds window byte `ea`. -/
def bankRes (b ea : Nat) : Nat := 15 + 8 * b + ea / 65536

/-! ## Where an access goes (R251, R252, R262, R291) -/

inductive Where where
  | spad (key bank : Nat)
  | global (pa : Nat)
  deriving DecidableEq, Repr

/-- What is known of a page at issue (R292, R296): none is a miss. -/
def State.pageOf (s : State) (c va : Nat) (rd wr : Bool) : Option Access :=
  let tnt := s.tenantOf c
  let x := s.ctx c
  if x.walked.contains (va / 4096 * 2 + 1) || !s.enabled tnt then some .denied
  else match s.cached tnt va with
    | some e => some ((XRes.page e).access va rd wr)
    | none => if x.walked.contains (va / 4096 * 2) then some ((s.walk tnt va).access va rd wr) else none

/-- A store meets the header of a frame of its tenant (R136): of a task, or of a parent that is done and keeps its frame while a
child lives (R135). -/
def State.headerHit (s : State) (tnt va n : Nat) : Bool :=
  let hit := fun (fra : Nat) => decide (fra < va + n) && decide (va < fra + 64)
  s.tasks.any fun t => t.tenant == tnt && (hit t.fra || (t.par.isSome && hit t.parFra))

/-- The space and address checks apart from the bank's cell, each with its fault; where the access goes if none applies. An address
beyond the scratchpad of the logical core is refused before its alignment is checked (R252, R262, R263; notes/assumptions/47.md). -/
def Work.locate (w : Work) (ea n : Nat) (wr : Bool) : List Stop × Option Where :=
  let x := w.x0
  let align : List Stop := if ea % n != 0 then [.trap cAlignment ea] else []
  if ea < windowEnd then
    let q := ea / 65536
    let stops : List Stop :=
      if ea ≥ columnBytes * lcoreWidth w.s0.mode.toNat then [.trap cPermission ea]
      else if q ≥ 8 * w.k.width then .trap cOverrun (15 + q) :: align
      else align
    (stops, if stops.isEmpty then some (.spad (w.s0.windowKey x.base ea) (bankRes x.base ea)) else none)
  else if !align.isEmpty then (align, none)
  else match w.s0.pageOf w.c ea (!wr) wr with
    | none => ([.walk ea], none)
    | some .absent => ([.page ea wr], none)
    | some .denied => ([.trap cPermission ea], none)
    | some .poisoned => ([.trap cPoison ea], none)
    | some (.ok p) =>
      if p.space != 0 || (wr && w.s0.headerHit (w.s0.tenantOf w.c) ea n) then ([.trap cPermission ea], none)
      else ([], some (.global p.pa))

/-- The bank's cell in the issue cycle (R158, R253): owned, and used once. -/
def Work.useBank (w : Work) (bank : Nat) : Work × List Stop :=
  if w.s0.owns w.c bank w.now && !w.banks.contains bank && !w.s.occupied bank w.now then
    ({ w with banks := bank :: w.banks }, [])
  else (w, [.trap cOverrun (kernelRes w.x0.base bank)])

/-- A misaligned access of the scratchpad uses its bank's cell too, so that an overrun of it comes first (R196, R252). -/
def Work.bankStops (w : Work) (ea : Nat) (st : List Stop) : Work × List Stop :=
  if decide (ea < windowEnd) && st == [.trap cAlignment ea] then
    let (w, b) := w.useBank (bankRes w.x0.base ea)
    (w, b ++ st)
  else (w, st)

/-- The cause a deferred case gives its grey alternative (R123, R295). -/
def Stop.greyCause : Stop → Option Cause
  | .trap c _ => some c
  | .page _ _ => some cPermission
  | _ => none

/-- The first of several cases of one slot (R196). -/
def firstStop : List Stop → Option Stop
  | [] => none
  | x :: xs => match firstStop xs with
    | none => some x
    | some y => if y.prio < x.prio then some y else some x

/-! ## Values -/

def LdKind.size : LdKind → Nat
  | .n8 => 1
  | .n16 => 2
  | .n32 => 4
  | .i32 => 4
  | .d64 => 8
  | .q => 16
  | .v => 256

/-- The value of ls.o that a load's bytes give (R263). -/
def LdKind.value (k : LdKind) (bs : List Byte) : Vec :=
  match k with
  | .i32 => BitVec.ofNat 2048 (ofSigned 64 (toSigned 32 (ofLeBytes bs)))
  | _ => BitVec.ofNat 2048 (ofLeBytes bs)

/-- Bytes with an overlay over them. -/
def overlaid (bs : List Byte) (o : Overlay) : List Byte := o.foldl (fun l p => modifyAt l p.1 (fun _ => p.2)) bs

/-! ## Held stores: forwarding (R121) -/

/-- A held entry's bytes that fall in the `n` bytes at the place, by index; `va` is the access's address. A global entry
without a translation is compared by its virtual address (notes/assumptions/28.md). -/
def HeldStore.bytesIn (h : HeldStore) (p : Where) (va n : Nat) : Overlay :=
  let at_ : Option (Nat × Nat) := match p with
    | .spad key _ => if h.scratch then some (h.pa, key) else none
    | .global pa => if h.scratch then none else if h.placed then some (h.pa, pa) else some (h.va, va)
  match at_ with
  | none => []
  | some (a, b) => (List.range n).filterMap fun i =>
      if a ≤ b + i && b + i < a + h.size then some (i, BitVec.ofNat 8 (h.data.toNat >>> (8 * (b + i - a)))) else none

/-- Forwarding of one entry over the alternatives formed so far: the domain that the entry's term shares with each takes
its bytes, the rest stays. The rest outside a term of several literals is cut literal by literal, in their order
(notes/assumptions/87.md). -/
def forwardOne (h : HeldStore) (bytes : Overlay) (fs : List FillForm) : List FillForm :=
  fs.flatMap fun f => match f.term.conj h.term with
    | none => [f]
    | some t =>
      let cut := h.term.foldl (fun (acc : Term × List FillForm) l =>
        match acc.1.sense l.1 with
        | some _ => acc
        | none => match acc.1.add l, acc.1.add (l.1, !l.2) with
          | some y, some n => (y, acc.2 ++ [{ f with term := n }])
          | _, _ => acc) (f.term, [])
      { f with term := t, ovr := f.ovr ++ bytes, grey := f.grey.or h.grey } :: cut.2

def forwarded (held : List HeldStore) (p : Where) (va n : Nat) (dom : Term) : List FillForm :=
  held.foldl (fun fs h =>
    let bs := h.bytesIn p va n
    if bs.isEmpty then fs else forwardOne h bs fs) [{ term := dom }]

/-! ## The L1 (R255-R257) -/

/-- The bytes of the lines of one cxid over home bytes: each byte and whether every line is present. -/
def State.l1Line (s : State) (cxid line : Nat) : Option L1Line := s.l1.find? fun l => l.line == line && l.cxid == cxid

/-- That bound for the engine commands of the bundle, whose loads come before them (R85). -/
def Work.acqBound (w : Work) : Nat := max w.x0.acq w.x.seen

/-- The context has observed those stores of `es` that write a byte of the range (R256, R270). -/
def Ctx.saw (x : Ctx) (es : List StoreEntry) (pa n : Nat) : Ctx :=
  { x with seen := (es.filter (·.meets pa n)).foldl (fun b e => max b (e.seq + 1)) x.seen }

/-- A load of the range returns bytes of stores that still wait under its cxid (R256). -/
def Work.sawStores (w : Work) (pa n : Nat) : Work := w.modX fun x => x.saw (w.s0.pendingStores x.cxid.toNat) pa n

/-- Bytes over `bs` at `pa`, from stores that have not performed. -/
def overStores (es : List StoreEntry) (pa : Nat) (bs : List Byte) : List Byte :=
  es.foldl (fun l e => overlaid l ((List.range l.length).filterMap fun i =>
    if e.pa ≤ pa + i && pa + i < e.pa + e.data.length then (e.data[pa + i - e.pa]?).map fun b => (i, b) else none)) bs

/-- What the core sees at `pa` under a cxid: the home, and its own stores over it (R263). -/
def State.seenGlobal (s : State) (cxid pa n : Nat) : List Byte :=
  overStores (s.pendingStores cxid) pa (s.readGlobal pa n)

/-- A single store of `es` covers granule `g`: it clears the poison for those who see it (R302). -/
def coversGranule (es : List StoreEntry) (g : Nat) : Bool :=
  es.any fun e => decide (e.pa ≤ 64 * g) && decide (64 * g + 64 ≤ e.pa + e.data.length)

/-- The poisoned granules that a load under the cxid meets. -/
def State.poisonSeen (s : State) (cxid : Nat) : List Nat := s.poisonG.filter (!coversGranule (s.pendingStores cxid) ·)

/-- A line as the core sees it at its home under a cxid. -/
def State.homeLine (s : State) (cxid a : Nat) : L1Line :=
  { line := a, cxid := cxid, data := s.seenGlobal cxid a 128,
    poison := BitVec.ofNat 2 ((isPoisoned (s.poisonSeen cxid) a 64).toNat + 2 * (isPoisoned (s.poisonSeen cxid) (a + 64) 64).toNat) }

/-- A line under stores that it does not hold. -/
def L1Line.under (l : L1Line) (es : List StoreEntry) : L1Line :=
  { l with data := overStores es l.line l.data
           poison := BitVec.ofNat 2 (ofBits 2 fun g => l.poison.getLsbD g && !coversGranule es (l.line / 64 + g)) }

/-- Stores under other cxids that a load of the range comes after (notes/assumptions/85.md). -/
def State.foreignStores (s : State) (c pa n : Nat) : List StoreEntry :=
  (s.releasedStores (s.ctx c).cxid.toNat (s.ctx c).acqBound).filter (·.meets pa n)

/-- The stores that a load sees beside its lines: where it comes after stores `late` of other cxids, these and those of its own cxid in
their order. -/
def State.lateStores (s : State) (cxid : Nat) (late : List StoreEntry) : List StoreEntry :=
  if late.isEmpty then [] else oldestFirst (s.pendingStores cxid ++ late)

/-- The bytes of an access in its lines, and whether a granule among them is poisoned. -/
def linesRead (ls : List L1Line) (pa n : Nat) : List Byte × Bool :=
  (((ls.flatMap (·.data)).drop (pa % 128)).take n,
    ls.any fun l => (List.range 2).any fun g =>
      l.poison.getLsbD g && decide (l.line + 64 * g < pa + n) && decide (pa < l.line + 64 * g + 64))

/-- The bytes of an L1 hit, with a poisoned granule among them; none on a miss (notes/assumptions/61.md). -/
def State.l1Read (s : State) (cxid pa n : Nat) : Option (List Byte × Bool) :=
  (allSome (s.l1Line cxid) (linesOf pa n)).map fun ls => linesRead ls pa n

/-- What a load that misses returns: a line that is present is read in L1 all the same, so that no later hit there returns an older
value (R270). `late` are the stores of other cxids that it comes after. -/
def State.missRead (s : State) (cxid pa n : Nat) (late : List StoreEntry) : List Byte × Bool :=
  linesRead ((linesOf pa n).map fun a => ((s.l1Line cxid a).getD (s.homeLine cxid a)).under (s.lateStores cxid late)) pa n

/-- Poisoned granules of the lines of a cxid. -/
def State.l1Poison (s : State) (cxid : Nat) : List Nat :=
  (s.l1.filter (·.cxid == cxid)).flatMap fun l => ((List.range 2).filter l.poison.getLsbD).map (l.line / 64 + ·)

/-- A store updates the lines of its cxid that hit (R256); granules it covers whole are poisoned no more (R302). -/
def State.l1Store (s : State) (cxid pa : Nat) (bs : List Byte) : State :=
  { s with l1 := s.l1.map fun l =>
      if l.cxid == cxid && decide (l.line < pa + bs.length) && decide (pa < l.line + 128) then
        { l with data := overlaid l.data ((List.range 128).filterMap fun i =>
            if pa ≤ l.line + i && l.line + i < pa + bs.length then (bs[l.line + i - pa]?).map fun b => (i, b) else none)
                 poison := BitVec.ofNat 2 (ofBits 2 fun g => l.poison.getLsbD g &&
            !(decide (pa ≤ l.line + 64 * g) && decide (l.line + 64 * g + 64 ≤ pa + bs.length))) }
      else l }

/-- Replacement keeps at most 20 lines of a set (R255, R256); a free choice names the victim. -/
def State.l1Insert (s : State) (l : L1Line) : State :=
  let rest := s.l1.filter fun o => !(o.line == l.line && o.cxid == l.cxid)
  let set := rest.filter fun o => fld o.line 7 8 == fld l.line 7 8
  if set.length < 20 then { s with l1 := rest ++ [l] }
  else
    let (ch, s) := s.choice
    match set[ch % set.length]? with
    | some v => { s with l1 := rest.filter (· != v) ++ [l] }
    | none => { s with l1 := rest ++ [l] }

/-- The lines of an access that the L1 lacks enter it as the core sees them now. -/
def State.l1Fill (s : State) (cxid pa n : Nat) : State :=
  (linesOf pa n).foldl (fun s a => if (s.l1Line cxid a).isSome then s else s.l1Insert (s.homeLine cxid a)) s

/-- The poisoned granules of a load that misses are logged, each where it was read: in an L1 line, or at its home. -/
def State.logMiss (s : State) (cxid c tnt pa n : Nat) (late : List StoreEntry) : State :=
  let bare := fun (gs : List Nat) => gs.filter (!coversGranule late ·)
  (linesOf pa n).foldl (fun s a =>
    let lo := max pa a
    let k := min (pa + n) (a + 128) - lo
    match s.l1Line cxid a with
    | some _ => s.logPoison (bare (s.l1Poison cxid)) c tnt lo k 2
    | none => s.logPoison (bare (s.poisonSeen cxid)) c tnt lo k 0) s

/-! ## Loads (R263) -/

/-- The alternatives of a load: one for each form, and void where the guard is not satisfied. -/
def loadAlts (k : LdKind) (sreg : Bool) (data : List Byte) (grey : Option Cause) (fs : List FillForm) : List (Alt 2048) :=
  fs.map fun f =>
    let v := k.value (overlaid data f.ovr)
    { val := if f.void then 0 else if sreg then v &&& BitVec.ofNat 2048 (2 ^ 64 - 1) else v, void := f.void, term := f.term,
      grey := if f.void then none else f.grey.or grey }

/-- The void part of a set formed under an open guard (R113). -/
def voidForms : GState → List FillForm
  | .opened n b => [{ term := [(n, !b)], void := true }]
  | _ => []

def LdKind.lat (ea : Nat) : Nat := if ea < windowEnd then 5 else 8

/-- The destination of a load: ls.o or the bound register (R250, R259); none where dreg names none. -/
def Work.loadDest (w : Work) (col a : Nat) : Option Loc :=
  if !bitAt a 63 then some (.lsO col)
  else
    let d := fld a 57 6
    if d < 0x20 then some (.s col (physS w.x0.rb d))
    else if d < 0x30 then some (.v col (physV w.x0.rb (d - 0x20)))
    else none

/-- The terms that a load of `n` bytes at `ea` under `dom` reads and would form by forwarding (R117, R121). -/
def Work.forwardTerms (w : Work) (p : Where) (ea n : Nat) (dom : Term) : List Term :=
  dom :: (forwarded w.x0.held p ea n dom).map (·.term) ++ (w.x0.held.filter fun h => !(h.bytesIn p ea n).isEmpty).map (·.term)

/-- A load whose place is known: its bank's cell, then forwarding and the value. One that comes after queued stores of another cxid
misses, and its fill waits for them (R261, notes/assumptions/85.md). A miss carries a free value, which its destination
holds until the fill (notes/assumptions/60.md). A deferred overrun leaves one grey alternative
of free value under the slot's literal, with no forwarding (R123, notes/assumptions/69.md). -/
def Work.loadFrom (w : Work) (e : TrigEnv) (k : LdKind) (dest : Loc) (ea : Nat) (p : Where) : Work :=
  let n := k.size
  let bound := match dest with | .lsO _ => false | _ => true
  let sreg := match dest with | .s _ _ => true | _ => false
  let fs := forwarded w.x0.held p ea n e.g.term
  let all := fs ++ voidForms e.g
  let terms := w.forwardTerms p ea n e.g.term ++ (voidForms e.g).map (·.term)
  let rank := e.col * 4 + 3
  let deep := decide (all.length > 4) || all.any (fun f => decide (f.term.length > 4)) ||
    (bound && (decide (fs.length > 1) || fs.any fun f => !f.term.isEmpty))
  let cell : Work × List Stop := match p with
    | .spad _ bank => w.useBank bank
    | .global _ => (w, [])
  match e.g.term.isEmpty, firstStop cell.2 with
  | false, some t =>
    let (v, w) := cell.1.openValue true (8 * n)
    (w.consumePorts e [.lsA]).post e rank dest 5
      (loadAlts k sreg (leBytes n v.toNat) t.greyCause ({ term := e.g.term } :: voidForms e.g)) 0
  | _, stop =>
  if deep then w.collapse e.slot (lowestGuard terms)
  else
    let w := cell.1
    let mark := fun (w : Work) (bad : Bool) => if bad then (some cPoison, w.s.freeBits.1, { w with s := w.s.freeBits.2 })
      else ((none : Option Cause), (0 : Vec), w)
    match p with
    | .spad key _ =>
      match stop with
      | some t => w.stopWith e.slot t
      | none =>
        let bad := isPoisoned w.s0.poisonS key n
        let (gr, v, w) := mark w bad
        let w := if bad then { w with s := w.s.logPoison w.s0.poisonS w.c (w.s0.tenantOf w.c) key n 3 } else w
        let data := if bad then leBytes n v.toNat else memRead w.s0.spad key n
        (w.consumePorts e [.lsA]).post e rank dest 5 (loadAlts k sreg data gr all) 0
    | .global pa =>
      let cxid := w.x0.cxid.toNat
      let w := w.sawStores pa n
      let late := w.s0.foreignStores w.c pa n
      match if late.isEmpty then w.s0.l1Read cxid pa n else none with
      | some (bs, bad) =>
        let (gr, v, w) := mark w bad
        let w := if bad then { w with s := w.s.logPoison (w.s0.l1Poison cxid) w.c (w.s0.tenantOf w.c) pa n 2 } else w
        (w.consumePorts e [.lsA]).post e rank dest 8 (loadAlts k sreg (if bad then leBytes n v.toNat else bs) gr all) 0
      | none =>
        let mine := w.x.fills.filter (·.col == e.col)
        if mine.length ≥ 16 then w.stopWith e.slot (.yield (.fill ((mine.head?.map (·.id)).getD 0)))
        else
          let (bs, bad) := w.s0.missRead cxid pa n late
          let (_, v, w) := mark w bad
          let w := if bad then { w with s := w.s.logMiss cxid w.c (w.s0.tenantOf w.c) pa n late } else w
          let data := if bad then leBytes n v.toNat else bs
          let (hole, w) := w.openValue true (8 * n)
          let (d, s) := w.s.delay
          let id := s.resultSeq
          let w := { w with s := s }
          let w := w.modX fun x => { x.count 4 with
            fills := x.fills ++ [{ id := id, col := e.col, dest := dest, kind := k, pa := pa, due := w.now + 9 + d,
                                   forms := all, data := data, poison := bad, behind := if late.isEmpty then 0 else w.x0.acqBound }] }
          (w.consumePorts e [.lsA]).post e rank dest 8 (loadAlts k sreg (leBytes n hole.toNat) none all) 0 none (some id)

/-- A load trigger. A grey input goes before a bad dreg (R124); ls.o then takes the grey result (notes/assumptions/69.md). -/
def Work.load (w : Work) (e : TrigEnv) (k : LdKind) : Work :=
  let ops := w.operands e [.lsA]
  if ops.any fun as => decide (as.length > 1) then w.collapse e.slot (lowestGuard (e.g.term :: ops.flatMap termsOf))
  else if w.missing e [.lsA] then w.stop e.slot cMissingOperand
  else match ops with
    | [[a], [t]] =>
      let addr := a.word
      let dom := e.g.term
      let ea := (addr + t.word) % 2 ^ 57
      let gr := a.grey.or t.grey
      if bitAt addr 63 && !dom.isEmpty then
        w.collapse e.slot (lowestGuard (match (w.locate ea k.size false).2 with
          | some p => if t.void then [dom] else w.forwardTerms p ea k.size dom
          | none => [dom]))
      else match (w.loadDest e.col addr).or (if gr.isSome then some (.lsO e.col) else none) with
        | none => w.stop e.slot cBadOperand
        | some dest =>
          let sreg := match dest with | .s _ _ => true | _ => false
          let form := fun (w : Work) (gr : Option Cause) =>
            let (v, w) := w.openValue gr.isSome (8 * k.size)
            (w.consumePorts e [.lsA]).post e (e.col * 4 + 3) dest (LdKind.lat ea)
              (loadAlts k sreg (leBytes k.size v.toNat) gr ({ term := dom, void := t.void } :: voidForms e.g)) 0
          if t.void || gr.isSome then form w gr
          else match w.locate ea k.size false with
            | (_, some p) => w.loadFrom e k dest ea p
            | (st, none) =>
              let (w, st) := w.bankStops ea st
              match firstStop st with
              | none => w
              | some x => match x.greyCause with
                | some c => if dom.isEmpty then w.stopWith e.slot x else form w (some c)
                | none => w.stopWith e.slot x
    | _ => w

/-! ## Stores (R264) and held stores (R119) -/

/-- A held entry as it is formed: alignment, space and translation are checked now (R119, R295); its bank's cell is a matter of
the cycle in which it performs (R265). -/
def Work.heldEntry (w : Work) (e : TrigEnv) (n va : Nat) (data : Vec) (term : Term) (grey : Option Cause) :
    Except Stop HeldStore :=
  let h : HeldStore :=
    { scratch := decide (va < windowEnd), va := va, pa := 0, size := n, data := data, term := term, col := e.col,
      grey := grey, ready := w.now }
  let unplaced : HeldStore := if h.scratch then { h with pa := w.s0.windowKey w.x0.base va } else { h with placed := false }
  match w.locate va n true with
  | (_, some (.spad key _)) => .ok { h with pa := key }
  | (_, some (.global pa)) => .ok { h with pa := pa }
  | (st, none) => match firstStop (st.filter fun t => t.greyCause != some cOverrun) with
    | some (.walk v) => .error (.walk v)
    | some (.page _ _) => .ok { unplaced with absent := true }
    | some t => .ok { unplaced with grey := grey.or t.greyCause }
    | none => .ok unplaced

/-- Two stores to global memory may both write one byte: by physical addresses where both are known (R264). -/
def HeldStore.meets (a b : HeldStore) : Bool :=
  let k := fun (h : HeldStore) => if a.placed && b.placed then h.pa else h.va
  !a.scratch && !b.scratch && decide (k a < k b + b.size) && decide (k b < k a + a.size) && a.term.compatible b.term

/-- Note stores to global memory, and their collisions with those of lower slots (R264). -/
def Work.noteStores (w : Work) (slot : Nat) (hs : List HeldStore) : Work :=
  { w with
    gst := w.gst ++ hs.filter (!·.scratch)
    colls := if hs.any (fun h => w.gst.any h.meets) then w.colls ++ [slot] else w.colls }

/-- Add entries to the buffer (R119). -/
def Work.hold (w : Work) (e : TrigEnv) (n : Nat) (cs : List Combo) (terms : List Term) : Work :=
  let cs := cs.filter (!·.void)
  let made := cs.map fun c => match c.vals with
    | [a, t] => w.heldEntry e n (a.toNat % 2 ^ 57) t c.term c.grey
    | _ => w.heldEntry e n 0 0 c.term c.grey
  let walks := made.filterMap fun m => match m with | .error t => some t | .ok _ => none
  let hs := made.filterMap fun m => match m with | .ok h => some h | .error _ => none
  if cs.any (fun c => decide (c.term.length > 4)) || decide (w.x.held.length + cs.length > 16) then
    w.collapse e.slot (lowestGuard terms)
  else match walks with
    | t :: _ => w.stopWith e.slot t
    | [] => ((w.consumePorts e [.lsA]).noteStores e.slot hs).modX fun x => { x with held := x.held ++ hs }

/-- An unconditional store to address `ea` whose place is known. -/
def Work.storeTo (w : Work) (e : TrigEnv) (n ea : Nat) (data : Vec) (p : Where) : Work :=
  let bs := leBytes n data.toNat
  match p with
  | .spad key bank =>
    let (w, st) := w.useBank bank
    match firstStop st with
    | some t => w.stopWith e.slot t
    | none => let w := w.consumePorts e [.lsA]; { w with s := w.s.writeSpad key bs }
  | .global pa =>
    let q := (w.x.col e.col).storeQ
    if q.length ≥ 32 then w.stopWith e.slot (.yield (.storeOut e.col ((q.head?.map (·.seq)).getD 0)))
    else
      let w := (w.consumePorts e [.lsA]).noteStores e.slot
        [{ scratch := false, va := ea, pa := pa, size := n, data := data, term := [], col := e.col }]
      let (d, s) := w.s.delay
      let cxid := w.x0.cxid.toNat
      let entry : StoreEntry :=
        { pa := pa, data := bs, cxid := cxid, task := w.x0.task, seq := s.storeSeq, due := w.now + 1 + d, barrier := w.x0.relBarrier
          after := w.x0.acqBound }
      let s := { s.l1Store cxid pa bs with storeSeq := s.storeSeq + 1 }
      ({ w with s := s } : Work).modX fun x => x.modCol e.col fun y => { y with storeQ := y.storeQ ++ [entry] }

/-- A store trigger of `n` bytes. An unconditional one performs, whatever grey mark its operands have in a handler (R119, R201). -/
def Work.store (w : Work) (e : TrigEnv) (n : Nat) : Work :=
  let ops := w.operands e [.lsA]
  let isOpen := match e.g with | .opened _ _ => true | _ => false
  let terms := e.g.term :: ops.flatMap termsOf
  if w.missing e [.lsA] then
    if isOpen && decide ((combos e.g.term ops).length > 16) then w.collapse e.slot (lowestGuard terms)
    else w.stop e.slot cMissingOperand
  else if isOpen || ops.any fun as => as.any fun a => !a.term.isEmpty then w.hold e n (combos e.g.term ops) terms
  else match ops with
    | [[a], [t]] =>
      if a.void || t.void then w.consumePorts e [.lsA]
      else
        let ea := a.word % 2 ^ 57
        match w.locate ea n true with
        | (_, some p) =>
          if w.x.held.any (fun h => !(h.bytesIn p ea n).isEmpty) then w.hold e n (combos [] ops) terms
          else w.storeTo e n ea t.val p
        | (st, none) =>
          let (w, st) := w.bankStops ea st
          match firstStop st with
          | some x => w.stopWith e.slot x
          | none => w
    | _ => w

/-! ## Held stores whose page was absent (R295, R296) -/

/-- What the page of an absent held store turns out to be at its turn: denied by the pager, or as the tables give it now. -/
def State.heldAccess (s : State) (c va : Nat) : Access :=
  if (s.ctx c).walked.contains (va / 4096 * 2 + 1) then .denied else (s.translate (s.tenantOf c) va).access va false true

/-- A page wait or a pre-emption, in which held stores stay in place (R205, R294). -/
def Run.pausesHeld : Run → Bool
  | .pageWait _ _ _ _ _ => true
  | .preempted _ _ _ _ => true
  | .evicting _ _ _ _ _ _ _ => true
  | _ => false

/-- The oldest held store with an empty term whose page was absent, and, after the page wait that asked for it, is present or
refused (R295, R296). -/
def State.heldPage (s : State) (c : Nat) : Option (HeldStore × Access) :=
  match (s.ctx c).held with
  | [] => none
  | h :: _ =>
    if !(s.ctx c).run.pausesHeld && h.term.isEmpty && h.grey.isNone && h.absent && h.asked && decide (h.ready ≤ s.now) then
      match s.heldAccess c h.va with
      | .absent => none
      | a => some (h, a)
    else none

/-! ## Performing held stores (R120, R265) -/

/-- The task owns the cell of the bank that a held store writes: a bank beyond the kernel's width has none that it can book (R252,
R265). -/
def State.ownsHeld (s : State) (c : Nat) (h : HeldStore) : Bool :=
  decide (h.va / 65536 < 8 * ((s.boundTask c).map (·.width)).getD 4) && s.owns c (bankRes (s.ctx c).base h.va) s.now

/-- The oldest entry performs in this cycle, or marks its overrun; during a drain that is a further trap (R200). -/
def State.performHeld (s : State) (c : Nat) : State :=
  let x := s.ctx c
  match x.held with
  | [] => s
  | h :: hs =>
    if x.run.pausesHeld || !h.term.isEmpty || h.grey.isSome || h.absent || decide (s.now < h.ready) then s
    else
      let bs := leBytes h.size h.data.toNat
      if h.scratch then
        if s.ownsHeld c h then (s.writeSpad h.pa bs).modCtx c fun x => { x with held := hs }
        else if h.ovr then s
        else s.modCtx c fun x =>
          let y := { x with held := { h with ovr := true } :: hs }
          if x.run.quiet then y.drained else { y with pendO := some (15 + h.va / 65536) }
      else if (x.col h.col).storeQ.length ≥ 32 then s
      else
        let (d, s) := s.delay
        let cxid := x.cxid.toNat
        let entry : StoreEntry :=
          { pa := h.pa, data := bs, cxid := cxid, task := x.task, seq := s.storeSeq, due := s.now + 1 + d, barrier := x.relBarrier
            after := x.acqBound }
        let s := { s.l1Store cxid h.pa bs with storeSeq := s.storeSeq + 1 }
        s.modCtx c fun x => { (x.modCol h.col fun y => { y with storeQ := y.storeQ ++ [entry] }) with held := hs }

/-- An entry can perform now: the event of R120 is due. -/
def State.heldDue (s : State) (c : Nat) : Bool :=
  let x := s.ctx c
  match x.held with
  | [] => false
  | h :: _ =>
    !x.run.pausesHeld && h.term.isEmpty && h.grey.isNone && !h.absent && decide (h.ready ≤ s.now) &&
    (if h.scratch then s.ownsHeld c h || !h.ovr
     else decide ((x.col h.col).storeQ.length < 32))

end Sys2Proof.Machine
end

