-- ==== Sys2Proof/Machine/Matrix.lean ====
section
/-! DEFINITION. The matrix engine (spec/11_matrix.md R235-R249; spec/14_translation.md R302). -/

namespace Sys2Proof.Machine

/-! ## Engine commands in general (R78-R80) -/

/-- An engine command as its slot gives it: slot, kernel column, staging words after the bundle's writes. -/
structure EngEnv where
  slot : Nat
  col : Nat
  w0 : Nat
  w1 : Nat
  w2 : Nat
  w3 : Nat

/-- The next number on timeline counter `i`. -/
def Work.nextNum (w : Work) (i : Nat) : Nat := (w.x.timeline i).issued + 1

/-- Take the next number on counter `i` (R80). -/
def Work.takeNum (w : Work) (i : Nat) : Work := w.modX fun x => { x with tl := vmod x.tl i Timeline.next }

/-- A command takes its number and completes at once (R80). -/
def Work.takeDone (w : Work) (i : Nat) : Work :=
  let n := w.nextNum i
  let w := w.takeNum i
  { w with s := w.s.finishOp w.c i n }

/-- Bank cells an engine uses, as cycle and kernel bank, without repeats. -/
abbrev Cells := List (Nat × Nat)

/-- The first cell that is not the context's, or is used twice (R158, R253), as a kernel resource number. -/
def Work.badCell (w : Work) (cells : Cells) : Option Nat :=
  let b := w.x0.base
  (cells.find? fun x =>
    let r := 15 + 8 * b + x.2
    decide (8 * w.k.width ≤ x.2) || !w.s0.owns w.c r x.1 || w.s.occupied r x.1 || (x.1 == w.now && w.banks.contains r)).map
      (15 + ·.2)

/-- The cells are in use by the command from now on (R160, R253); a bank beyond the kernel's has none (R252). -/
def Work.useCells (w : Work) (cells : Cells) : Work :=
  let b := w.x0.base
  let cells := cells.filter fun x => decide (x.2 < 8 * w.k.width)
  let s := cells.foldl (fun s x => s.occupy w.c (15 + 8 * b + x.2) x.1 1) w.s
  { w with s := s, banks := (cells.filterMap fun x => if x.1 == w.now then some (15 + 8 * b + x.2) else none) ++ w.banks }

/-- The context owns resource `res` in each of `n` cycles from `a`. -/
def Work.ownsSpan (w : Work) (res a n : Nat) : Bool := (List.range n).all fun i => w.s0.owns w.c res (a + i)

/-- First scratchpad address beyond the logical core (R243). -/
def Work.padEnd (w : Work) : Nat := columnBytes * lcoreWidth w.s0.mode.toNat

/-- First address of the task's window beyond the logical core's scratchpad: the window begins at the base column (R252). -/
def Work.windowTop (w : Work) : Nat := w.padEnd - columnBytes * (w.x0.base % lcoreWidth w.s0.mode.toNat)

/-! ## Descriptors (R237-R239) -/

structure Desc where
  kind : Nat
  b : Nat
  cstr : Nat
  pstr : Nat
  kw : Nat
  base : Nat
  deriving DecidableEq, Repr

def descOf (w : Nat) : Desc :=
  { kind := fld w 60 3, b := fld w 56 4, cstr := fld w 44 12, pstr := fld w 32 12, kw := fld w 21 11, base := fld w 0 21 }

/-- The address of column `c`'s word in plane `m` (R237). -/
def Desc.addr (d : Desc) (c m : Nat) : Nat := d.base + 64 * d.cstr * c + 4 * d.pstr * m + 4 * d.kw

/-- Husk addresses of the first `n` columns; none for an integer kind (R239). -/
def Desc.husks (d : Desc) (h n : Nat) : List Nat :=
  if d.kind < 2 then [] else (List.range n).map fun c => 2 * fld h 0 20 + 2 * (c * fld h 20 12 + d.kw)

/-- A husk descriptor's reserved bits are clear (R239). -/
def Desc.huskOk (d : Desc) (h : Nat) : Bool := if d.kind < 2 then h / 2 ^ 8 == 0 else h / 2 ^ 32 == 0

/-- The width field a husk must hold (R239). -/
def huskWidth (kind bits : Nat) : Nat := if kind == 2 then (bits - 4) / 2 else 3

/-- Planes of A in reading order (R246); none for a kind, width or plane count that is not allowed. -/
def aPlanesOf (d : Desc) (p : Nat) : Option (List Nat) :=
  let ok := if d.kind < 2 then decide (1 ≤ d.b) && decide (d.b ≤ 8) else d.kind == 2 && (d.b == 4 || d.b == 6 || d.b == 8) && decide (3 ≤ p)
  if ok && decide (p ≤ d.b) then some ((List.range p).map fun m => d.b - 1 - m) else none

/-- Planes of B in reading order for field width `p` (R245). -/
def bPlanesOf (kind p : Nat) : Option (List Nat) :=
  if kind < 2 then (if 1 ≤ p ∧ p ≤ 8 then some ((List.range p).map fun m => p - 1 - m) else none)
  else if kind == 2 then
    (if p == 2 || p == 4 || p == 6 then some ((List.range (p + 2)).map fun m => p + 1 - m) else none)
  else if (kind == 3 || kind == 4) && p == 7 then
    some (15 :: 14 :: (List.range 7).map fun m => 7 * (kind - 3) + 6 - m)
  else none

/-- Element width of a B operand as its husk must say it. -/
def bBits (kind p : Nat) : Nat := if kind == 2 then p + 2 else if kind < 2 then p else 16

/-- Words of one plane: addresses. -/
def Desc.words (d : Desc) (n m : Nat) : List Nat := (List.range n).map fun c => d.addr c m

/-- Bank cells of reading planes one per cycle from `a` on. -/
def Desc.cells (d : Desc) (n : Nat) (planes : List Nat) (a : Nat) : Cells :=
  planes.zipIdx.flatMap fun p => ((d.words n p.1).map fun x => (a + p.2, x / 65536)).eraseDups

/-- The addresses an operand reads all lie in the logical core's scratchpad. -/
def Work.inPad (w : Work) (d : Desc) (n : Nat) (planes husks : List Nat) : Bool :=
  (planes.all fun m => (d.words n m).all fun a => decide (a + 4 ≤ w.padEnd)) && husks.all fun a => decide (a + 2 ≤ w.padEnd)

/-! ## Reading (R249, R302) -/

/-- Bytes of the window as they stood at the start of the cycle, and whether one of them is poisoned. -/
def State.engRead (s : State) (wb a n : Nat) : Nat × Bool :=
  let key := s.windowKey wb a
  (memNat s.spad0 key n, isPoisoned s.poisonS0 key n)

/-- A row's or column's exponent, gap and NaN mark from its husk; none on a bad husk (R239, R240). A poisoned husk is not
checked: its step's elements take the NaN mark (R302). -/
def State.readHusk (s : State) (wb want a : Nat) : Option (Int × Nat × Bool) :=
  let (h, bad) := s.engRead wb a 2
  if bad then some (0, 0, false)
  else if fld h 4 4 != 0 || fld h 2 2 != want then none
  else some ((fld h 8 8 : Int) - sxGap h - 127, sxGap h, fld h 8 8 == 0xFF)

/-- Exponents of `n` columns: from husks, or the descriptor's xs. -/
def State.columnExps (s : State) (wb : Nat) (d : Desc) (h n want : Nat) : Except Nat (List (Int × Nat × Bool)) :=
  if d.kind < 2 then .ok (List.replicate n (toSigned 8 h, 0, false))
  else (d.husks h n).mapM fun a => match s.readHusk wb want a with
    | some x => .ok x
    | none => .error a

/-- One plane of `n` columns, as words, and whether a byte of it is poisoned. -/
def State.readPlane (s : State) (wb : Nat) (d : Desc) (n m : Nat) : List Nat × Bool :=
  let rs := (d.words n m).map fun a => s.engRead wb a 4
  (rs.map (·.1), rs.any (·.2))

/-- Poisoned pieces of `n` bytes are logged as read by the context (R303). -/
def State.logPlane (s : State) (m : MCmd) (n : Nat) (as : List Nat) : State :=
  as.foldl (fun s a => s.logPoison s.poisonS0 m.ctx m.tenant (s.windowKey m.wb a) n 3) s

/-- One of the husks at `as` is poisoned. -/
def State.huskPoison (s : State) (wb : Nat) (as : List Nat) : Bool := as.any fun a => (s.engRead wb a 2).2

def MCmd.aPlaneList (m : MCmd) : List Nat := (aPlanesOf (descOf m.aDesc) m.p).getD []

def MCmd.bPlaneList (m : MCmd) : List Nat := (bPlanesOf (descOf m.bDesc).kind m.bw).getD []

/-- The plane of B and of A that the command reads in cycle `x`. -/
def MCmd.bPlaneAt (m : MCmd) (x : Nat) : Option Nat := if x < m.c + m.load then m.bPlaneList[x - m.c]? else none

def MCmd.aPlaneAt (m : MCmd) (x : Nat) : Option Nat := if m.c + m.load ≤ x then m.aPlaneList[x - (m.c + m.load)]? else none

/-- The reads of the command in the present cycle. -/
def State.mtxRead (s : State) (m : MCmd) : MCmd × State :=
  let (m, s) := match m.bPlaneAt s.now with
    | none => (m, s)
    | some k =>
      let d := descOf m.bDesc
      let r := s.readPlane m.wb d 32 k
      ({ m with bPlanes := m.bPlanes ++ [r.1], bPoison := m.bPoison || r.2 },
        if r.2 then s.logPlane m 4 (d.words 32 k) else s)
  match m.aPlaneAt s.now with
  | none => (m, s)
  | some k =>
    let d := descOf m.aDesc
    let r := s.readPlane m.wb d (m.mm1 + 1) k
    ({ m with aPlanes := m.aPlanes ++ [r.1], aPoison := m.aPoison || r.2 },
      if r.2 then s.logPlane m 4 (d.words (m.mm1 + 1) k) else s)

/-! ## Values (R240) -/

/-- Element `k` of column `c` from plane words in reading order. -/
def elemBits (planes : List Nat) (ws : List (List Nat)) (c k : Nat) : Nat :=
  ((planes.zip ws).map fun p => (bitAt (p.2.getD c 0) k).toNat * 2 ^ p.1).foldl (· + ·) 0

/-- The integer of a sign, a magnitude and a selector with gap `g`. -/
def sxInt (neg sel : Bool) (mag g : Nat) : Int :=
  let v : Int := (mag * (if sel then 1 else 2 ^ g) : Nat)
  if neg then -v else v

/-- q of an A element of `n` bits. -/
def aInt (kind n g x : Nat) : Int :=
  match kind with
  | 0 => toSigned n x
  | 1 => (x : Int)
  | _ => sxInt (bitAt x (n - 2)) (bitAt x (n - 1)) (fld x 0 (n - 2)) g

/-- q of a B buffer's element (k, j). -/
def BBuf.int (b : BBuf) (k j : Nat) : Int :=
  let i := 32 * k + j
  let f := (vget b.fld i 0).toNat
  let g := vget b.gap j 0
  match b.kind with
  | 0 => toSigned b.width f
  | 1 => ((f : Nat) : Int)
  | 4 => sxInt (b.sgn.getLsbD i) (b.sel.getLsbD i) (f * 2 ^ 7) g
  | _ => sxInt (b.sgn.getLsbD i) (b.sel.getLsbD i) f g

def vgen {α : Type} (n : Nat) (f : Nat → α) : Vector α n := ⟨((List.range n).map f).toArray, by simp⟩

/-- The B buffer a load phase gives (R245). -/
def MCmd.buffer (m : MCmd) : BBuf :=
  let d := descOf m.bDesc
  let ps := m.bPlaneList
  let el := fun k j => elemBits ps m.bPlanes j k
  let husk := fun j => m.bHusk.getD j (0, 0, false)
  let lo := if d.kind == 4 then 7 else 0
  let bits := bBits d.kind m.bw
  { fld := vgen 1024 fun i => BitVec.ofNat 8 (fld (el (i / 32) (i % 32)) lo m.bw)
    sgn := BitVec.ofNat 1024 (ofBits 1024 fun i => decide (2 ≤ d.kind) && bitAt (el (i / 32) (i % 32)) (bits - 2))
    sel := BitVec.ofNat 1024 (ofBits 1024 fun i => decide (2 ≤ d.kind) && bitAt (el (i / 32) (i % 32)) (bits - 1))
    kind := d.kind, width := m.bw
    gap := vgen 32 fun j => (husk j).2.1
    eb := vgen 32 fun j => (husk j).1
    nan := BitVec.ofNat 32 (ofBits 32 fun j => m.bPoison || (husk j).2.2) }

/-! ## The array step (R241) -/

/-- An exact kept value, 0 when none. -/
def Tile.keptAt (t : Tile) (i : Nat) : Int × Int := ((t.kept.find? (·.1 == i)).map (·.2)).getD (0, 0)

/-- The sum of two exact values. -/
def addExact (a b : Int × Int) : Int × Int :=
  if a.1 == 0 then b
  else if b.1 == 0 then a
  else
    let e := min a.2 b.2
    (a.1 * 2 ^ (a.2 - e).toNat + b.1 * 2 ^ (b.2 - e).toNat, e)

/-- acc + kept, rounded once to nearest even. -/
def accumulate (acc : BitVec 32) (k : Int × Int) : BitVec 32 :=
  BitVec.ofNat 32 (fAddV f32 .rne (f32.read acc.toNat) (.fin (decide (k.1 < 0)) k.1.natAbs k.2)).1

/-- The tile after the step of R241. `nan` says whether an element becomes a NaN, `sum` gives S and its exponent. -/
def Tile.step (t : Tile) (ch : Bool) (nan : Nat → Bool) (sum : Nat → Int × Int) : Tile :=
  let kept := (List.range 1024).filterMap fun i =>
    let v := addExact (t.keptAt i) (sum i)
    if v.1 == 0 then none else some (i, v)
  let marks := BitVec.ofNat 1024 (ofBits 1024 fun i => t.nan.getLsbD i || nan i)
  if ch then { t with kept := kept, nan := marks }
  else
    { acc := vgen 1024 fun i =>
        let a := vget t.acc i 0
        if marks.getLsbD i then BitVec.ofNat 32 f32.canon
        else match kept.find? (·.1 == i) with
          | some k => accumulate a k.2
          | none => a
      kept := [], nan := 0 }

/-- The step of a command into its tile, with the buffer it found. Poisoned operand bytes or husks give every element of the
step the NaN mark (R302). -/
def MCmd.compute (m : MCmd) (b : BBuf) (t : Tile) : Tile :=
  let d := descOf m.aDesc
  let ps := m.aPlaneList
  let husk := fun i => m.aHusk.getD i (0, 0, false)
  let inside := fun i => decide (i / 32 ≤ m.mm1) && decide (i % 32 ≤ m.nm1)
  let bad := fun i => (husk (i / 32)).2.2 || b.nan.getLsbD (i % 32) || m.aPoison
  t.step m.ch (fun i => inside i && bad i) fun i =>
    if !inside i || bad i then (0, 0)
    else
      let g := (husk (i / 32)).2.1
      let s := ((List.range (m.km1 + 1)).map fun k =>
        aInt d.kind d.b g (elemBits ps m.aPlanes (i / 32) k) * b.int k (i % 32)).foldl (· + ·) 0
      (s, (husk (i / 32)).1 + vget b.eb (i % 32) 0)

/-! ## Busy state and ownership (R236, R242, R244) -/

def MCmd.completes (m : MCmd) : Nat :=
  match m.op with
  | .ldb => m.c + m.load
  | .step => m.c + m.p + 3
  | .run => m.c + m.load + m.p + 3
  | .zero => m.c + 1
  | .st => m.c + 32

/-- The load path is busy with the command in cycle `x`. -/
def MCmd.loading (m : MCmd) (x : Nat) : Bool :=
  decide (m.c ≤ x) && (match m.op with
    | .step => false
    | .zero => decide (x ≤ m.c)
    | .st => decide (x < m.c + 32)
    | _ => decide (x < m.c + m.load))

/-- The array path is busy with the command in cycle `x`. -/
def MCmd.stepping (m : MCmd) (x : Nat) : Bool :=
  (m.op == .step || m.op == .run) && decide (m.c + m.load ≤ x) && decide (x < m.c + m.load + m.p)

def Strip.loadBusy (t : Strip) (x : Nat) : Bool := t.cmds.any (·.loading x)

def Strip.arrayBusy (t : Strip) (x : Nat) : Bool := t.cmds.any (·.stepping x)

/-- Buffer `b` is loading. -/
def Strip.bufL (t : Strip) (b x : Nat) : Bool := t.cmds.any fun m => m.buf == b && (m.op == .ldb || m.op == .run) && m.loading x

/-- Buffer `b` is in use. -/
def Strip.bufU (t : Strip) (b x : Nat) : Bool := t.cmds.any fun m => m.buf == b && m.stepping x

/-- Tile `k` is being accumulated. -/
def Strip.tileW (t : Strip) (k x : Nat) : Bool :=
  t.chain == some k || t.cmds.any fun m => m.tile == k && (m.op == .step || m.op == .run) && decide (x < m.completes)

/-- A row of mx.st that a release fence has held back (R279). -/
def MCmd.late (m : MCmd) (now : Nat) : Bool := m.op == .st && decide (m.rows < 32) && decide (m.c + m.rows < now)

/-- Tile `k` is held exclusively in cycle `x`, as known now. -/
def Strip.tileX (t : Strip) (now k x : Nat) : Bool :=
  (t.cmds.any fun m => m.tile == k && (m.op == .zero || m.op == .st) && (decide (x < m.completes) || m.late now)) ||
    t.drains.any fun d => d.tile == k && (match d.ends with | some e => decide (x < e) | none => true)

/-- The physical strip of a kernel column. -/
def Work.stripNo (w : Work) (col : Nat) : Nat := w.x0.base + col

def State.strip (s : State) (j : Nat) : Strip := vget s.strips j Strip.init

def State.modStrip (s : State) (j : Nat) (f : Strip → Strip) : State := { s with strips := vmod s.strips j f }

/-- A strip as it is cleared for a new owner (R236): commands in progress go on. -/
def Strip.cleared (t : Strip) (c : Option Nat) : Strip := { Strip.init with owner := c, cmds := t.cmds, drains := t.drains }

/-- The strip of a kernel column as the context finds it: what a former owner left in it is gone (R236). -/
def Work.stripOf (w : Work) (col : Nat) : Strip :=
  let t := w.s.strip (w.stripNo col)
  if t.owner == some w.c then t else t.cleared t.owner

/-- The context has lost the strip (R236). -/
def Work.lostStrip (w : Work) (col : Nat) : Bool :=
  (w.stripOf col).owner != some w.c && w.x.lost.getLsbD (w.stripNo col)

/-- Context `c` becomes the owner of strip `j`, with its clearing (R236). -/
def State.claimStrip (s : State) (c j : Nat) : State :=
  let t := s.strip j
  if t.owner == some c then s
  else
    let bit := BitVec.twoPow 4 j
    let s := match t.owner with
      | some o => s.modCtx o fun x => { x with lost := x.lost ||| bit }
      | none => s
    let s := s.modCtx c fun x => { x with lost := x.lost &&& ~~~bit }
    s.modStrip j fun t => t.cleared (some c)

/-! ## Issue (R243) -/

/-- The checks after bad-operand, in the order of R243, of a command that holds the strip for `n` cycles. -/
def Work.mtxChecks (w : Work) (e : EngEnv) (retake conflict : Bool) (n : Nat) (cells : Cells) (husk : Option Nat)
    (bases : List Nat) : Option Stop :=
  let own : Stop := .trap cOverrun (4 + e.col)
  if w.dry then none
  else if (!retake && w.lostStrip e.col) || conflict || !w.ownsSpan (4 + w.stripNo e.col) w.now n then some own
  else match w.badCell cells with
    | some r => some (.trap cOverrun r)
    | none => match husk with
      | some a => some (.trap cBadHusk a)
      | none => (bases.find? fun a => a % 64 != 0).map fun a => .trap cAlignment a

/-- The command starts: it is numbered on the counter of its kernel column (notes/assumptions/80.md), the strip is claimed, its cells
are in use, its husks (those of A, those of B) and its first planes are read. -/
def Work.mtxStart (w : Work) (col : Nat) (cells : Cells) (ah bh : List Nat) (m : MCmd) : Work :=
  let j := w.stripNo col
  let w := w.takeNum col
  let w := (w.useCells cells)
  let s := (w.s.occupy w.c (4 + j) w.now (m.completes - w.now)).claimStrip w.c j
  let m := { m with tenant := w.s0.tenantOf w.c, aPoison := s.huskPoison m.wb ah, bPoison := s.huskPoison m.wb bh }
  let s := if m.aPoison || m.bPoison then s.logPlane m 2 (ah ++ bh) else s
  let (m, s) := s.mtxRead m
  { w with s := s.modStrip j fun t => { t with
      cmds := t.cmds ++ [m]
      chain := if (m.op == .step || m.op == .run) && m.ch then some m.tile else t.chain } }

/-- The strip and cells of a command of `n` cycles whose planes its staging leaves open (R159, notes/assumptions/55.md). -/
def Work.mtxHold (w : Work) (e : EngEnv) (n : Nat) : Work :=
  if w.dry then { w with s := w.s.occupy w.c (4 + w.stripNo e.col) w.now n } else w.stop e.slot cBadOperand

/-- mx.ldb (R245). -/
def Work.mxLdb (w : Work) (e : EngEnv) (p : Nat) : Work :=
  let d := descOf e.w0
  let buf := e.w2 % 2
  match bPlanesOf d.kind p with
  | none => w.mtxHold e p
  | some planes =>
    if !w.dry && (bitAt e.w0 63 || !d.huskOk e.w1 || e.w2 / 2 != 0 || !w.inPad d 32 planes (d.husks e.w1 32)) then
      w.stop e.slot cBadOperand
    else
      let t := w.stripOf e.col
      let cells := (((d.husks e.w1 32).map fun a => (w.now, a / 65536)) ++ d.cells 32 planes w.now).eraseDups
      let exps := w.s.columnExps w.x0.base d e.w1 32 (huskWidth d.kind (bBits d.kind p))
      let conflict := t.loadBusy w.now || t.bufL buf w.now || t.bufU buf w.now
      let bad := match exps with | .error a => some a | .ok _ => none
      match w.mtxChecks e true conflict planes.length cells bad [d.base] with
      | some x => w.stopWith e.slot x
      | none =>
        let hs := exps.toOption.getD []
        w.mtxStart e.col cells [] (d.husks e.w1 32)
          { op := .ldb, ctx := w.c, num := w.nextNum e.col, c := w.now, wb := w.x0.base, load := planes.length, buf := buf,
            bDesc := e.w0, bw := p, bHusk := hs }

/-- mx.step and mx.run: an array step, after a load phase when `ld` gives B's husk and operand descriptors. -/
def Work.mxArray (w : Work) (e : EngEnv) (p ctl : Nat) (ld : Option (Nat × Nat)) : Work :=
  let d := descOf e.w0
  let tile := fld ctl 0 3
  let buf := fld ctl 3 1
  let rows := fld ctl 9 5 + 1
  let load : Option (Desc × Nat × List Nat) := match ld with
    | none => some (d, 0, [])
    | some (h, bw) => let b := descOf bw
      (bPlanesOf b.kind b.b).bind fun ps =>
        if !w.dry && (bitAt bw 63 || !b.huskOk h || !w.inPad b 32 ps (b.husks h 32)) then none else some (b, h, ps)
  match aPlanesOf d p, load with
  | some planes, some (b, bh, bplanes) =>
    let t := w.stripOf e.col
    let other := match t.chain with | some c => c != tile | none => false
    if !w.dry && (bitAt e.w0 63 || !d.huskOk e.w1 || !w.inPad d rows planes (d.husks e.w1 rows) || other) then
      w.stop e.slot cBadOperand
    else
      let start := w.now + bplanes.length
      let ah := d.husks e.w1 rows
      let bhs := if ld.isSome then b.husks bh 32 else []
      let cells := (((ah ++ bhs).map fun a => (w.now, a / 65536)) ++
        (if ld.isSome then b.cells 32 bplanes w.now else []) ++ d.cells rows planes start).eraseDups
      let aExp := w.s.columnExps w.x0.base d e.w1 rows (huskWidth d.kind d.b)
      let bExp := if ld.isSome then w.s.columnExps w.x0.base b bh 32 (huskWidth b.kind (bBits b.kind b.b)) else .ok []
      let conflict := t.arrayBusy start || t.tileX w.now tile start ||
        (if ld.isSome then t.loadBusy w.now || t.bufL buf w.now || t.bufU buf w.now else t.bufL buf w.now)
      let bad := match aExp, bExp with
        | _, .error a => some a
        | .error a, _ => some a
        | _, _ => none
      match w.mtxChecks e false conflict (bplanes.length + p + 3) cells bad
          (if ld.isSome then [b.base, d.base] else [d.base]) with
      | some x => w.stopWith e.slot x
      | none =>
        w.mtxStart e.col cells ah bhs
          { op := if ld.isSome then .run else .step, ctx := w.c, num := w.nextNum e.col, c := w.now, wb := w.x0.base,
            load := bplanes.length, p := p, tile := tile, buf := buf, ch := bitAt ctl 19, nm1 := fld ctl 14 5,
            mm1 := fld ctl 9 5, km1 := fld ctl 4 5, aDesc := e.w0, bDesc := (ld.map (·.2)).getD 0, bw := b.b,
            aHusk := aExp.toOption.getD [], bHusk := bExp.toOption.getD []
            snap := if ld.isSome then none else some (vget t.bufs buf BBuf.init) }
  | _, _ => w.mtxHold e (((load.map (·.2.2)).getD []).length + p + 3)

def Work.mxStep (w : Work) (e : EngEnv) (p : Nat) : Work :=
  if !w.dry && e.w2 / 2 ^ 20 != 0 then w.stop e.slot cBadOperand else w.mxArray e p e.w2 none

def Work.mxRun (w : Work) (e : EngEnv) (p : Nat) : Work :=
  if !w.dry && fld e.w2 20 12 != 0 then w.stop e.slot cBadOperand
  else w.mxArray e p (fld e.w2 0 20) (some (fld e.w2 32 32, e.w3))

def Work.mxZero (w : Work) (e : EngEnv) (p : Nat) : Work :=
  let t := w.stripOf e.col
  match w.mtxChecks e true (t.loadBusy w.now || t.tileW p w.now || t.tileX w.now p w.now) 1 [] none [] with
  | some x => w.stopWith e.slot x
  | none => w.mtxStart e.col [] [] [] { op := .zero, ctx := w.c, num := w.nextNum e.col, c := w.now, wb := w.x0.base, tile := p }

def Work.mxSt (w : Work) (e : EngEnv) (p : Nat) : Work :=
  let base := fld e.w0 0 21
  let rstr := fld e.w0 21 12
  let row := fun i => base + 64 * rstr * i
  if !w.dry && (e.w0 / 2 ^ 33 != 0 || rstr < 2 || decide (w.padEnd < row 31 + 128)) then w.stop e.slot cBadOperand
  else
    let t := w.stripOf e.col
    let cells : Cells := (List.range 32).flatMap fun i => [(w.now + i, row i / 65536), (w.now + i, (row i + 127) / 65536)].eraseDups
    match w.mtxChecks e false (t.loadBusy w.now || t.tileW p w.now || t.tileX w.now p w.now) 32 cells none [base] with
    | some x => w.stopWith e.slot x
    | none =>
      w.mtxStart e.col cells [] []
        { op := .st, ctx := w.c, num := w.nextNum e.col, c := w.now, wb := w.x0.base, tile := p, base := base, rstr := rstr,
          bar := vget w.x0.relSp 0 0 }

/-! ## Events -/

/-- End of a load phase (R245): due in the cycle after it. -/
def MCmd.loadDue (m : MCmd) (now : Nat) : Bool :=
  (m.op == .ldb || m.op == .run) && !m.loaded && decide (m.c + m.load ≤ now)

def MCmd.stepDue (m : MCmd) (now : Nat) : Bool :=
  (m.op == .step || m.op == .run) && !m.stepped && decide (m.completes ≤ now)

def MCmd.rowDue (m : MCmd) (now : Nat) : Bool := m.op == .st && decide (m.rows < 32) && decide (m.c + m.rows ≤ now)

def MCmd.doneDue (m : MCmd) (now : Nat) : Bool :=
  decide (m.completes ≤ now) && !m.loadDue now && !m.stepDue now && (m.op != .st || m.rows == 32)

/-- Change command `k` of a strip. -/
def Strip.setCmd (t : Strip) (k : Nat) (f : MCmd → MCmd) : Strip := { t with cmds := modifyAt t.cmds k f }

/-- The first command of strip `j` that meets `p`, with its place. -/
def State.mtxFind (s : State) (j : Nat) (p : MCmd → Bool) : Option (MCmd × Nat) := (s.strip j).cmds.zipIdx.find? fun m => p m.1

/-- The buffer takes what the load phase read. -/
def State.mtxLoaded (s : State) (j : Nat) : State :=
  match s.mtxFind j (·.loadDue s.now) with
  | none => s
  | some (m, k) =>
    let b := m.buffer
    s.modStrip j fun t => { t.setCmd k (fun m => { m with loaded := true, snap := some b }) with bufs := vset t.bufs m.buf b }

/-- The step's sums enter the tile; a step with ch = 0 ends a run of chained steps, unless one with ch = 1 into the tile has
still to complete (R242). -/
def State.mtxStepped (s : State) (j : Nat) : State :=
  match s.mtxFind j (·.stepDue s.now) with
  | none => s
  | some (m, k) =>
    s.modStrip j fun t => { t.setCmd k (fun m => { m with stepped := true }) with
      tiles := vmod t.tiles m.tile (m.compute (m.snap.getD BBuf.init))
      chain := if !m.ch && t.owner == some m.ctx && t.chain == some m.tile && !(t.cmds.any fun o =>
          (o.op == .step || o.op == .run) && o.tile == m.tile && o.ch && !o.stepped) then none else t.chain }

/-- Stores of the core with a lower number than `bound`, under `cxid` or released by their context, had all performed before this
cycle (R279, notes/assumptions/85.md). -/
def State.barrierDone (s : State) (cxid bound : Nat) : Bool :=
  s.queued0.all fun e => (e.1 != cxid && !e.2.2) || decide (bound ≤ e.2.1)

/-- A row of mx.st is due, and nothing that a release fence put before it is left. -/
def State.rowMay (s : State) (m : MCmd) : Bool := m.rowDue s.now && s.barrierDone (s.ctx m.ctx).cxid.toNat m.bar

/-- One row of mx.st. -/
def State.mtxRow (s : State) (j : Nat) : State :=
  match s.mtxFind j s.rowMay with
  | none => s
  | some (m, k) =>
    let t := vget (s.strip j).tiles m.tile Tile.init
    let bs := (List.range 32).flatMap fun e => leBytes 4 (vget t.acc (32 * m.rows + e) 0).toNat
    (s.writeSpad (s.windowKey m.wb (m.base + 64 * m.rstr * m.rows)) bs).modStrip j
      fun t => t.setCmd k fun m => { m with rows := m.rows + 1 }

/-- A command completes (R243, R248). -/
def State.mtxDone (s : State) (j : Nat) : State :=
  match s.mtxFind j (·.doneDue s.now) with
  | none => s
  | some (m, k) =>
    let s := s.modStrip j fun t => { t with
      cmds := t.cmds.eraseIdx k
      tiles := if m.op == .zero then vset t.tiles m.tile Tile.init else t.tiles }
    s.finishOp m.ctx (j - m.wb) m.num

/-- Every strip's reads in a new cycle. -/
def State.mtxCycle (s : State) : State :=
  (List.range 4).foldl (fun s j =>
    (List.range (s.strip j).cmds.length).foldl (fun s k =>
      match (s.strip j).cmds[k]? with
      | none => s
      | some m => let r := s.mtxRead m; r.2.modStrip j fun t => t.setCmd k fun _ => r.1) s) s

end Sys2Proof.Machine
end

