-- ==== Sys2Proof/Machine/Copy.lean ====
section
/-! DEFINITION. The copy engine (spec/15_copy.md R305-R323; spec/01_device.md R26-R28). -/

namespace Sys2Proof.Machine

/-! ## Scopes and releases that a command carries (R278, R322) -/

/-- Scope index `n` may not be used now (R273, R278). -/
def Ctx.staleScope (x : Ctx) (n : Nat) : Bool :=
  if n == 0 || n == 15 then false else let e := vget x.scopes n ({} : ScopeEntry); !e.val || e.chg

/-- What R116 holds a fence, a drain or a task op for: the guard that blocks, when one does. -/
def Work.unresolved (w : Work) : Option (Option Nat) :=
  match w.x0.lowestOpen with
  | some g => some (some g)
  | none =>
    if !w.x0.held.isEmpty then some (match w.x0.held with | h :: _ => lowestGuard [h.term] | [] => none)
    else if !w.x0.parked.isEmpty then some none
    else none

/-- A collapse point of an ordered op (R116). -/
def Work.orderedCollapse (w : Work) (slot : Nat) : Work :=
  match w.unresolved with
  | some g => w.collapse slot g
  | none => w

/-- A fence waits for the context's outstanding fills (R279). -/
def Work.fillWait (w : Work) (slot : Nat) : Work :=
  if w.x0.fills.isEmpty then w else { w with empties := w.empties ++ [(slot, false, .allFills)] }

/-! ## Arrival words (R26, R27) -/

def arriveWord (w b : Nat) : Nat :=
  let target := fld w 0 40
  let count := fld w 40 40 + b
  let hit := target != 0 && decide (target ≤ count)
  target + (if hit then count - target else count) % 2 ^ 40 * 2 ^ 40 + (fld w 80 32 + hit.toNat) % 2 ^ 32 * 2 ^ 80 +
    (bitAt w 112 || (hit && decide (target < count))).toNat * 2 ^ 112 + fld w 113 15 * 2 ^ 113

/-- A landing of `b` bytes is counted on the word at `key`. -/
def State.arrive (s : State) (key b : Nat) : State :=
  { s with spad := memWrite s.spad key (leBytes 16 (arriveWord (memNat s.spad key 16) b)) }

/-! ## Translated bytes (R314) -/

/-- Why a piece's address fails: a unit that the access needs is not ready (R403), the page is absent, the access is denied. -/
inductive XFail where
  | unready (va : Nat)
  | absent (va : Nat) (wr : Bool)
  | denied (va : Nat) (poison : Bool)
  deriving DecidableEq, Repr

/-- Translate `n` bytes page by page. -/
def State.runs (s : State) (tenant : Nat) (wr : Bool) : Nat → Nat → Nat → Except XFail (List (Place × Nat))
  | 0, _, _ => .ok []
  | fuel + 1, va, n =>
    if n == 0 then .ok []
    else if !s.mayTranslate tenant va then .error (.unready va)
    else
      let k := min n (4096 - va % 4096)
      match (s.translate tenant va).access va (!wr) wr with
      | .absent => .error (.absent va wr)
      | .denied => .error (.denied va false)
      | .poisoned => .error (.denied va true)
      | .ok p =>
        if wr && p.space == 0 && s.headerHit tenant va k then .error (.denied va false)
        else (State.runs s tenant wr fuel ((va + k) % 2 ^ 57) (n - k)).map ((p, k) :: ·)

def Place.at_ (p : Place) : Space × Nat :=
  match p.space with
  | 0 => (.global, p.pa)
  | 1 => (.peer p.dev, p.pa)
  | _ => (.host, p.pa)

/-- Key of a byte of another device. -/
def peerKey (dev pa : Nat) : Nat := dev * 2 ^ 52 + pa

/-- Bytes at a home as an engine operation reads them, and whether a granule is poisoned. -/
def State.homeRead (s : State) (p : Place) (n : Nat) : List Byte × Bool :=
  match p.at_ with
  | (.global, a) => (s.readGlobal a n, isPoisoned s.poisonG a n)
  | (.peer d, a) => (memRead s.peerMem (peerKey d a) n, isPoisoned s.poisonP (peerKey d a) n)
  | (_, a) => (memRead s.hostMem a n, false)

/-- Accesses at homes may perform: their units are ready (R403). -/
def State.runsUp (s : State) (rs : List (Place × Nat)) : Bool := rs.all fun r => r.1.space != 0 || s.spanReady r.1.pa r.2

/-- Reads of an engine operation of context `c` at homes may perform: their units are ready, and the stores to their bytes that go
before them have performed (R282). -/
def State.runsReady (s : State) (c stamp acq : Nat) (rs : List (Place × Nat)) : Bool :=
  s.runsUp rs && rs.all fun r => r.1.space != 0 || !(s.storesBefore c stamp acq).any (·.meets r.1.pa r.2)

/-- The operation that writes: context, timeline counter, number (R24). -/
structure Writer where
  ctx : Nat
  counter : Nat
  num : Nat
  deriving DecidableEq, Repr

/-- A global range is noted as written or read at its home by the operation, for the wait that covers it: that makes the L1 lines of
the range invalid, so that no later hit there returns an older value (R270, R283, notes/assumptions/22.md). -/
def State.noteWritten (s : State) (o : Writer) (a n : Nat) : State :=
  s.modCtx o.ctx fun x =>
    { x with wrote := x.wrote ++ ((linesOf a n).map fun l => (o.counter, o.num, l)).filter (!x.wrote.contains ·) }

/-- A part of a landing is written, under the cxid of the context that issued it (R261); poisoned source bytes poison every
granule written (R316). -/
def State.putPart (s : State) (who : Option Writer) (poison : Bool) (p : Space × Nat × List Byte) : State :=
  let add := fun (ps : List Nat) (a : Nat) => if poison then ps ++ (granules a p.2.2.length).filter (!ps.contains ·) else ps
  match p.1 with
  | .scratch _ => let s := s.writeSpad p.2.1 p.2.2; { s with poisonS := add s.poisonS p.2.1 }
  | .global =>
    let s := s.writeGlobal p.2.1 p.2.2 (who.map fun o => (s.ctx o.ctx).cxid.toNat)
    let s := ({ s with poisonG := add s.poisonG p.2.1 } : State)
    match who with
    | some o => s.noteWritten o p.2.1 p.2.2.length
    | none => s
  | .peer d =>
    let a := peerKey d p.2.1
    { s with peerMem := memWrite s.peerMem a p.2.2, poisonP := add (clearPoison s.poisonP a p.2.2.length) a }
  | .host => { s with hostMem := memWrite s.hostMem p.2.1 p.2.2 }

/-- Granules of a space become poisoned. -/
def State.markPoison (s : State) (sp : Space) (gs : List Nat) : State :=
  let add := fun (ps : List Nat) => ps ++ gs.filter (!ps.contains ·)
  match sp with
  | .scratch _ => { s with poisonS := add s.poisonS }
  | .global => { s with poisonG := add s.poisonG }
  | .peer _ => { s with poisonP := add s.poisonP }
  | .host => s

/-- The links that may carry packets to a device (R389). -/
def State.routeMask (s : State) (dev : Nat) : BitVec 12 := ((s.routes.find? (·.1 == dev)).map (·.2)).getD 0

/-- A link of the mask is up. -/
def State.maskUp (s : State) (mask : BitVec 12) : Bool := (List.range 12).any fun l => mask.getLsbD l && (vget s.links l {}).up

/-- A packet that these links may carry can travel (R389, R404). -/
def State.sendable (s : State) (mask : BitVec 12) : Bool := s.platform.dlock && s.maskUp mask

/-! ## Command blocks and staging (R306-R309, R318) -/

/-- The tenant of a column of a core; none where it is not assigned (R371, R380). -/
def State.columnTenant (s : State) (core col : Nat) : Option Nat :=
  if core == s.coreNum.toNat then
    let l := vget s.lcores (lcoreOf s.mode.toNat col) {}
    if l.assigned then some l.tenant else none
  else match s.otherCores.find? (·.core == core) with
    | some a => (a.tens.getD (lcoreOf a.mode col) none)
    | none => none

/-- The staging fields all four commands share. -/
structure CpStage where
  blk : Nat
  ib : Nat
  dst : Nat
  dcore : Nat
  rem : Bool
  rel : Bool
  scope : Nat
  inj : Nat
  arr : Bool
  awa : Nat

/-- Read staging; none where a reserved bit or an unused field is not 0, unless the command is under a false guard. -/
def cpStage (e : EngEnv) (tsa dry : Bool) : Option CpStage :=
  let g : CpStage :=
    { blk := fld e.w0 0 21, ib := fld e.w0 32 32, dst := e.w2, dcore := fld e.w3 56 8, rem := bitAt e.w3 55,
      rel := bitAt e.w3 54, scope := fld e.w3 50 4, inj := fld e.w3 22 1, arr := bitAt e.w3 21, awa := fld e.w3 0 21 }
  if !dry && (fld e.w0 21 11 != 0 || (!tsa && g.ib != 0) || e.w2 / 2 ^ 57 != 0 || fld e.w3 23 27 != 0 || (!g.rel && g.scope != 0) ||
      (!g.arr && g.awa != 0)) then none
  else some g

/-- The header `h` of a block of kind `kind` and defined size `size` rejects it (R307, R308). -/
def blockBad (h blk kind size : Nat) : Bool :=
  let n := 16 * fld h 8 8
  fld h 24 8 != 0 || fld h 16 8 != kind || fld h 0 8 != 1 || n < size || n > 256 || blk % 256 + n > 256

/-- The bytes of a block of kind `kind` and defined size `size`; none when it is rejected (R307, R308). -/
def blockOf (bytes : Nat → Nat) (blk kind size : Nat) : Option Nat :=
  let h := bytes 8
  let all := bytes (16 * fld h 8 8)
  if blockBad h blk kind size || all >>> (8 * size) != 0 then none else some all

/-- Bytes of a block in the window as the bundle finds it, after the held stores that perform in its cycle (R120, R282). -/
def Work.cpBytes (w : Work) (blk n : Nat) : Nat := memNat w.s0.spad (w.s0.windowKey w.x0.base blk) n

/-! ## Pieces (R309, R310, R312) -/

def wrap57 (x : Int) : Nat := ofSigned 57 x

def CpCmd.cnt (m : CpCmd) (i : Nat) : Nat := m.n.getD i 0 + 1

/-- Pieces of one row. -/
def CpCmd.perRow (m : CpCmd) : Nat := if m.xf then (m.cnt 0 + 31) / 32 else (m.cnt 0 * 2 ^ m.esz + 127) / 128

def CpCmd.rowCount (m : CpCmd) : Nat := m.cnt 1 * m.cnt 2 * m.cnt 3

/-- Offset of row `r` under the strides of dimensions 1 to 3: dimension 1 varies fastest. -/
def CpCmd.rowOff (m : CpCmd) (st : List Int) (r : Nat) : Int :=
  st.getD 0 0 * (r % m.cnt 1 : Nat) + st.getD 1 0 * (r / m.cnt 1 % m.cnt 2 : Nat) +
    st.getD 2 0 * (r / (m.cnt 1 * m.cnt 2) : Nat)

/-- A piece: source address and bytes, destination, and its group when it is transposed. -/
structure Piece where
  src : Nat
  n : Nat
  dst : Nat
  group : Option Nat
  deriving DecidableEq, Repr

def CpCmd.piece (m : CpCmd) (k : Nat) : Piece :=
  match m.op with
  | .tile => { src := 0, n := (m.nm1 + 1) * (if m.ofmt == 0 then 4 else 2), dst := wrap57 (m.dst + m.rstr * (k : Nat)), group := none }
  | .tsa => { src := 0, n := (m.nm1 + 1) * (if m.ofmt == 0 then 4 else 2), dst := wrap57 (m.dst + m.rstr * (k : Nat)), group := none }
  | _ =>
    let r := k / m.perRow
    let o := k % m.perRow
    let e := 2 ^ m.esz
    let so := (m.src : Int) + m.rowOff m.ss r
    let d := (m.dst : Int) + m.rowOff m.ds r
    if m.xf then
      { src := wrap57 (so + (32 * o * e : Nat)), n := e * min 32 (m.cnt 0 - 32 * o), dst := wrap57 d, group := some o }
    else
      { src := wrap57 (so + (128 * o : Nat)), n := min 128 (m.cnt 0 * e - 128 * o), dst := wrap57 (d + (128 * o : Nat)), group := none }

/-- The destination of a piece is a scratchpad. -/
def CpCmd.toPad (m : CpCmd) (p : Piece) : Bool := m.rem || decide (p.dst < windowEnd)

/-- Bytes of destination a piece spans. -/
def CpCmd.dstSpan (m : CpCmd) (p : Piece) : Nat := if m.xf then (m.pb + 1) * (roundUp (m.cnt 0) 32 / 8) else p.n

/-- The source of a piece is the logical core's scratchpad. -/
def CpCmd.fromPad (m : CpCmd) (p : Piece) : Bool := m.op == .xfer && decide (p.src < windowEnd)

/-- The destination is the scratchpad of the issuing core. -/
def State.cpOwn (s : State) (m : CpCmd) (p : Piece) : Bool := m.toPad p && (!m.rem || m.dcore == s.coreNum.toNat)

/-- A core-local piece (R311). -/
def State.cpNear (s : State) (m : CpCmd) (p : Piece) : Bool :=
  (m.op != .xfer || m.fromPad p) && s.cpOwn m p &&
    (!m.rem || lcoreOf s.mode.toNat (p.dst / columnBytes) == lcoreOf s.mode.toNat m.wb)

/-- Key of a scratchpad destination. -/
def State.cpKey (s : State) (m : CpCmd) (a : Nat) : Nat := if m.rem then spadKey m.dcore a else s.windowKey m.wb a

/-- Rows that a drain writes. -/
def CpCmd.writes (m : CpCmd) : Bool := m.ofmt != 3

/-! ## Issue (R314) -/

/-- The cells a command uses (R310): banks of the logical core with their cycles, and cycles of the injection port. -/
def Work.cpCells (w : Work) (m : CpCmd) (blk : Nat) : Cells × List Nat :=
  let ps := (List.range m.pieces).map fun k => (w.now + 1 + k, m.piece k)
  (((if blk < w.padEnd then [(w.now, blk / 65536)] else []) ++ ps.flatMap fun p =>
      if m.fromPad p.2 then (([p.2.src, p.2.src + p.2.n - 1].filter fun a => decide (a < w.padEnd)).map fun a =>
        (p.1, a / 65536)).eraseDups else []),
    if m.writes then (ps.filter fun p => !w.s.cpOwn m p.2).map (·.1) else [])

/-- The bad-operand cases of destinations (R312-R314). -/
def Work.cpBadDst (w : Work) (m : CpCmd) : Bool :=
  let tnt := w.s0.tenantOf w.c
  let mine := fun a => w.s.columnTenant m.dcore (a / columnBytes) == some tnt
  (m.arr && m.rem && !mine m.awa) ||
  (m.writes && (List.range m.pieces).any fun k =>
    let p := m.piece k
    (!m.toPad p && (m.xf || m.arr)) ||
    (m.rem && (decide (windowEnd < p.dst + m.dstSpan p) || !mine p.dst || !mine (p.dst + m.dstSpan p - 1))))

/-- A window address of the command that lies beyond the logical core's scratchpad (R252) (notes/assumptions/48.md). -/
def Work.cpBeyond (w : Work) (m : CpCmd) : Option Nat :=
  let pad := w.windowTop
  let ps := (List.range m.pieces).map m.piece
  let one := ps.findSome? fun p =>
    if m.fromPad p && decide (pad < p.src + p.n) then some p.src
    else if m.writes && !m.rem && m.toPad p && decide (pad < p.dst + m.dstSpan p) then some p.dst
    else none
  match one with
  | some a => some a
  | none =>
    if m.arr && !m.rem && decide (pad < m.awa + 16) then some m.awa
    else if m.op == .tsa && decide (pad < m.recBase + 128 * m.pieces) then some m.recBase
    else none

/-- The checks after bad-operand: overrun, alignment, permission, stale scope. `busy` is the case of a drain (R319). -/
def Work.cpChecks (w : Work) (e : EngEnv) (m : CpCmd) (g : CpStage) (busy : Bool) (aligns : List (Int × Nat × Nat)) :
    Option Stop :=
  let (banks, inj) := w.cpCells m g.blk
  let ch := 8 + w.x0.base + e.col
  let span := m.pieces + 1
  let port := physRes w.s0.mode.toNat w.x0.base (47 + g.inj)
  let chBad := !w.ownsSpan ch w.now span || (List.range span).any fun i => w.s.occupied ch (w.now + i)
  let injBad := inj.any fun t => match port with
    | some r => !w.s0.owns w.c r t || w.s.occupied r t
    | none => true
  if w.dry then none
  else if busy then some (.trap cOverrun (4 + e.col))
  else if chBad then some (.trap cOverrun (8 + e.col))
  else match w.badCell banks with
    | some r => some (.trap cOverrun r)
    | none =>
      if injBad then some (.trap cOverrun (47 + g.inj))
      else match aligns.find? (fun (a : Int × Nat × Nat) => a.1 % (Int.ofNat a.2.1) != 0) with
        | some a => some (.trap cAlignment a.2.2)
        | none => match w.cpBeyond m with
          | some a => some (.trap cPermission a)
          | none => if g.rel && w.x0.staleScope g.scope then some (.trap cStaleScope 0) else none

/-- The address that the staging words alone give is not the issuing tenant's scratchpad, or is none while landings are counted (R313,
R314); cp.tsa may write no row there. -/
def Work.cpBadStage (w : Work) (m : CpCmd) : Bool :=
  w.cpBadDst m || (m.op != .tsa && ((m.rem &&
    (decide (windowEnd ≤ m.dst) || w.s.columnTenant m.dcore (m.dst / columnBytes) != some (w.s0.tenantOf w.c))) ||
    (m.arr && !m.rem && decide (windowEnd ≤ m.dst))))

/-- A block that gives no bytes, being beyond the scratchpad or poisoned (R252, R302, R314, notes/assumptions/48.md): the checks
that do not need it in the order of R196, and at its place among them its own permission or poison fault. `m` is the command as
its staging words give it. -/
def Work.cpBlind (w : Work) (e : EngEnv) (m : CpCmd) (g : CpStage) (busy : Bool)
    (aligns : List (Int × Nat × Nat)) : Option Stop :=
  let key := w.s0.windowKey w.x0.base g.blk
  let h := w.cpBytes g.blk 8
  let poisoned := fun n => isPoisoned w.s0.poisonS key n
  let n := if poisoned 8 then 8 else 16 * fld h 8 8  -- as far as its header says, be that a bad one (R316)
  let checked := fun (c : CpCmd) (last : Stop) =>
    if w.cpBadStage m then Stop.trap cBadOperand 0
    else (w.cpChecks e c { g with rel := false } busy (((g.blk : Int), 16, g.blk) :: ((g.awa : Int), 16, g.awa) :: aligns)).getD last
  if w.windowTop ≤ g.blk then some (checked { m with op := .tile, arr := false } (.trap cPermission g.blk))
  else if !w.dry && poisoned n then some (checked m (.poisoned g.blk n))
  else none

/-- The command starts: numbered on the counter of its kernel column (notes/assumptions/80.md), its cells in use. -/
def Work.cpStart (w : Work) (e : EngEnv) (m : CpCmd) (g : CpStage) : Work :=
  let (banks, inj) := w.cpCells m g.blk
  let j := w.stripNo e.col
  let w := (w.takeNum (4 + e.col)).useCells banks
  let s := w.s.occupy w.c (8 + j) w.now (m.pieces + 1)
  let s := match physRes s.mode.toNat w.x0.base (47 + g.inj) with
    | some r => inj.foldl (fun (s : State) t => s.occupy w.c r t 1) s
    | none => s
  { w with s := { s with chans := vmod s.chans j fun h => { h with cmds := h.cmds ++ [m] } } }

/-- A release that the command carries (R322): the waits and collapses of a fence. -/
def Work.cpRelease (w : Work) (e : EngEnv) : Work :=
  if bitAt e.w3 54 && !w.dry then (w.fillWait e.slot).orderedCollapse e.slot else w

def Work.cpBase (w : Work) (e : EngEnv) (op : CpOp) (g : CpStage) : CpCmd :=
  { op := op, ctx := w.c, num := w.nextNum (4 + e.col), c := w.now, wb := w.x0.base, pieces := 0, dst := g.dst, rem := g.rem,
    dcore := g.dcore, arr := g.arr, awa := g.awa, rel := g.rel, scope := g.scope, inj := g.inj, stamp := w.s.storeSeq,
    bars := w.x0.relSp, acq := w.acqBound, tenant := w.s0.tenantOf w.c, notBefore := w.now + 2 }

/-- Fields of a transfer block; none out of range (R309). -/
def transferOf (b : Nat) (fill : Bool) (m : CpCmd) : Option CpCmd :=
  let nd := fld b 32 2
  let esz := fld b 34 3
  let xf := fld b 37 2
  let pb := fld b 39 5
  let n := (List.range 4).map fun i => fld b (64 + 16 * i) 16
  let ss := [fld b 128 32, fld b 160 32, fld b 192 32].map (toSigned 32)
  let ds := [fld b 224 32, fld b 256 32, fld b 288 32].map (toSigned 32)
  let above := [1, 2, 3].any fun i => decide (nd < i) && (n.getD i 0 != 0 || ss.getD (i - 1) 0 != 0 || ds.getD (i - 1) 0 != 0)
  let m := { m with esz := esz, xf := xf == 1, pb := pb, n := n, ss := ss, ds := ds }
  if fld b 44 20 != 0 || xf > 1 || esz > 4 || (xf == 1 && (esz > 2 || 8 * 2 ^ esz ≤ pb)) || (xf == 0 && pb != 0) ||
      (fill && xf != 0) || fld b 320 64 != 0 || above then none
  else
    let p := m.rowCount * m.perRow
    if p > 2 ^ 32 - 1 then none else some { m with pieces := p }

/-- cp.xfer and cp.fill (R317). -/
def Work.cpXfer (w : Work) (e : EngEnv) (fill : Bool) : Work :=
  let w := w.cpRelease e
  match cpStage e false w.dry with
  | none => w.stop e.slot cBadOperand
  | some g =>
    if !w.dry && !fill && e.w1 / 2 ^ 57 != 0 then w.stop e.slot cBadOperand
    else
    let m0 := { w.cpBase e (if fill then .fill else .xfer) g with src := if fill then 0 else e.w1, pat := if fill then e.w1 else 0 }
    match w.cpBlind e m0 g false [] with
    | some x => w.stopWith e.slot x
    | none => match blockOf (w.cpBytes g.blk) g.blk 1 48 with
    | none => w.stop e.slot cBadOperand
    | some b =>
      match transferOf b fill m0 with
      | none => w.stop e.slot cBadOperand
      | some m =>
        if !w.dry && w.cpBadDst m then w.stop e.slot cBadOperand
        else
          let a := min (2 ^ m.esz) 16
          let strides := fun (base : Nat) (st : List Int) (al : Nat) =>
            (st.zipIdx.map fun x => (x.1, al, wrap57 (base + x.1)))
          let rows := (strides g.dst m.ds 64).zipIdx.filterMap fun x => if 1 < m.cnt (x.2 + 1) then some x.1 else none
          let aligns : List (Int × Nat × Nat) :=
            [((g.blk : Int), 16, g.blk), ((g.awa : Int), 16, g.awa)] ++
            (if m.xf then ((g.dst : Int), 64, g.dst) :: rows
             else (if fill then [] else ((m.src : Int), a, m.src) :: strides m.src m.ss a) ++
               ((g.dst : Int), a, g.dst) :: strides g.dst m.ds a)
          match w.cpChecks e m g false aligns with
          | some x => w.stopWith e.slot x
          | none => w.cpStart e m g

/-- The cycle in which a drain completes, where it is known at issue (R244, R319): its rows stay in the logical core's
scratchpad, and no release fence holds its writes. -/
def State.drainEnds (s : State) (m : CpCmd) : Option Nat :=
  if (m.writes && !(List.range m.pieces).all fun k => s.cpNear m (m.piece k)) ||
      !s.barrierDone (s.ctx m.ctx).cxid.toNat (vget m.bars 0 0) then none
  else some (m.c + m.pieces + (if m.op == .tsa then 10 else 2))

/-- cp.tile and cp.tsa (R318-R321). -/
def Work.cpDrain (w : Work) (e : EngEnv) (p : Nat) (tsa : Bool) : Work :=
  let w := w.cpRelease e
  match cpStage e tsa w.dry with
  | none => w.stop e.slot cBadOperand
  | some g =>
    if !w.dry && tsa && e.w1 / 2 ^ 21 != 0 then w.stop e.slot cBadOperand
    else
    let t := w.stripOf e.col
    let busy := w.lostStrip e.col || t.tileW p w.now || t.tileX w.now p w.now
    let m0 : CpCmd := { w.cpBase e (if tsa then .tsa else .tile) g with
      tile := p, strip := w.stripNo e.col, ib := g.ib, recBase := if tsa then fld e.w1 0 21 else 0 }
    let rec_ : List (Int × Nat × Nat) := if tsa then [((m0.recBase : Int), 128, m0.recBase)] else []
    match w.cpBlind e m0 g busy rec_ with
    | some x => w.stopWith e.slot x
    | none => match blockOf (w.cpBytes g.blk) g.blk 2 32 with
    | none => w.stop e.slot cBadOperand
    | some b =>
      let ofmt := fld b 42 2
      let size := if ofmt == 0 then 4 else 2
      let rstr := toSigned 32 (fld b 64 32)
      let m : CpCmd := { m0 with
        pieces := fld b 32 5 + 1, rm := fld b 45 3, clr := bitAt b 44, ofmt := ofmt,
        nm1 := fld b 37 5, rstr := rstr, beta := fld b 96 32 }
      if fld b 48 16 != 0 || m.rm > 3 || (!tsa && (ofmt == 3 || m.beta != 0)) || b >>> 128 != 0 ||
          (ofmt != 3 && rstr % (size : Nat) != 0) || (!w.dry && w.cpBadDst m) then w.stop e.slot cBadOperand
      else
        match w.cpChecks e m g busy (((g.blk : Int), 16, g.blk) :: ((g.awa : Int), 16, g.awa) :: rec_) with
        | some x => w.stopWith e.slot x
        | none =>
          let w := w.cpStart e m g
          let s := w.s.claimStrip w.c m.strip
          { w with s := s.modStrip m.strip fun t => { t with
              drains := { tile := p, ctx := w.c, num := m.num, ends := w.s.drainEnds m } :: t.drains } }

/-! ## Emission (R310, R311, R314-R316) -/

def State.modCmd (s : State) (j ctx num : Nat) (node : Option (Nat × Nat)) (f : CpCmd → CpCmd) : State :=
  { s with chans := vmod s.chans j fun h => { h with cmds := h.cmds.map fun m =>
      if m.ctx == ctx && m.num == num && m.node == node then f m else m } }

/-- A piece is denied (R315): the counter latches, or the copy node fails (R375). -/
def State.cpDeny (s : State) (j : Nat) (m : CpCmd) (va : Nat) (poison : Bool) : State :=
  let s := s.modCmd j m.ctx m.num m.node fun m => { m with left := m.left - 1 }
  match m.node with
  | some (r, n) => s.modNode (r * 64 + n) fun x => { x with outcome := if x.outcome == 0 then 3 else x.outcome }
  | none => s.latchDenial m.ctx (4 + j - m.wb) va m.num poison

/-- The die whose pager serves a command: that of the core, or the one a graph's copy node names (R297, R375). -/
def State.cpDie (s : State) (node : Option (Nat × Nat)) : Nat :=
  match node with
  | none => s.dieNo
  | some (r, n) =>
    match (s.replays.find? (·.id == r)).bind (·.nodes[n]?) with
    | some x => if fld (x.words.getD 0 0) 8 2 == 2 then 1 else 0
    | none => 0

/-- A piece whose address fails is parked or denied. -/
def State.cpFail (s : State) (j k : Nat) (m : CpCmd) (data : List Byte) (x : XFail) : State :=
  let who := if m.node.isSome then none else some (m.ctx, m.tenant)
  match x with
  | .denied va p => (s.logWalk (s.translate m.tenant va) who).cpDeny j m va p
  | .unready va =>
    { s with chans := vmod s.chans j fun h => { h with parked := h.parked ++
        [{ ctx := m.ctx, num := m.num, node := m.node, k := k, data := data, fut := none, va := va, wr := false,
           tenant := m.tenant, home := true }] } }
  | .absent va wr =>
    let (fut, s) := s.requestPage (s.cpDie m.node) m.tenant va wr true
    { s with chans := vmod s.chans j fun h => { h with parked := h.parked ++
        [{ ctx := m.ctx, num := m.num, node := m.node, k := k, data := data, fut := fut, va := va, wr := wr, tenant := m.tenant }] } }

/-- The data of a piece: a pattern, the window, or translated bytes; with its poison and the devices it comes from. -/
def State.cpSource (s : State) (m : CpCmd) (p : Piece) (data : List Byte) :
    Except XFail (List Byte × Bool × List (Nat × BitVec 12)) :=
  match m.op with
  | .fill => .ok ((List.range p.n).map (fun i => BitVec.ofNat 8 (m.pat >>> (8 * (i % min 8 (2 ^ m.esz))))), false, [])
  | .xfer =>
    if p.src < windowEnd then
      let key := s.windowKey m.wb p.src
      .ok (memRead s.spad0 key p.n, isPoisoned s.poisonS0 key p.n, [])
    else (s.runs m.tenant false (p.n / 4096 + 2) p.src p.n).bind fun rs =>
      if !s.runsReady m.ctx m.stamp m.acq rs then .error (.unready p.src)
      else
        let ds := rs.map fun r => s.homeRead r.1 r.2
        .ok (ds.flatMap (·.1), ds.any (·.2),
          rs.filterMap fun r => if r.1.space == 1 then some (r.1.dev, s.routeMask r.1.dev) else none)
  | _ => .ok (data, false, [])

/-- Poisoned source granules are logged, naming the issuing context; a graph's copy node has none (R303, R316). -/
def State.cpLog (s : State) (m : CpCmd) (p : Piece) : State :=
  let who := if m.node.isSome then none else some (m.ctx, m.tenant)
  if p.src < windowEnd then s.logPoisonBy s.poisonS0 who (s.windowKey m.wb p.src) p.n 3
  else match s.runs m.tenant false (p.n / 4096 + 2) p.src p.n with
    | .ok rs => rs.foldl (fun s r =>
        if r.1.space == 0 then s.logPoisonBy s.poisonG who r.1.pa r.2 0
        else if r.1.space == 1 then s.logPoisonBy s.poisonP who (peerKey r.1.dev r.1.pa) r.2 0
        else s) s
    | .error _ => s

/-- The global ranges that a piece reads, noted for the wait that covers them. -/
def State.cpNoteRead (s : State) (m : CpCmd) (p : Piece) (j : Nat) : State :=
  if m.op != .xfer || m.node.isSome || decide (p.src < windowEnd) then s
  else match s.runs m.tenant false (p.n / 4096 + 2) p.src p.n with
    | .ok rs => rs.foldl (fun s r =>
        if r.1.space == 0 then s.noteWritten { ctx := m.ctx, counter := 4 + j - m.wb, num := m.num } r.1.pa r.2 else s) s
    | .error _ => s

/-- The words of one transposed group (R312): word j of bit j of each value. -/
def transposed (esz b : Nat) (bs : List Byte) : List Nat :=
  let e := 2 ^ esz
  let vs := (List.range (bs.length / e)).map fun i => ofLeBytes ((bs.drop (e * i)).take e)
  (List.range b).map fun j => ofList 1 (vs.map fun v => (bitAt v j).toNat)

/-- The parts a piece writes, before translation: addresses and bytes. -/
def CpCmd.parts (m : CpCmd) (p : Piece) (bs : List Byte) : List (Nat × List Byte) :=
  match p.group with
  | none => [(p.dst, bs)]
  | some g => (transposed m.esz (m.pb + 1) bs).zipIdx.map fun x =>
      (p.dst + x.2 * (roundUp (m.cnt 0) 32 / 8) + 4 * g, leBytes 4 x.1)

/-- Cut bytes over the places of their pages. -/
def cutRuns : List (Place × Nat) → List Byte → List (Space × Nat × List Byte)
  | [], _ => []
  | (p, n) :: rs, bs => (p.at_.1, p.at_.2, bs.take n) :: cutRuns rs (bs.drop n)

/-- The port through which a piece reaches a scratchpad: none where it comes from the channel's own core (R28, R313). -/
def State.cpPort (s : State) (m : CpCmd) (p : Piece) : Option Nat :=
  let away := match m.op with
    | .xfer => if m.fromPad p then false else
      match s.runs m.tenant false (p.n / 4096 + 2) p.src p.n with
      | .ok rs => rs.any fun r => r.1.space != 0
      | .error _ => false
    | _ => false
  if s.cpOwn m p && !away then none else some m.inj

/-- Emit piece `k` of `m` on channel `j`; `data` is a drained row. A retry is an emission too. -/
def State.emitPiece (s : State) (j k : Nat) (m : CpCmd) (data : List Byte) : State :=
  let s := s.modCmd j m.ctx m.num m.node fun m => { m with notBefore := max m.notBefore (s.now + 2) }
  let p := m.piece k
  match s.cpSource m p data with
  | .error x => s.cpFail j k m data x
  | .ok (bs, bad, from_) =>
    let s := s.cpNoteRead m p j
    let land := fun (s : State) (bs : List Byte) (parts : List (Space × Nat × List Byte)) (near : Bool) =>
      let (d, s) := if near then (1, s) else s.delay
      let to_ := parts.filterMap fun x => match x.1 with | .peer d => some (d, s.routeMask d) | _ => none
      let l : Landing :=
        { due := s.now + 1 + d, chan := j, ctx := m.ctx, num := m.num, near := near, parts := parts,
          count := (m.parts p bs).foldl (fun n x => n + x.2.length) 0, awa := if m.arr then some (s.cpKey m m.awa) else none,
          stamp := m.stamp, bars := m.bars, acq := m.acq, poison := bad, va := p.dst,
          port := if m.toPad p then s.cpPort m p else none, via := from_ ++ to_, node := m.node,
          counter := 4 + j - m.wb }
      { s with landings := s.landings ++ [l] }
    let (bs, s) := if bad then (let r := s.freeBits; ((leBytes p.n r.1.toNat), r.2.cpLog m p)) else (bs, s)
    if m.toPad p then
      land s bs ((m.parts p bs).map fun x => (.scratch (if m.rem then m.dcore else s.coreNum.toNat), s.cpKey m x.1, x.2)) (s.cpNear m p)
    else match s.runs m.tenant true (p.n / 4096 + 2) p.dst p.n with
      | .error x => s.cpFail j k m data x
      | .ok rs => land s bs (cutRuns rs bs) false

/-- The command whose piece or row channel `j` takes in this cycle. -/
def State.cpDue (s : State) (j : Nat) (drain : Bool) : Option CpCmd :=
  (vget s.chans j { cmds := [], parked := [], retryAt := 0 }).cmds.find? fun m =>
    (m.op == .tile || m.op == .tsa) == drain &&
    ((decide (m.next < m.pieces) && decide (m.c + 1 + m.next ≤ s.now)) ||
      (drain && m.next == m.pieces && m.clr && decide (m.c + 1 + m.pieces ≤ s.now)))

/-- One piece leaves (R310). -/
def State.cpEmit (s : State) (j : Nat) : State :=
  match s.cpDue j false with
  | none => s
  | some m =>
    (s.modCmd j m.ctx m.num m.node fun m => { m with next := m.next + 1, left := m.left + 1 }).emitPiece j m.next m []

/-- A row of a tile, as it is written out (R319). -/
def drainBytes (ofmt rm : Nat) (row : List Nat) : List Byte :=
  let r : RMode := match rm with | 1 => .rz | 2 => .rd | 3 => .ru | _ => .rne
  match ofmt with
  | 0 => row.flatMap (leBytes 4)
  | 1 => row.flatMap fun x => leBytes 2 (fCvt f32 h16 r x).1
  | _ => row.flatMap fun x => leBytes 2 (fCvt f32 b16 r x).1

/-- One row of a drain is read, or its tile cleared after the last (R319). -/
def State.drainRow (s : State) (j : Nat) : State :=
  match s.cpDue j true with
  | none => s
  | some m =>
    if m.next == m.pieces then
      (s.modStrip m.strip fun t => { t with tiles := vmod t.tiles m.tile fun _ => Tile.init }).modCmd j m.ctx m.num m.node
        fun m => { m with clr := false }
    else
      let t := vget (s.strip m.strip).tiles m.tile Tile.init
      let row := (List.range (m.nm1 + 1)).map fun e => (vget t.acc (32 * m.next + e) 0).toNat
      let w := m.writes
      let s := s.modCmd j m.ctx m.num m.node fun m => { m with
        next := m.next + 1, left := m.left + w.toNat, rows := m.rows ++ [row], notBefore := max m.notBefore (s.now + 2) }
      if w then s.emitPiece j m.next m (drainBytes m.ofmt m.rm row) else s

/-! ## Select-and-accumulate (R320, R321) -/

/-- Put a candidate at `rank` of the eight places; the later ones move down. -/
def insertCand (cs : List (Nat × Nat)) (rank : Nat) (c : Nat × Nat) : List (Nat × Nat) :=
  (cs.take rank ++ c :: cs.drop rank).take 8

/-- What a fold changes: m, s, the candidates' eight places, how many are valid, nnan, npinf, nelem. -/
structure Fold where
  m : Nat
  s : Nat
  cands : List (Nat × Nat)
  cnt : Nat
  nnan : Nat
  npinf : Nat
  nelem : Nat

def expDiff (a b : Nat) : Nat := (fExp2 .rne (fSub f32 .rne a b).1).1

def Fold.value (f : Fold) (y k : Nat) : Fold :=
  if (f32.read y).isNan then { f with nnan := f.nnan + 1 }
  else
    let rank := ((f.cands.take f.cnt).filter fun c => decide (image f32 y < image f32 c.1) || (image f32 c.1 == image f32 y && decide (c.2 < k))).length
    let f := if rank < 8 then { f with cands := insertCand f.cands rank (y, k), cnt := min (f.cnt + 1) 8 } else f
    if y == 0x7F800000 then { f with npinf := f.npinf + 1 }
    else if y == 0xFF800000 then f
    else
      let up := (fCmp f32 .lt f.m y).1
      let s := if up then (fMul f32 .rne f.s (expDiff f.m y)).1 else f.s
      let m := if up then y else f.m
      { f with m := m, s := (fAdd f32 .rne s (expDiff y m)).1, nelem := f.nelem + 1 }

/-- The record with a row folded in; reserved fields stay as read. -/
def foldRecord (r beta ib : Nat) (row : List Nat) : Nat :=
  let cnt := min (fld r 64 8) 8
  let cand := fun k => (fld r (256 + 64 * k) 32, fld r (288 + 64 * k) 32)
  let f0 : Fold := { m := fld r 0 32, s := fld r 32 32, cands := (List.range 8).map cand, cnt := cnt, nnan := fld r 96 32,
                     npinf := fld r 128 32, nelem := fld r 160 32 }
  let f := (row.zipIdx).foldl (fun f x => f.value (fMul f32 .rne beta x.1).1 ((ib + x.2) % 2 ^ 32)) f0
  ofList 32 ([f.m, f.s, f.cnt + fld r 72 24 * 2 ^ 8, f.nnan, f.npinf, f.nelem, fld r 192 32, fld r 224 32] ++
    f.cands.flatMap fun c => [c.1, c.2]) + fld r 768 256 * 2 ^ 768

/-- The command of channel `j` with a row to fold: ten cycles after it was read, and after what a release fence put before
it (R279). -/
def State.foldDue (s : State) (j : Nat) : Option CpCmd :=
  (vget s.chans j { cmds := [], parked := [], retryAt := 0 }).cmds.find? fun m =>
    m.op == .tsa && decide (m.folded < m.rows.length) && decide (m.c + 11 + m.folded ≤ s.now) &&
      s.barrierDone (s.ctx m.ctx).cxid.toNat (vget m.bars 0 0)

/-! ## Completion (R311) -/

/-- A command of channel `j` has nothing left to do. -/
def State.cpFinished (s : State) (j : Nat) : Option CpCmd :=
  (vget s.chans j { cmds := [], parked := [], retryAt := 0 }).cmds.find? fun m =>
    m.next == m.pieces && m.left == 0 && !m.clr && (m.op != .tsa || m.folded == m.pieces) && decide (m.notBefore ≤ s.now)

def State.cpFinish (s : State) (j : Nat) : State :=
  match s.cpFinished j with
  | none => s
  | some m =>
    let s := { s with chans := vmod s.chans j fun h => { h with cmds := h.cmds.filter fun o =>
      !(o.ctx == m.ctx && o.num == m.num && o.node == m.node) } }
    match m.node with
    | some (r, n) => s.modNode (r * 64 + n) fun x => { x with st := .done }
    | none =>
      let s := if m.op == .tile || m.op == .tsa
        then s.modStrip m.strip fun t => { t with drains := t.drains.filter fun d => !(d.tile == m.tile && d.ctx == m.ctx && d.num == m.num) } else s
      s.finishOp m.ctx (4 + j - m.wb) m.num

/-- The row's record is folded in one update (R320); a poisoned record stays as it is (R316). -/
def State.foldRow (s : State) (j : Nat) : State :=
  match s.foldDue j with
  | none => s
  | some m =>
    let key := s.windowKey m.wb (m.recBase + 128 * m.folded)
    let row := m.rows.getD m.folded []
    let s := if isPoisoned s.poisonS key 128 then s.logPoison s.poisonS m.ctx m.tenant key 128 3
      else { s with spad := memWrite s.spad key (leBytes 128 (foldRecord (memNat s.spad key 128) m.beta m.ib row)) }
    (s.modCmd j m.ctx m.num m.node fun m => { m with folded := m.folded + 1 }).cpFinish j

/-! ## Landing (R311-R313, R316) -/

def spaceBit : Space → Nat
  | .scratch _ => 0
  | .global => 1
  | .peer _ => 2
  | .host => 3

/-- A write by an engine operation of context `c` may perform: the stores to its bytes that go before it, and those that a
release fence put before the writes of each space, have performed, and the homes are ready (R279, R282, R403). -/
def State.engineMay (s : State) (c stamp acq : Nat) (bars : Vector Nat 4) (parts : List (Space × Nat × List Byte)) : Bool :=
  parts.all fun p =>
    s.barrierDone (s.ctx c).cxid.toNat (vget bars (spaceBit p.1) 0) &&
    (match p.1 with
     | .global => s.spanReady p.2.1 p.2.2.length && !(s.storesBefore c stamp acq).any (·.meets p.2.1 p.2.2.length)
     | _ => true)

def Landing.toPad (l : Landing) : Bool := l.parts.all fun p => match p.1 with | .scratch _ => true | _ => false

/-- The landing writes host memory. -/
def Landing.toHost (l : Landing) : Bool := l.parts.any fun p => p.1 == .host

/-- Writes of one channel to host memory go in the order in which they were sent (R369). -/
def State.hostTurn (s : State) (l : Landing) : Bool :=
  !l.toHost || ((s.landings.filter fun o => o.chan == l.chan && o.toHost).head?) == some l

/-- The landing can take place in this cycle. -/
def State.landReady (s : State) (l : Landing) : Bool :=
  decide (l.due ≤ s.now) && s.engineMay l.ctx l.stamp l.acq l.bars l.parts && (l.via.all fun v => s.sendable v.2) && s.hostTurn l

/-- The next scratchpad landing of channel `j`, from the core itself or through network port `p` (R28, R412). -/
def State.padNext (s : State) (j : Nat) (p : Option Nat) : Option Landing :=
  s.landings.find? fun l => l.chan == j && l.toPad && l.port == p && s.landReady l

/-- The landing of channel `j` to perform next: scratchpad ones first, in the order of R412, then by rank (R271). -/
def State.landNext (s : State) (j : Nat) : Option Landing :=
  (((s.padNext j none).or (s.padNext j (some 0))).or (s.padNext j (some 1))).or
    (sortBy (fun (a b : Landing) => decide (a.ctx < b.ctx) ||
        (a.ctx == b.ctx && (decide (a.counter < b.counter) || (a.counter == b.counter && decide (a.num ≤ b.num)))))
      (s.landings.filter fun l => l.chan == j && !l.toPad && s.landReady l)).head?

/-- Drop the first landing equal to `l`. -/
def State.dropLanding (s : State) (l : Landing) : State := { s with landings := s.landings.erase l }

/-- A piece lands: its bytes, then its arrival word, then the command. -/
def State.cpLand (s : State) (j : Nat) : State :=
  match s.landNext j with
  | none => s.cpFinish j
  | some l =>
    let s := l.parts.foldl (fun s p => s.putPart (if l.node.isSome then none else some ⟨l.ctx, l.counter, l.num⟩) l.poison p)
      ((s.dropLanding l).answered !l.via.isEmpty)
    let s := match l.awa with | some k => s.arrive k l.count | none => s
    let s := match l.node, l.poison with
      | some (r, n), true => s.modNode (r * 64 + n) fun x => { x with outcome := if x.outcome == 0 then 3 else x.outcome }
      | _, _ => s
    (s.modCmd j l.ctx l.num l.node fun m => { m with left := m.left - 1 }).cpFinish j

/-! ## Retry (R315) and links (R389) -/

/-- The first parked piece of channel `j` that can leave or be denied. -/
def State.retryNext (s : State) (j : Nat) : Option ParkedPiece :=
  let h := vget s.chans j { cmds := [], parked := [], retryAt := 0 }
  h.parked.find? fun p => match p.fut with
    | some f => p.ready && s.futureReady f && (s.futureDenied f || decide (h.retryAt ≤ s.now))
    | none => p.home && p.ready

def State.cpRetry (s : State) (j : Nat) : State :=
  match s.retryNext j with
  | none => s
  | some p =>
    let h := vget s.chans j { cmds := [], parked := [], retryAt := 0 }
    let s := { s with chans := vmod s.chans j fun h => { h with parked := h.parked.erase p } }
    match h.cmds.find? fun m => m.ctx == p.ctx && m.num == p.num && m.node == p.node, p.fut with
    | some m, some f =>
      if s.futureDenied f then s.cpDeny j m p.va false
      else
        let s := { s with chans := vmod s.chans j fun h => { h with retryAt := s.now + 4 } }
        s.emitPiece j p.k m p.data
    | some m, none => s.emitPiece j p.k m p.data
    | none, _ => s

/-- What a piece needs is ready (R403). -/
def State.pieceReady (s : State) (m : CpCmd) (p : ParkedPiece) : Bool :=
  let x := m.piece p.k
  (match s.cpSource m x p.data with | .error (.unready _) => false | _ => true) &&
  (m.toPad x || (match s.runs m.tenant true (x.n / 4096 + 2) x.dst x.n with | .error (.unready _) => false | _ => true))

/-- The future of a request that had to wait for an entry (R297). -/
def State.findFuture (s : State) (d tnt va : Nat) : Option Nat :=
  let pages := (s.die d).pages
  (firstFrom (fun i => let e := vget pages i {}; e.busy && e.tnt == tnt && e.vpage == fld va 12 45) 256 0).map fun i =>
    futureId d i (vget pages i {}).gen

/-- A parked piece in a new cycle. -/
def State.parkedNow (s : State) (h : Chan) (p : ParkedPiece) : ParkedPiece :=
  if p.home then { p with ready := h.cmds.any fun m => m.ctx == p.ctx && m.num == p.num && m.node == p.node && s.pieceReady m p }
  else
    let f := p.fut.or (s.findFuture (s.cpDie p.node) p.tenant p.va)
    { p with fut := f, ready := f.any s.futureReady }

/-- What channels and landings learn at the start of a cycle: pieces that may go on, links that are lacking. -/
def State.cpCycle (s : State) : State :=
  { s with
    chans := vmap (fun h => { h with parked := h.parked.map (s.parkedNow h) }) s.chans
    landings := s.landings.map fun (l : Landing) =>
      if l.via.all fun v => s.maskUp v.2 then { l with stuck := none } else { l with stuck := some (l.stuck.getD s.now) } }

/-- A landing with no link for 2^20 cycles is denied (R389). -/
def State.landTimedOut (s : State) : Option Landing :=
  s.landings.find? fun l => match l.stuck with | some t => decide (t + 2 ^ 20 ≤ s.now) | none => false

def State.denyLanding (s : State) (l : Landing) : State :=
  let s := s.dropLanding l
  match (vget s.chans l.chan { cmds := [], parked := [], retryAt := 0 }).cmds.find? fun m =>
      m.ctx == l.ctx && m.num == l.num && m.node == l.node with
  | some m => s.cpDeny l.chan m l.va false
  | none => s

end Sys2Proof.Machine
end

