-- ==== Sys2Proof/Machine/Select.lean ====
section
/-! DEFINITION. The selection engine (spec/18_selection.md R343-R354). -/

namespace Sys2Proof.Machine

/-! ## Sizes and phases (R343, R350) -/

/-- Plane words of `n` candidates. -/
def selWords (n : Nat) : Nat := (n + 31) / 32

/-- Words that hold a member of a set. -/
def memberWords (x nw : Nat) : List Nat := (List.range nw).filter fun w => fld x (32 * w) 32 != 0

def members (n x : Nat) : List Nat := (List.range n).filter (bitAt x)

def setMinus (n a b : Nat) : Nat := Nat.land a (Nat.xor b (2 ^ n - 1))

/-- Words taken per cycle in a phase that reads weights, and in one that does not. -/
def selRate (weights : Bool) : Nat := if weights then 2 else 64

def cyclesOf (words rate : Nat) : Nat := (words + rate - 1) / rate

/-- D_max (R350). -/
def SelCmd.worst (m : SelCmd) : Nat :=
  let g := selWords m.n
  let masks := cyclesOf g 64
  (if m.men then masks else 0) + m.b * max 1 (cyclesOf g (selRate (m.op == .wqnt))) +
    (if m.op == .wqnt || m.wen then max 1 (cyclesOf g 2) else 0) + (if m.mout then masks else 0) + 1

/-- Operands of a command: address and size (R352). -/
def SelCmd.spans (m : SelCmd) : List (Nat × Nat) :=
  let p := 4 * selWords m.n
  [(m.pbase, m.b * p), (m.raddr, 64)] ++ (if m.wen then [(m.wbase, 4 * m.n)] else []) ++
    (if m.men then [(m.mbase, p)] else []) ++ (if m.mout then [(m.obase, p)] else [])

/-- Banks that hold a byte of an operand. -/
def SelCmd.banks (m : SelCmd) (padEnd : Nat) : List Nat :=
  (List.range (padEnd / 65536)).filter fun q => m.spans.any fun a => decide (a.1 < 65536 * (q + 1)) && decide (65536 * q < a.1 + a.2)

/-! ## Weights (R347) -/

/-- A bad weight is a NaN or a negative value other than −0. -/
def badWeight (v : Nat) : Bool := decide (v % 2 ^ 31 > 0x7F800000) || (bitAt v 31 && v != 0x80000000)

def weightOf (wts : List (Nat × Nat)) (i : Nat) : Nat := ((wts.find? (·.1 == i)).map (·.2)).getD 0

/-- A sum with one weight added: a bad one counts as +0. -/
def selAdd (acc v : Nat) : Nat := (fAdd f32 .rne acc (if badWeight v then 0 else v)).1

/-- The fold of a set from `acc`; whether a bad weight was met. -/
def selFold (wts : List (Nat × Nat)) (n x acc : Nat) : Nat × Bool :=
  (members n x).foldl (fun a i => let v := weightOf wts i; (selAdd a.1 v, a.2 || badWeight v)) (acc, false)

def fLess (a b : Nat) : Bool := (fCmp f32 .lt a b).1

/-! ## The walk (R346) -/

/-- Begin plane `j`. -/
def SelCmd.startPlane (m : SelCmd) (j : Nat) : SelCmd :=
  { m with phase := .plane j, todo := memberWords m.cand (selWords m.n), got := 0, wts := [] }

/-- Begin what follows the final weights: the mask write or the record. -/
def SelCmd.startWrites (m : SelCmd) : SelCmd :=
  if m.mout then { m with phase := .omask, todo := List.range (selWords m.n) } else { m with phase := .record, todo := [] }

/-- S of sl.rank and sl.thr once the walk is over. -/
def SelCmd.picked (m : SelCmd) : Nat :=
  match m.op with
  | .rank => ((members m.n m.cand).take (m.arg - popCount m.n m.above)).foldl (fun x i => x + 2 ^ i) 0
  | .wqnt => 0
  | .thr => if m.incl then m.cand else 0

/-- The selected set, the weights and the shortfall once the walk is over. -/
def SelCmd.finish (m : SelCmd) : SelCmd :=
  let ng := popCount m.n m.above
  let m := match m.op with
    | .rank => { m with sel := m.picked }
    | .wqnt =>
      let r := (members m.n m.cand).foldl (fun (a : Nat × Nat × Bool) i =>
        if fLess a.2.1 m.arg then
          let v := weightOf m.wts i
          (a.1 + 2 ^ i, selAdd a.2.1 v, a.2.2 || badWeight v)
        else a) (0, m.wab, false)
      { m with sel := r.1, wabove := m.wab, wsel := r.2.1, badw := m.badw || r.2.2, shortw := fLess r.2.1 m.arg }
    | .thr => { m with thr := m.arg, sel := m.picked }
  let m := if m.op != .wqnt && m.wen then
      let a := selFold m.wts m.n m.above 0
      let b := selFold m.wts m.n m.sel a.1
      { m with wabove := a.1, wsel := b.1, badw := m.badw || a.2 || b.2 }
    else m
  let m := if m.op == .rank then { m with shortw := decide (ng + popCount m.n m.sel < m.arg) } else m
  m.startWrites

/-- After plane 0: the final weights where they are read (R350). -/
def SelCmd.afterWalk (m : SelCmd) : SelCmd :=
  if m.op == .wqnt then
    { m with phase := .weights, todo := memberWords m.cand (selWords m.n), wts := [], wsel := m.wab }
  else if m.wen then { m with phase := .weights, todo := memberWords (m.above ||| m.cand) (selWords m.n), wts := [] }
  else m.finish

/-- The decision of one plane. -/
def SelCmd.decide (m : SelCmd) (j : Nat) : SelCmd :=
  let o := Nat.land m.cand m.got
  let z := setMinus m.n m.cand m.got
  let f := selFold m.wts m.n o m.wab
  let (take, m) := match m.op with
    | .rank => (Nat.ble m.arg (popCount m.n m.above + popCount m.n o), m)
    | .wqnt => (!fLess f.1 m.arg, { m with badw := m.badw || f.2 })
    | .thr => (bitAt m.arg j, m)
  let m := if take then { m with cand := o, thr := m.thr ||| 2 ^ j }
    else { m with cand := z, above := m.above ||| o, wab := if m.op == .wqnt then f.1 else m.wab }
  match j with
  | 0 => m.afterWalk
  | j + 1 => m.startPlane j

/-- The phase's words are all done: the next phase begins in the next cycle. -/
def SelCmd.advance (m : SelCmd) : SelCmd :=
  match m.phase with
  | .mask =>
    let c := Nat.land m.cand m.got
    { m with cand := c, nact := popCount m.n c }.startPlane (m.b - 1)
  | .plane j => m.decide j
  | .weights => m.finish
  | .omask => { m with phase := .record, todo := [] }
  | _ => m

/-! ## Reads and writes of one cycle (R350, R353) -/

/-- A word the command reads; a poisoned one is undefined, and the first is logged (R349). -/
def State.selRead (s : State) (m : SelCmd) (a n : Nat) : Nat × SelCmd × State :=
  let (v, bad) := s.engRead m.wb a n
  if !bad then (v, m, s)
  else
    let key := s.windowKey m.wb a
    let s := if m.poison then s else s.logPoison s.poisonS0 m.ctx m.tenant key (min n (64 - key % 64)) 3
    let (f, s) := s.freeBits
    (f.toNat % 2 ^ (8 * n), { m with poison := true }, s)

/-- Candidates of the sets that the phase folds (R346, R347). -/
def SelCmd.folded (m : SelCmd) : Nat :=
  match m.phase with
  | .plane _ => Nat.land m.cand m.got
  | _ => if m.op == .wqnt then m.cand else m.above ||| m.picked

/-- The weights in word `w` of the sets that are folded; once the running sum of sl.wqnt has reached W no further candidate
is folded (R346, R347). -/
def State.selWeights (s : State) (m : SelCmd) (w : Nat) : SelCmd × State :=
  let set := m.folded
  let last := m.op == .wqnt && m.phase == .weights
  (List.range (min 32 (m.n - 32 * w))).foldl (fun r i =>
    if !bitAt set (32 * w + i) || (last && !fLess r.1.wsel m.arg) then r
    else
      let x := r.2.selRead r.1 (m.wbase + 4 * (32 * w + i)) 4
      let sum := if last then selAdd r.1.wsel x.1 else r.1.wsel
      ({ x.2.1 with wts := x.2.1.wts ++ [(32 * w + i, x.1)], wsel := sum }, x.2.2)) (m, s)

/-- One word of a reading phase. -/
def State.selWord (s : State) (m : SelCmd) (w : Nat) : SelCmd × State :=
  let bits := fun (a : Nat) =>
    let x := s.selRead m (a + 4 * w) 4
    ({ x.2.1 with got := x.2.1.got + x.1 * 2 ^ (32 * w) }, x.2.2)
  match m.phase with
  | .mask => bits m.mbase
  | .plane j =>
    let r := bits (m.pbase + j * (4 * selWords m.n))
    if m.op == .wqnt then r.2.selWeights r.1 w else r
  | .weights => s.selWeights m w
  | _ => (m, s)

/-- Bytes of the output mask in words `ws`; undefined when poison was met. -/
def State.selMask (s : State) (m : SelCmd) (ws : List Nat) : State :=
  let mask := m.above ||| m.sel
  ws.foldl (fun s w =>
    let (v, s) := if m.poison then (let r := s.freeBits; (r.1.toNat % 2 ^ 32, r.2)) else (fld mask (32 * w) 32, s)
    s.writeSpad (s.windowKey m.wb (m.obase + 4 * w)) (leBytes 4 v)) s

/-- A mask write clears the poison of granules it covers whole (R302, R349). -/
def State.selMaskDone (s : State) (m : SelCmd) (ws : List Nat) : State :=
  match ws with
  | [] => s
  | w :: _ => { s with poisonS := clearPoison s.poisonS (s.windowKey m.wb (m.obase + 4 * w)) (4 * ws.length) }

/-- One command in a new cycle. Its writes wait for what a release fence put before them (R279). -/
def State.selStep (s : State) (m : SelCmd) : SelCmd × State :=
  let may := s.barrierDone (s.ctx m.ctx).cxid.toNat m.bar
  match m.phase with
  | .record => (if may then { m with phase := .writing } else m, s)
  | .written => ({ m with phase := .complete }, s)
  | .writing => (m, s)
  | .complete => (m, s)
  | _ =>
    if m.phase == .omask && !may then (m, s)
    else
    let rate := selRate (m.phase == .weights || (m.op == .wqnt && m.phase != .mask && m.phase != .omask))
    let now := m.todo.take rate
    let rest := m.todo.drop rate
    let (m, s) := if m.phase == .omask then (m, (s.selMask m now).selMaskDone m now)
      else now.foldl (fun r w => r.2.selWord r.1 w) (m, s)
    let m := { m with todo := rest }
    (if rest.isEmpty then m.advance else m, s)

/-- SEL in a new cycle: a command issued in an earlier one goes on. -/
def State.selCycle (s : State) : State :=
  let r := s.sel.foldl (fun (r : List SelCmd × State) m => let x := r.2.selStep m; (r.1 ++ [x.1], x.2)) ([], s)
  { r.2 with sel := r.1 }

/-! ## Record and completion (R348, R350, R351) -/

/-- The result record. -/
def SelCmd.record (m : SelCmd) : Nat :=
  let mask := m.above ||| m.sel
  ofList 32 [m.thr, m.wabove, m.wsel, 0, m.nact, popCount m.n m.above, popCount m.n m.cand, popCount m.n mask,
    m.shortw.toNat + m.badw.toNat * 2, m.num]

/-- The command in a phase. -/
def State.selIn (s : State) (p : SelPhase) : Option SelCmd := s.sel.find? (·.phase == p)

/-- The command completes, and its unused cells go (R351). -/
def State.selFinish (s : State) (m : SelCmd) : State :=
  let last := m.c + m.dmax
  let s := s.finishOp m.ctx 8 m.num
  let s := { s with
    sel := s.sel.filter fun o => !(o.ctx == m.ctx && o.num == m.num)
    occ := s.occ.filter fun o => !(o.1 == m.ctx && o.2.2.1 == m.c && o.2.2.2 == last &&
      (o.2.1 == 12 || (m.banks (columnBytes * lcoreWidth s.mode.toNat)).contains (o.2.1 - (15 + 8 * m.wb)) && decide (15 ≤ o.2.1))) }
  s.releaseSpan m.ctx 12 (s.now + 1) last

def State.selWrite (s : State) (m : SelCmd) : State :=
  let (v, s) := if m.poison
    then (let r := s.freeBits; (fld r.1.toNat 0 258 + 2 ^ 258 + fld r.1.toNat 259 253 * 2 ^ 259, r.2)) else (m.record, s)
  let s := s.writeSpad (s.windowKey m.wb m.raddr) (leBytes 64 v)
  { s with sel := s.sel.map fun o => if o.ctx == m.ctx && o.num == m.num then { o with phase := .written } else o }

/-! ## Issue (R345, R351, R352) -/

/-- The staging words as a command; none on a bad operand, unless it is under a false guard (notes/assumptions/55.md). -/
def selOf (w : Work) (e : EngEnv) (op : SelOp) : Option SelCmd :=
  let n := fld e.w0 27 16 + 1
  let b := fld e.w0 21 5 + 1
  let arg := fld e.w3 0 32
  let m : SelCmd :=
    { op := op, ctx := w.c, num := w.nextNum 8, c := w.now, wb := w.x0.base, n := n, b := b, pbase := fld e.w0 0 21,
      men := bitAt e.w1 43, mbase := fld e.w1 22 21, wen := bitAt e.w1 21, wbase := fld e.w1 0 21, raddr := fld e.w2 22 21,
      mout := bitAt e.w2 21, obase := fld e.w2 0 21, incl := bitAt e.w3 32, arg := arg, dmax := 0, phase := .mask,
      cand := 2 ^ n - 1, nact := n, tenant := w.s0.tenantOf w.c, bar := vget w.x0.relSp 0 0 }
  let argBad := match op with
    | .rank => arg == 0 || decide (65536 < arg)
    | .wqnt => !m.wen || fld arg 23 8 == 255 || bitAt arg 31 || arg == 0
    | .thr => decide (2 ^ b ≤ arg)
  if !w.dry && (e.w0 / 2 ^ 43 != 0 || bitAt e.w0 26 || e.w1 / 2 ^ 44 != 0 || e.w2 / 2 ^ 43 != 0 || e.w3 / 2 ^ 33 != 0 ||
      (!m.men && m.mbase != 0) || (!m.wen && m.wbase != 0) || (!m.mout && m.obase != 0) || (op != .thr && m.incl) || argBad) then none
  else
    let m := { m with dmax := m.worst }
    some (if m.men then { m with todo := List.range (selWords n) } else m.startPlane (b - 1))

/-- The checks of R352 after bad-operand. -/
def Work.selChecks (w : Work) (m : SelCmd) : Option Stop :=
  let span := m.dmax + 1
  let cells : Cells := (m.banks w.padEnd).flatMap fun q => (List.range span).map fun i => (w.now + i, q)
  let as := [m.pbase, m.raddr] ++ (if m.wen then [m.wbase] else []) ++ (if m.men then [m.mbase] else []) ++
    (if m.mout then [m.obase] else [])
  if w.dry then none
  else if !w.ownsSpan 12 w.now span || (List.range span).any fun i => w.s.occupied 12 (w.now + i) then some (.trap cOverrun 12)
  else match w.badCell cells with
    | some r => some (.trap cOverrun r)
    | none => match as.find? fun a => a % 64 != 0 with
      | some a => some (.trap cAlignment a)
      | none => (m.spans.find? fun a => decide (w.padEnd < a.1 + a.2)).map fun a => .trap cPermission a.1

/-- Issue of a SEL command (R345, R351). -/
def Work.selIssue (w : Work) (e : EngEnv) (op : SelOp) : Work :=
  match selOf w e op with
  | none => w.stop e.slot cBadOperand
  | some m => match w.selChecks m with
    | some x => w.stopWith e.slot x
    | none =>
      let span := m.dmax + 1
      let banks := (m.banks w.padEnd).filter fun q => decide (q < 8 * w.k.width)
      let w := w.takeNum 8
      let b := w.x0.base
      let s := w.s.occupy w.c 12 w.now span
      let s := banks.foldl (fun (s : State) q => s.occupy w.c (15 + 8 * b + q) w.now span) s
      { w with s := { s with sel := s.sel ++ [m] }, banks := banks.map (15 + 8 * b + ·) ++ w.banks }

end Sys2Proof.Machine
end

