-- ==== Sys2Proof/Machine/Ckp.lean ====
section
/-! DEFINITION. The checkpoint unit (spec/20_generation.md R355-R363). -/

namespace Sys2Proof.Machine

/-! ## Commands (R357, R358) -/

def CkCmd.chunks (m : CkCmd) : Nat := m.len / 128

/-- E: the cycles a command takes after its issue cycle. -/
def CkCmd.span (m : CkCmd) : Nat :=
  match m.op with
  | .snap => m.chunks + 1
  | .load => m.chunks
  | .commit => m.chunks + 1
  | .drop => 1

/-- Virtual addresses of chunk `q` of the slot's data, and of directory entry `i`. -/
def CkCmd.chunkVa (m : CkCmd) (q : Nat) : Nat := (m.base + 4096 * (1 + m.slot * m.sp) + 128 * q) % 2 ^ 57

def CkCmd.entryVa (m : CkCmd) (i : Nat) : Nat := (m.base + 32 * i) % 2 ^ 57

/-- The staging words as a command and its injection port; none on a bad operand, unless it is under a false guard (notes/assumptions/49.md, 55.md). -/
def ckOf (w : Work) (e : EngEnv) (op : CkOp) : Option (CkCmd × Nat) :=
  let reads1 := op != .drop
  let w1 := if reads1 then e.w1 else 0
  let w2 := if op == .load then 0 else e.w2
  let w3 := if op == .commit then e.w3 else 0
  let sp := fld w1 41 4 + 1
  let len := if reads1 then 256 * (fld w1 33 8 + 1) else 0
  let pub := bitAt w3 63
  if !w.dry && (e.w0 / 2 ^ 57 != 0 || fld w1 50 14 != 0 || fld w1 21 11 != 0 || fld w3 57 2 != 0 ||
      (!pub && (fld w3 59 4 != 0 || fld w3 0 57 != 0)) || decide (4096 * sp < len)) then none
  else
    some ({ op := op, ctx := w.c, num := w.nextNum 9, c := w.now, wb := w.x0.base, len := len, base := e.w0,
            slot := fld w1 45 5, sp := sp, sa := fld w1 0 21, node := if op == .snap then w2 else 0,
            pval := if op == .commit then fld w2 32 32 else 0, mask := if op == .snap then 0 else fld w2 0 32, pub := pub,
            scope := fld w3 59 4, pva := fld w3 0 57, stamp := w.s.storeSeq, bars := w.x0.relSp,
            acq := w.acqBound, tenant := w.s0.tenantOf w.c }, fld w1 32 1)

/-- The bank cells of the logical core that ck.snap uses. -/
def CkCmd.cells (m : CkCmd) (padEnd : Nat) : Cells :=
  if m.op == .snap then ((List.range m.chunks).filter fun q => decide (m.sa + 128 * q < padEnd)).map fun q =>
    (m.c + 1 + q, (m.sa + 128 * q) / 65536)
  else []

/-- A window bank at or beyond the kernel's that a command's scratchpad range touches (R252, R359). -/
def CkCmd.beyond (m : CkCmd) (width padEnd : Nat) : Option Nat :=
  if m.len == 0 then none
  else ([m.sa / 65536, (m.sa + m.len - 1) / 65536].find? fun q => decide (8 * width ≤ q) && decide (65536 * q < padEnd)).map (15 + ·)

/-- The injection port a CKP command uses. -/
def Work.ckPort (w : Work) (inj : Nat) : Option Nat := physRes w.s0.mode.toNat w.x0.base (47 + inj)

/-- The checks of R359 after bad-operand. -/
def Work.ckChecks (w : Work) (m : CkCmd) (inj : Nat) : Option Stop :=
  let ckBad := !w.ownsSpan 14 w.now (m.span + 1) || (List.range (m.span + 1)).any fun i => w.s.occupied 14 (w.now + i)
  let injBad := (List.range m.span).any fun i => match w.ckPort inj with
    | some r => !w.s0.owns w.c r (w.now + 1 + i) || w.s.occupied r (w.now + 1 + i)
    | none => true
  if w.dry then none
  else if ckBad then some (.trap cOverrun 14)
  else match w.badCell (m.cells w.padEnd) with
    | some r => some (.trap cOverrun r)
    | none =>
      if injBad then some (.trap cOverrun (47 + inj))
      else match m.beyond w.k.width w.padEnd with
        | some r => some (.trap cOverrun r)
        | none =>
          if m.base % 4096 != 0 then some (.trap cAlignment m.base)
          else if m.sa % 256 != 0 then some (.trap cAlignment m.sa)
          else if m.pva % 4 != 0 then some (.trap cAlignment m.pva)
          else if m.len != 0 && decide (w.padEnd < m.sa + m.len) then some (.trap cPermission m.sa)
          else if m.pub && w.x0.staleScope m.scope then some (.trap cStaleScope 0)
          else none

/-- Issue of a CKP command (R359). -/
def Work.ckpIssue (w : Work) (e : EngEnv) (op : CkOp) : Work :=
  let w := if op == .commit && bitAt e.w3 63 && !w.dry then (w.fillWait e.slot).orderedCollapse e.slot else w
  match ckOf w e op with
  | none => w.stop e.slot cBadOperand
  | some (m, inj) => match w.ckChecks m inj with
    | some x => w.stopWith e.slot x
    | none =>
      let w := (w.takeNum 9).useCells (m.cells w.padEnd)
      let s := w.s.occupy w.c 14 w.now (m.span + 1)
      let s := match w.ckPort inj with | some r => s.occupy w.c r (w.now + 1) m.span | none => s
      { w with s := { s with ckp := s.ckp ++ [m] } }

/-! ## Accesses (R360, R361) -/

def State.modCk (s : State) (m : CkCmd) (f : CkCmd → CkCmd) : State :=
  { s with ckp := s.ckp.map fun o => if o.ctx == m.ctx && o.num == m.num then f o else o }

/-- The place of an access to the store; a page that is not global is refused (notes/assumptions/33.md). -/
def State.ckPlace (s : State) (m : CkCmd) (wr : Bool) (va n : Nat) : Except XFail Place :=
  match s.runs m.tenant wr 2 va n with
  | .ok [(p, _)] => if p.space == 0 then .ok p else .error (.denied va false)
  | .ok _ => .error (.denied va false)
  | .error x => .error x

/-- An access that fails is parked, or denied on counter 9 (R360, R315). The access was counted in `left`. -/
def State.ckFail (s : State) (m : CkCmd) (part : CkPart) (x : XFail) : State :=
  let park := fun (s : State) (va : Nat) (fut : Option Nat) (home : Bool) =>
    { s.modCk m fun o => { o with parked := o.parked ++ [{ part := part, va := va, fut := fut, home := home, order := s.ckParks }] } with
      ckParks := s.ckParks + 1 }
  match x with
  | .unready va => park s va none true
  | .denied va p =>
    let s := (s.logWalk (s.translate m.tenant va) (some (m.ctx, m.tenant))).modCk m fun o =>
      { o with left := o.left - 1, published := o.published || part == .publish }
    s.latchDenial m.ctx 9 va m.num p
  | .absent va wr =>
    let (fut, s) := s.requestPage s.dieNo m.tenant va wr true
    park s va fut false

/-- A write is on its way; `poison` are granules of it that come from poisoned ones. -/
def State.ckSend (s : State) (m : CkCmd) (part : Space × Nat × List Byte) (poison : List Nat) : State :=
  let (d, s) := s.delay
  { s with ckLand := s.ckLand ++ [{ due := s.now + 1 + d, ctx := m.ctx, num := m.num, part := part, stamp := m.stamp,
                                     bars := m.bars, acq := m.acq, poison := poison }] }

/-- The first poisoned granule a command reads is logged (R303, R360). -/
def State.ckLog (s : State) (m : CkCmd) (ps : List Nat) (a n loc : Nat) : State :=
  if m.logged then s
  else match (granules a n).find? ps.contains with
    | some g => (s.logPoison ps m.ctx m.tenant (64 * g) 1 loc).modCk m fun o => { o with logged := true }
    | none => s

/-- The two granules of a chunk as they are copied to `dst`: the bytes of a poisoned one are undefined (R360). -/
def State.ckBytes (s : State) (gs : List (List Byte × Bool)) (dst : Nat) : List Byte × List Nat × State :=
  gs.zipIdx.foldl (fun r g =>
    if g.1.2 then (let f := r.2.2.freeBits; (r.1 ++ leBytes 64 f.1.toNat, r.2.1 ++ [dst / 64 + g.2], f.2))
    else (r.1 ++ g.1.1, r.2.1, r.2.2)) ([], [], s)

/-- What the copy of chunk `q` needs: its page, and where it is read, its home (R282, R403). -/
def State.ckChunkPlace (s : State) (m : CkCmd) (q : Nat) : Except XFail Place :=
  (s.ckPlace m (m.op == .snap) (m.chunkVa q) 128).bind fun p =>
    if m.op != .snap && !s.runsReady m.ctx m.stamp m.acq [(p, 128)] then .error (.unready (m.chunkVa q)) else .ok p

/-- Copy chunk `q`: the write leaves, or the access fails. -/
def State.ckChunk (s : State) (m : CkCmd) (q : Nat) : State :=
  let key := s.windowKey m.wb (m.sa + 128 * q)
  match s.ckChunkPlace m q with
  | .error x => s.ckFail m (.chunk q) x
  | .ok p =>
    if m.op == .snap then
      let r := s.ckBytes ([0, 64].map fun o => (memRead s.spad0 (key + o) 64, isPoisoned s.poisonS0 (key + o) 64)) p.pa
      (r.2.2.ckLog m s.poisonS0 key 128 3).ckSend m (.global, p.pa, r.1) r.2.1
    else
      let r := s.ckBytes ([0, 64].map fun o => s.homeRead { p with pa := p.pa + o } 64) key
      ((r.2.2.ckLog m s.poisonG p.pa 128 0).noteWritten { ctx := m.ctx, counter := 9, num := m.num } p.pa 128).ckSend m
        (.scratch s.coreNum.toNat, key, r.1) r.2.1

/-- Write of a directory entry's bytes. -/
def State.ckEntry (s : State) (m : CkCmd) (i : Nat) (data : List Byte) : State :=
  let va := m.entryVa i
  match s.ckPlace m true va data.length with
  | .error x => s.ckFail m (.entry i data) x
  | .ok p => s.ckSend m (.global, p.pa, data) []

/-- The directory writes of a command (R356, R358): entry and bytes. -/
def CkCmd.dirWrites (m : CkCmd) : List (Nat × List Byte) :=
  let frees := (List.range 32).filterMap fun i =>
    if bitAt m.mask i && !(m.op == .commit && i == m.slot) then some (i, leBytes 1 0) else none
  match m.op with
  | .snap => [(m.slot, leBytes 32 (1 + m.len * 2 ^ 32 + m.node * 2 ^ 64))]
  | .load => []
  | .commit => (m.slot, leBytes 1 2) :: frees
  | .drop => frees

/-! ## Steps -/

def CkCmd.chunkDue (m : CkCmd) (now : Nat) : Bool := decide (m.k < m.chunks) && decide (m.c + 1 + m.k ≤ now)

def CkCmd.dirDue (m : CkCmd) (now : Nat) : Bool :=
  m.op != .load && !m.dir && m.k == m.chunks && decide (m.c + 1 + m.chunks ≤ now) && (m.op != .commit || m.left == 0)

/-- A parked access may go: at most one in four cycles where it waited for a page (R315, R360). -/
def State.ckMay (s : State) (p : CkPark) : Bool :=
  p.ready && (match p.fut with
    | some f => s.futureReady f && (s.futureDenied f || decide (s.ckRetryAt ≤ s.now))
    | none => p.home)

/-- The parked access of the unit that goes next, in the order in which they were parked; a publication goes its own way. -/
def State.ckRetryNext (s : State) : Option (CkCmd × CkPark) :=
  (sortBy (fun (a b : CkCmd × CkPark) => decide (a.2.order ≤ b.2.order))
    (s.ckp.flatMap fun m => (m.parked.filter fun p => p.part != .publish && s.ckMay p).map fun p => (m, p))).head?

/-- A landing that can take place: scratchpad ones first, then by rank. -/
def State.ckLandNext (s : State) : Option CkLanding :=
  let ls := s.ckLand.filter fun l => decide (l.due ≤ s.now) && s.engineMay l.ctx l.stamp l.acq l.bars [l.part]
  match ls.find? fun l => match l.part.1 with | .scratch _ => true | _ => false with
  | some l => some l
  | none => (sortBy (fun (a b : CkLanding) => decide (a.ctx < b.ctx) || (a.ctx == b.ctx && decide (a.num ≤ b.num))) ls).head?

/-- A parked access goes again, or is denied. -/
def State.ckRetry (s : State) (m : CkCmd) (p : CkPark) : State :=
  let s := s.modCk m fun o => { o with parked := o.parked.erase p }
  if p.fut.any s.futureDenied then s.ckFail m p.part (.denied p.va false)
  else
    let s : State := if p.home then s else { s with ckRetryAt := s.now + 4 }
    match p.part with
    | .chunk q => s.ckChunk m q
    | .entry i data => s.ckEntry m i data
    | .publish => s

/-- What the unit can do next: a landing, a chunk, the directory writes, or a retry. -/
inductive CkAct where
  | land (l : CkLanding)
  | chunk (m : CkCmd)
  | dir (m : CkCmd)
  | retry (m : CkCmd) (p : CkPark)
  deriving DecidableEq, Repr

def State.ckNext (s : State) : Option CkAct :=
  match s.ckLandNext with
  | some l => some (.land l)
  | none => match s.ckp.find? (·.chunkDue s.now) with
    | some m => some (.chunk m)
    | none => match s.ckp.find? (·.dirDue s.now) with
      | some m => some (.dir m)
      | none => s.ckRetryNext.map fun r => .retry r.1 r.2

/-- One action of the unit (R358). -/
def State.ckpCopy (s : State) : State :=
  match s.ckNext with
  | none => s
  | some (.land l) =>
    let s := ({ s with ckLand := s.ckLand.erase l } : State).putPart (some ⟨l.ctx, 9, l.num⟩) false l.part
    let s := s.markPoison l.part.1 l.poison
    { s with ckp := s.ckp.map fun o => if o.ctx == l.ctx && o.num == l.num then { o with left := o.left - 1 } else o }
  | some (.chunk m) => (s.modCk m fun o => { o with k := o.k + 1, left := o.left + 1 }).ckChunk m m.k
  | some (.dir m) =>
    let ws := m.dirWrites
    let (d, s) := s.delay
    let s := s.modCk m fun o => { o with dir := true, left := o.left + ws.length, pubDue := s.now + 1 + d }
    ws.foldl (fun s x => s.ckEntry m x.1 x.2) s
  | some (.retry m p) => s.ckRetry m p

/-! ## Publication (R362, R363) -/

/-- What the publication finds at its address. -/
def State.ckPubPlace (s : State) (m : CkCmd) : Access :=
  if m.pva < windowEnd then .denied
  else match (s.translate m.tenant m.pva).access m.pva true true with
    | .ok p => if p.tent || (p.space == 0 && s.headerHit m.tenant m.pva 4) then .denied else .ok p
    | a => a

/-- The links that may carry a publication to device `dev` (R389). -/
def State.ckLink (s : State) (m : CkCmd) (dev : Nat) : BitVec 12 := m.link.getD (s.routeMask dev)

/-- The publication is the command's next access: its directory writes are acknowledged. -/
def State.ckPubTurn (s : State) (m : CkCmd) : Bool :=
  m.op == .commit && m.pub && !m.published && m.dir && m.left == 0 && decide (m.pubDue ≤ s.now)

def State.ckPubReady (s : State) (m : CkCmd) : Bool :=
  s.ckPubTurn m && s.barrierDone (s.ctx m.ctx).cxid.toNat m.stamp &&
  (match m.parked.find? (·.part == .publish) with
   | some p => p.ready
   | none => true) && s.mayTranslate m.tenant m.pva &&
  (match s.ckPubPlace m with
   | .ok p => if p.space == 0 then s.spanReady p.pa 4 else p.space != 1 || s.sendable (s.ckLink m p.dev)
   | _ => true)

/-- The command whose publication performs next: that of the lowest context and number (R271). -/
def State.ckPubNext (s : State) : Option CkCmd :=
  (sortBy (fun (a b : CkCmd) => decide (a.ctx < b.ctx) || (a.ctx == b.ctx && decide (a.num ≤ b.num)))
    (s.ckp.filter s.ckPubReady)).head?

def State.ckpPublish (s : State) : State :=
  match s.ckPubNext with
  | none => s
  | some m =>
    let denied := m.parked.any fun p => p.part == .publish && p.fut.any s.futureDenied
    let s := s.modCk m fun o => { o with parked := o.parked.filter (·.part != .publish) }
    if denied then s.ckFail m .publish (.denied m.pva false)
    else match s.ckPubPlace m with
      | .absent => s.ckFail m .publish (.absent m.pva true)
      | .denied => s.ckFail m .publish (.denied m.pva false)
      | .poisoned => s.ckFail m .publish (.denied m.pva true)
      | .ok p =>
        let s := s.answered (p.space == 1)
        let (sp, a) := p.at_
        let (ps, k) := match sp with
          | .global => (s.poisonG, a)
          | .peer d => (s.poisonP, peerKey d a)
          | _ => ([], a)
        if isPoisoned ps k 4 then (s.logPoison ps m.ctx m.tenant k 4 0).ckFail m .publish (.denied m.pva true)
        else (s.putPart (some ⟨m.ctx, 9, m.num⟩) false (sp, a, leBytes 4 m.pval)).modCk m fun o => { o with published := true }

/-! ## Completion -/

def CkCmd.finished (m : CkCmd) : Bool :=
  m.k == m.chunks && m.left == 0 && (m.op == .load || m.dir) && (!m.pub || m.published)

/-- A command completes and counter 9 advances (R358). -/
def State.ckpFinish (s : State) : State :=
  match s.ckp.find? CkCmd.finished with
  | none => s
  | some m =>
    ({ s with ckp := s.ckp.filter fun o => !(o.ctx == m.ctx && o.num == m.num) } : State).finishOp m.ctx 9 m.num

/-- What a parked access waits for is there. -/
def State.ckParkNow (s : State) (m : CkCmd) (p : CkPark) : CkPark :=
  if p.home then
    { p with ready := match p.part with
        | .chunk q => (match s.ckChunkPlace m q with | .error (.unready _) => false | _ => true)
        | _ => s.mayTranslate m.tenant p.va }
  else
    let f := p.fut.or (s.findFuture s.dieNo m.tenant p.va)
    { p with fut := f, ready := f.any s.futureReady }

/-- What the unit learns at the start of a cycle: accesses that may go, and the links of a publication that is to leave. -/
def State.ckpCycle (s : State) : State :=
  { s with ckp := s.ckp.map fun (m : CkCmd) =>
      let dev : Option Nat := if s.ckPubTurn m then (match s.ckPubPlace m with | .ok p => if p.space == 1 then some p.dev else none | _ => none) else none
      let link := m.link.or (dev.map s.routeMask)
      { m with
        link := link
        stuck := if dev.isSome && !link.any s.maskUp then some (m.stuck.getD s.now) else none
        parked := m.parked.map (s.ckParkNow m) } }

/-- A publication with no link for 2^20 cycles is denied (R389). -/
def State.ckTimedOut (s : State) : Option CkCmd :=
  s.ckp.find? fun m => match m.stuck with | some t => decide (t + 2 ^ 20 ≤ s.now) | none => false

end Sys2Proof.Machine
end

