-- ==== Sys2Proof/Machine/Syn.lean ====
section
/-! DEFINITION. The synchronisation engine: phasers, atomics and reductions (spec/16_sync.md R324-R342). -/

namespace Sys2Proof.Machine

/-! ## Commands at issue (R330-R333) -/

def SyOp.isPhaser : SyOp → Bool
  | .amo => false
  | .red => false
  | _ => true

def SyOp.isSignal : SyOp → Bool
  | .sig => true
  | .next => true
  | _ => false

/-- The fields of w3. -/
structure SyW3 where
  gang : Bool
  w32 : Bool
  sem : Nat
  scope : Nat
  rcd : Bool
  raddr : Nat

def syW3 (w : Nat) : SyW3 :=
  { gang := bitAt w 29, w32 := bitAt w 28, sem := fld w 26 2, scope := fld w 22 4, rcd := bitAt w 21, raddr := fld w 0 21 }

/-- The bad-operand cases of R333. -/
def syBad (op : SyOp) (p : Nat) (e : EngEnv) : Bool :=
  let g := syW3 e.w3
  let ring := bitAt e.w0 63
  let ld := fld e.w0 56 4
  let reads := if op.isPhaser then op == .base else g.sem != 0
  e.w3 / 2 ^ 30 != 0 || (!g.rcd && g.raddr != 0) || (!reads && g.scope != 0) || (op != .base && g.gang) ||
  (if op.isPhaser then
    fld e.w0 60 3 != 0 || fld e.w0 32 24 != 0 || fld e.w0 25 7 != 0 || ld > 8 || (op == .base && ring) ||
    (op != .base && !ring && ld != 0) || e.w1 / 2 ^ 32 != 0 || g.w32 || g.sem != 0 ||
    (op == .base && e.w2 / 2 ^ 16 != 0) || (op == .drop && decide (3 ≤ e.w2))
  else
    e.w0 / 2 ^ 57 != 0 || decide (e.w0 < windowEnd) || (op == .red && (bitAt g.sem 0 || (p != 0 && !g.w32))))

/-- The contents of scope entry `n` for the issuing core (R273). -/
def State.scopeEntry (s : State) (x : Ctx) (n : Nat) : ScopeEntry :=
  if n == 0 then { val := true, slices := BitVec.allOnes 64, cores := BitVec.twoPow 256 s.coreNum.toNat }
  else if n == 15 then { val := true, peer := true, host := true, slices := BitVec.allOnes 64, cores := BitVec.allOnes 256 }
  else vget x.scopes n {}

/-- Issue of a SYN command. -/
def Work.synIssue (w : Work) (e : EngEnv) (op : SyOp) (p : Nat) : Work :=
  let g := syW3 e.w3
  let w := if !op.isPhaser && decide (2 ≤ g.sem) then (w.fillWait e.slot).orderedCollapse e.slot else w
  let size := if g.w32 then 4 else 8
  if syBad op p e then w.stop e.slot cBadOperand
  else if g.raddr % 16 != 0 then w.stop e.slot cAlignment g.raddr
  else if !op.isPhaser && e.w0 % size != 0 then w.stop e.slot cAlignment e.w0
  else if g.rcd && decide (w.windowTop < g.raddr + 16) then w.stop e.slot cPermission g.raddr
  else if (op == .base || (!op.isPhaser && g.sem != 0)) && w.x0.staleScope g.scope then w.stop e.slot cStaleScope
  else if w.x.synQ.length ≥ 32 then w.stopWith e.slot (.yield (.synOut (w.x.synQ.headD 0)))
  else
    let n := w.nextNum 10
    let t := w.s0.boundTask w.c
    let m : SynCmd :=
      { op := op, p := p, ctx := w.c, num := n, wb := w.x0.base, tenant := w.s0.tenantOf w.c, task := (t.map (·.id)).getD 0,
        fra := (t.map (·.fra)).getD 0, w0 := e.w0, w1 := e.w1, w2 := e.w2, w3 := e.w3, scope := w.s0.scopeEntry w.x0 g.scope,
        stamp := w.s.storeSeq, bars := w.x0.relSp, acq := w.acqBound }
    let w := (w.takeNum 10).modX fun x => { x with synQ := x.synQ ++ [n] }
    { w with s := { w.s with syn := w.s.syn ++ [m] } }

/-! ## Departure from the port (R330, R336) -/

def State.modSyn (s : State) (m : SynCmd) (f : SynCmd → SynCmd) : State :=
  { s with syn := s.syn.map fun o => if o.ctx == m.ctx && o.num == m.num then f o else o }

/-- The oldest command in a context's port queue. -/
def State.synHead (s : State) (c : Nat) : Option SynCmd :=
  match (s.ctx c).synQ with
  | [] => none
  | n :: _ => s.syn.find? fun m => m.ctx == c && m.num == n

def State.synSend (s : State) (m : SynCmd) : State :=
  let (d, s) := s.delay
  (({ s with resultSeq := s.resultSeq + 1 } : State).modSyn m fun o =>
    { o with sent := true, order := s.resultSeq, due := s.now + 1 + d }).modCtx m.ctx fun x => { x with synQ := x.synQ.tail }

/-- Commands other than signals leave their port, one of each context in a cycle. -/
def State.synDepart (s : State) : State :=
  (List.range 8).foldl (fun s c => match s.synHead c with
    | some m => if m.op.isSignal then s else s.synSend m
    | none => s) s

/-- A signal at the head of the queue whose earlier writes, and the stores its context has put behind an acquire, have performed (R270,
R336, notes/assumptions/85.md). -/
def State.signalReady (s : State) (c : Nat) : Option SynCmd :=
  match s.synHead c with
  | some m =>
    if m.op.isSignal && (s.storesBefore c m.stamp m.acq).isEmpty && m.need.all (fun q => !((s.ctx c).timeline q.1).out.contains q.2)
    then some m else none
  | none => none

def State.synSignal (s : State) (c : Nat) : State :=
  match s.signalReady c with
  | some m => s.synSend m
  | none => s

/-- The writes a signal of context `x` numbered `n` waits for: CPY operations and earlier SYN operations (notes/assumptions/54.md). -/
def Ctx.signalNeeds (x : Ctx) (n : Nat) : List (Nat × Nat) :=
  ([4, 5, 6, 7].flatMap fun i => (x.timeline i).out.map fun k => (i, k)) ++
    ((x.timeline 10).out.filter (· < n)).map fun k => (10, k)

/-! ## Phaser records (R324-R327) -/

def Phaser.bits (r : Phaser) : Nat :=
  r.cores.toNat + r.slices.toNat * 2 ^ 256 + r.host.toNat * 2 ^ 320 + r.peer.toNat * 2 ^ 321 + r.val.toNat * 2 ^ 334 +
    r.gang.toNat * 2 ^ 335 + r.wcnt % 2 ^ 16 * 2 ^ 400 + ofSigned 16 r.dreg1 * 2 ^ 416 + r.narr1 % 2 ^ 16 * 2 ^ 432 +
    r.narr % 2 ^ 16 * 2 ^ 448 + ofSigned 16 r.nreg * 2 ^ 464 + r.phase % 2 ^ 32 * 2 ^ 480

/-- A record leaves SYN: it is written to its area unless that is poisoned. -/
def State.phWriteBack (s : State) (r : Resident) : State :=
  if s.phPoisoned r.tenant r.die r.index then s
  else
    let a := s.phAddr r.tenant r.die r.index
    { s.writeGlobal a (leBytes 64 r.ph.bits) none with
      phNreg := s.phNreg.filter (·.1 != a) ++ if r.ph.nreg < 0 then [(a, r.ph.nreg)] else [] }

/-- Room for one more record of a die: a free choice names the one that leaves (R325). -/
def State.phRoom (s : State) (die : Nat) : State :=
  let mine := s.phasers.filter (·.die == die)
  if mine.length < 4096 then s
  else
    let (ch, s) := s.choice
    match mine[ch % mine.length]? with
    | some v => { s.phWriteBack v with phasers := s.phasers.filter (· != v) }
    | none => s

def State.setPhaser (s : State) (tenant die i : Nat) (ph : Phaser) : State :=
  if s.phasers.any fun r => r.tenant == tenant && r.die == die && r.index == i then
    { s with phasers := s.phasers.map fun (r : Resident) =>
        if r.tenant == tenant && r.die == die && r.index == i then { r with ph := ph } else r }
  else
    let s := s.phRoom die
    { s with phasers := s.phasers ++ [{ tenant := tenant, die := die, index := i, ph := ph }] }

/-- Whether a wait for phase `p` is satisfied (R337). -/
def Phaser.reached (r : Phaser) (p : Nat) : Bool := r.val && decide (toSigned 32 (r.phase + 2 ^ 32 - p % 2 ^ 32) ≥ 0)

/-- Tasks whose arrived waits on the record are satisfied leave it; each becomes ready for the record's cores, with the
L1 lines of its scope invalid where it resumes (R327, R337). -/
def State.phWake (s : State) (tenant die i : Nat) : State :=
  let r := s.phaser tenant die i
  let hit := fun (x : PhWait) => x.arrived && x.tenant == tenant && x.die == die && x.index == i && r.reached x.phase
  let ids := (s.phWaits.filter hit).map (·.task)
  if ids.isEmpty then s
  else
    let s := ({ s with phWaits := s.phWaits.filter fun x => !hit x } : State).setPhaser tenant die i { r with wcnt := r.wcnt - ids.length }
    { s with tasks := s.tasks.map fun (t : Task) =>
        if ids.contains t.id then { t with wait := .none, cores := r.cores, inval := t.inval ||| r.slices } else t }

/-- One advance. -/
def Phaser.advance (r : Phaser) : Phaser :=
  { r with phase := (r.phase + 1) % 2 ^ 32, nreg := r.nreg + r.dreg1, dreg1 := 0, narr := r.narr1, narr1 := 0 }

/-- Advance while the condition of R327 holds: at most twice. -/
def Phaser.settle : Nat → Phaser → Phaser
  | 0, r => r
  | fuel + 1, r => if 1 ≤ r.nreg && r.nreg ≤ (r.narr : Int) then Phaser.settle fuel r.advance else r

/-! ## Phaser commands (R328, R329, R334-R336, R339) -/

/-- Die, index and phase that a command names. -/
def SynCmd.names (m : SynCmd) : Nat × Nat × Nat :=
  let base := fld m.w0 0 32
  let j := fld m.w1 0 32
  let ld := fld m.w0 56 4
  if bitAt m.w0 63 then (fld base 24 1, (fld base 0 24 + j % 2 ^ ld) % 2 ^ 24, j >>> ld) else (fld base 24 1, fld base 0 24, j)

/-- Records that a command touches: die, first index, number. -/
def SynCmd.records (m : SynCmd) : Nat × Nat × Nat :=
  let n := m.names
  (n.1, n.2.1, if m.op == .base then 2 ^ fld m.w0 56 4 else 1)

/-- The homes that a phaser command reaches for records `i` to `i + n - 1` are ready (R325, R403): those of records that SYN does not
hold, or writes anew, and of those that may have to leave it. -/
def State.phReady (s : State) (tenant die i n : Nat) (anew : Bool) : Bool :=
  let home := fun (t k : Nat) => s.spanReady (s.phAddr t die k) 64
  let mine := s.phasers.filter (·.die == die)
  s.synUp die && (decide (mine.length + n ≤ 4096) || mine.all fun r => home r.tenant r.index) &&
  (List.range n).all fun k => decide ((s.phArea tenant die).2 ≤ i + k) || home tenant (i + k) ||
    (!anew && mine.any fun r => r.tenant == tenant && r.index == i + k)

/-- Relation of a phase to a record: current, next, or stale. -/
def Phaser.isNow (r : Phaser) (f : Nat) : Bool := f % 2 ^ 32 == r.phase

def Phaser.isNext (r : Phaser) (f : Nat) : Bool := f % 2 ^ 32 == (r.phase + 1) % 2 ^ 32

/-- A count that has left its 16 bits: the manual states no result (notes/assumptions/18.md). -/
def State.count16 (s : State) (n : Nat) : Nat × State :=
  if n < 2 ^ 16 then (n, s) else (let r := s.choice; (r.1 % 2 ^ 16, r.2))

/-- A free 64-bit value. -/
def State.freeWord (s : State) : Nat × State := let r := s.freeBits; (r.1.toNat % 2 ^ 64, r.2)

/-- Tasks whose waits on the record have arrived and are held (R326, R337). -/
def State.phWaiting (s : State) (tenant die i : Nat) : Nat :=
  (s.phWaits.filter fun x => x.arrived && x.tenant == tenant && x.die == die && x.index == i).length

/-- sy.base (R334): status and value. Its writes carry the issuer's cxid (R261). -/
def State.synBase (s : State) (m : SynCmd) : (Nat × Nat) × State :=
  let (die, i0, d) := m.records
  if i0 + d > (s.phArea m.tenant die).2 then (let r := s.freeWord; ((3, r.1), r.2))
  else
    let s := (List.range d).foldl (fun s k =>
      let i := i0 + k
      let ph : Phaser :=
        { phase := fld m.w1 0 32, nreg := (fld m.w2 0 16 : Int), wcnt := s.phWaiting m.tenant die i, gang := bitAt m.w3 29,
          val := true, peer := m.scope.peer, host := m.scope.host, slices := m.scope.slices, cores := m.scope.cores }
      let a := s.phAddr m.tenant die i
      let s := (s.writeGlobal a (leBytes 64 ph.bits) (some (s.ctx m.ctx).cxid.toNat)).noteWritten ⟨m.ctx, 10, m.num⟩ a 64
      let s := { s with members := s.members.filter fun x => !(x.tenant == m.tenant && x.die == die && x.index == i) }
      (s.setPhaser m.tenant die i ph).phWake m.tenant die i) s
    ((0, fld m.w1 0 32), s)

/-- The count a registration or a drop changes: nreg or dreg1 by `by`; none when the result is out of range. -/
def Phaser.register (r : Phaser) (now : Bool) (by_ : Int) : Option Phaser :=
  let r' := if now then { r with nreg := r.nreg + by_ } else { r with dreg1 := r.dreg1 + by_ }
  if r'.nreg > 65535 || r'.nreg + r'.dreg1 < 0 || r'.nreg + r'.dreg1 > 65535 then none else some r'

/-- The member table after a registration; none when the gang is full or the task is in another (R335, R339) (notes/assumptions/51.md). -/
def State.joinGang (s : State) (m : SynCmd) (die i f : Nat) (signals : Bool) : Option State :=
  let here := fun (x : Member) => x.tenant == m.tenant && x.die == die && x.index == i
  let rest := s.members.filter fun x => !(here x && x.fra == m.fra)
  if (s.members.any fun x => x.task == m.task && !here x) || decide (64 ≤ (rest.filter here).length) then none
  else some { s with members := rest ++ [{ tenant := m.tenant, die := die, index := i, fra := m.fra, task := m.task,
                                           last := (f + 2 ^ 32 - 1) % 2 ^ 32, signals := signals }] }

def State.leaveGang (s : State) (m : SynCmd) (die i : Nat) : State :=
  { s with members := s.members.filter fun x => !(x.tenant == m.tenant && x.die == die && x.index == i && x.fra == m.fra) }

/-- The record after a command, tested under R327, with its waiters. -/
def State.phCommit (s : State) (m : SynCmd) (die i : Nat) (r : Phaser) : (Nat × Nat) × State :=
  let r := Phaser.settle 3 r
  ((0, r.phase), (s.setPhaser m.tenant die i r).phWake m.tenant die i)

/-- sy.reg and sy.drop (R335) on a record that is valid and in scope. -/
def State.synMember (s : State) (m : SynCmd) (die i f : Nat) (r : Phaser) : (Nat × Nat) × State :=
  let drop := m.op == .drop
  let mode := if drop then fld m.w2 0 2 else m.p
  let signals := mode == 0 || mode == 2
  if signals && !(r.isNow f || r.isNext f) then ((1, r.phase), s)
  else match (if signals then r.register (r.isNow f) (if drop then -1 else 1) else some r) with
    | none => ((4, r.phase), s)
    | some r' =>
      if !r.gang then s.phCommit m die i r'
      else if drop then (s.leaveGang m die i).phCommit m die i r'
      else match s.joinGang m die i f signals with
        | none => ((5, r.phase), s)
        | some s => s.phCommit m die i r'

/-- sy.sig and sy.next (R336) on a record that is valid and in scope. -/
def State.synSignals (s : State) (m : SynCmd) (die i f : Nat) (r : Phaser) : (Nat × Nat) × State :=
  if m.op == .next then
    if r.isNow f then s.phCommit m die i r.advance else ((1, r.phase), s)
  else if r.isNow f || r.isNext f then
    let (n, s) := s.count16 ((if r.isNow f then r.narr else r.narr1) + 1)
    let r' := if r.isNow f then { r with narr := n } else { r with narr1 := n }
    let s := if r.gang then { s with members := s.members.map fun (x : Member) =>
        if x.tenant == m.tenant && x.die == die && x.index == i && x.fra == m.fra then { x with last := f % 2 ^ 32 } else x } else s
    s.phCommit m die i r'
  else ((1, r.phase), s)

/-- A phaser command is applied (R325, R334-R336): status and value. -/
def State.synPhaser (s : State) (m : SynCmd) : (Nat × Nat) × State :=
  if m.op == .base then s.synBase m
  else
    let (die, i, f) := m.names
    if (s.phArea m.tenant die).2 ≤ i then (let r := s.freeWord; ((3, r.1), r.2))
    else if s.phPoisoned m.tenant die i then
      let s := s.logError die { pa := s.phAddr m.tenant die i, rpt := 0, core := s.coreNum.toNat, tnt := m.tenant, ctx := m.ctx,
                                tv := true, kind := 3, loc := 5 }
      let r := s.freeWord
      ((8, r.1), r.2)
    else
      let r := s.phaser m.tenant die i
      if !r.val then (let x := s.freeWord; ((3, x.1), x.2))
      else if !r.cores.getLsbD s.coreNum.toNat then ((2, r.phase), s)
      else match m.op with
        | .sig => s.synSignals m die i f r
        | .next => s.synSignals m die i f r
        | _ => s.synMember m die i f r

/-! ## Atomics and reductions (R340-R342) -/

/-- New contents of an atomic's location, and whether its compare failed. -/
def amoNew (p w m a b : Nat) : Nat × Bool :=
  match p with
  | 0 => (m, false)
  | 1 => (a, false)
  | 2 => if m == b then (a, false) else (m, true)
  | 3 => ((m + a) % 2 ^ w, false)
  | 4 => (Nat.land m a, false)
  | 5 => (Nat.lor m a, false)
  | 6 => (Nat.xor m a, false)
  | 7 => (if toSigned w m < toSigned w a then a else m, false)
  | _ => (if toSigned w a < toSigned w m then a else m, false)

/-- New contents of a reduction's location. -/
def redNew (p w m a : Nat) : Nat :=
  match p with
  | 0 => (m + a) % 2 ^ w
  | 1 => (fAdd f32 .rne m a).1
  | 2 => (fMinMax f32 true m a).1
  | _ => (fMinMax f32 false m a).1

def SynCmd.size (m : SynCmd) : Nat := if bitAt m.w3 28 then 4 else 8

def SynCmd.sem (m : SynCmd) : Nat := fld m.w3 26 2

/-- Where an atomic's location lies (R342). -/
def State.synPlace (s : State) (m : SynCmd) : Access :=
  match (s.translate m.tenant m.w0).access m.w0 true true with
  | .ok p => if p.space == 0 && s.headerHit m.tenant m.w0 m.size then .denied else .ok p
  | a => a

/-- The read-modify-write at its home: old contents, status. A poisoned location stays as it is. The context's own copy of
the line is made current by the wait that covers the command, whether it wrote or not (R342). -/
def State.rmw (s : State) (o : Writer) (p : Place) (n : Nat) (f : Nat → Nat × Bool × Bool) : Option (Nat × Bool) × State :=
  let (sp, a) := p.at_
  let bad := match sp with
    | .global => isPoisoned s.poisonG a n
    | .peer d => isPoisoned s.poisonP (peerKey d a) n
    | _ => false
  if bad then (none, s)
  else
    let m := match sp with
      | .global => memNat s.mem a n
      | .peer d => memNat s.peerMem (peerKey d a) n
      | _ => memNat s.hostMem a n
    let r := f m
    let s := match sp with | .global => s.noteWritten o a n | _ => s
    (some (m, r.2.1), if r.2.2 then s.putPart (some o) false (sp, a, leBytes n r.1) else s)

/-- What an atomic or a reduction does to the contents it finds: new contents, compare failed, written. -/
def SynCmd.apply (m : SynCmd) (old : Nat) : Nat × Bool × Bool :=
  let w := 8 * m.size
  let a := m.w1 % 2 ^ w
  match m.op with
  | .red => (redNew m.p w old a, false, true)
  | _ => let r := amoNew m.p w old a (m.w2 % 2 ^ w); (r.1, r.2, m.p != 0 && !r.2)

/-- A denied or poisoned atomic: counter 10 latches it (R342) (notes/assumptions/52.md). -/
def State.synDeny (s : State) (m : SynCmd) (poison : Bool) : (Nat × Nat) × State :=
  let s := s.latchDenial m.ctx 10 m.w0 m.num poison
  let r := s.freeWord
  ((if poison then 8 else 7, if m.op == .red then 0 else r.1), r.2)

/-- The kind-3 record of a poisoned location (R303). -/
def State.synLog (s : State) (m : SynCmd) (p : Place) : State :=
  s.logError s.dieNo { pa := (if p.space == 1 then peerKey p.dev p.pa else p.pa) / 64 * 64, rpt := 0, core := s.coreNum.toNat, tnt := m.tenant, ctx := m.ctx, tv := true,
                       kind := 3, loc := 0 }

/-! ## Application (R330) -/

/-- Both commands write host memory: they go in the order in which the core's port sent them (R369). -/
def State.bothHost (s : State) (a b : SynCmd) : Bool :=
  let host := fun (m : SynCmd) => !m.op.isPhaser && (match s.synPlace m with | .ok p => p.space == 2 | _ => false)
  host a && host b

/-- Two commands of one context that are applied in issue order: one phaser, or one location (R330). -/
def State.synOrdered (s : State) (a b : SynCmd) : Bool :=
  if a.op.isPhaser && b.op.isPhaser then
    let x := a.records
    let y := b.records
    a.tenant == b.tenant && x.1 == y.1 && decide (x.2.1 < y.2.1 + y.2.2) && decide (y.2.1 < x.2.1 + x.2.2)
  else if a.op.isPhaser || b.op.isPhaser then false
  else
    let meet := fun (p q : Nat) => decide (p < q + b.size) && decide (q < p + a.size)
    meet a.w0 b.w0 || (match s.synPlace a, s.synPlace b with
      | .ok p, .ok q => p.space == q.space && p.dev == q.dev && meet p.pa q.pa
      | _, _ => false)

/-- The links that may carry a command to device `dev` (R389). -/
def State.synLink (s : State) (m : SynCmd) (dev : Nat) : BitVec 12 := m.link.getD (s.routeMask dev)

/-- The command can be applied in this cycle. -/
def State.synReady (s : State) (m : SynCmd) : Bool :=
  m.sent && m.result.isNone && decide (m.due ≤ s.now) &&
  (!m.parked || (match m.fut with | some f => s.futureReady f | none => false)) &&
  !(s.syn.any fun o => o.result.isNone && ((o.ctx == m.ctx && decide (o.num < m.num) && s.synOrdered o m) ||
    (o.sent && decide (o.order < m.order) && s.bothHost o m))) &&
  (if m.op.isPhaser then (let r := m.records; s.phReady m.tenant r.1 r.2.1 r.2.2 (m.op == .base)) else s.mayTranslate m.tenant m.w0 && (match s.synPlace m with
    | .ok p => s.engineMay m.ctx m.stamp m.acq m.bars [(p.at_.1, p.at_.2, leBytes m.size 0)] &&
        (p.space != 1 || s.sendable (s.synLink m p.dev))
    | _ => true))

/-- The command to apply next, by rank (R271, R330). -/
def State.synNext (s : State) : Option SynCmd :=
  (sortBy (fun (a b : SynCmd) => decide (a.ctx < b.ctx) || (a.ctx == b.ctx && decide (a.num ≤ b.num))) (s.syn.filter s.synReady)).head?

/-- The command has its result; its record and completion follow (R330, R332). -/
def State.synDone (s : State) (m : SynCmd) (r : Nat × Nat) : State :=
  let (d, s) := s.delay
  s.modSyn m fun o => { o with result := some r, recDue := s.now + 1 + d, parked := false }

/-- Application of a command at its home. -/
def State.synApply (s : State) (m : SynCmd) : State :=
  if m.op.isPhaser then (let r := s.synPhaser m; r.2.synDone m r.1)
  else if m.parked && (match m.fut with | some f => s.futureDenied f | none => false) then
    (let r := s.synDeny m false; r.2.synDone m r.1)
  else match s.synPlace m with
    | .absent =>
      let (f, s) := s.requestPage s.dieNo m.tenant m.w0 true true
      s.modSyn m fun o => { o with parked := true, fut := f }
    | .denied => let r := (s.logWalk (s.translate m.tenant m.w0) (some (m.ctx, m.tenant))).synDeny m false; r.2.synDone m r.1
    | .poisoned => let r := (s.logWalk (s.translate m.tenant m.w0) (some (m.ctx, m.tenant))).synDeny m true; r.2.synDone m r.1
    | .ok p => match (s.answered (p.space == 1)).rmw ⟨m.ctx, 10, m.num⟩ p m.size m.apply with
      | (none, s) => let r := (s.synLog m p).synDeny m true; r.2.synDone m r.1
      | (some (old, failed), s) => s.synDone m (if failed then 6 else 0, if m.op == .red then 0 else old)

/-- A command whose record is due, and may be written (R279). -/
def State.synRecordNext (s : State) : Option SynCmd :=
  (sortBy (fun (a b : SynCmd) => decide (a.ctx < b.ctx) || (a.ctx == b.ctx && decide (a.num ≤ b.num)))
    (s.syn.filter fun m => m.result.isSome && decide (m.recDue ≤ s.now) &&
      s.barrierDone (s.ctx m.ctx).cxid.toNat (vget m.bars 0 0))).head?

/-- The record lands and the command completes; an acquire is kept for the counter-10 wait that covers it (R332, R342). -/
def State.synComplete (s : State) (m : SynCmd) : State :=
  let r := m.result.getD (0, 0)
  let g := syW3 m.w3
  let s := if g.rcd then s.writeSpad (s.windowKey m.wb g.raddr) (leBytes 16 (r.1 + m.num % 2 ^ 32 * 2 ^ 32 + r.2 % 2 ^ 64 * 2 ^ 64)) else s
  let s := if !m.op.isPhaser && bitAt g.sem 0
    then s.modCtx m.ctx fun x => { x with acquires := x.acquires ++ [(m.num, m.scope.slices)] } else s
  ({ s with syn := s.syn.filter fun o => !(o.ctx == m.ctx && o.num == m.num) } : State).finishOp m.ctx 10 m.num

/-- One event of SYN: a completion, or an application. -/
def State.synStep (s : State) : State :=
  match s.synRecordNext with
  | some m => s.synComplete m
  | none => match s.synNext with
    | some m => s.synApply m
    | none => s

/-- The device that a command is to travel to, once it may. -/
def State.synPeer (s : State) (m : SynCmd) : Option Nat :=
  if m.op.isPhaser || !m.sent || m.result.isSome || decide (s.now < m.due) then none
  else match s.synPlace m with
    | .ok p => if p.space == 1 then some p.dev else none
    | _ => none

/-- What SYN learns at the start of a cycle. -/
def State.synCycle (s : State) : State :=
  let s := s.synDepart
  { s with syn := s.syn.map fun (m : SynCmd) =>
      let dev := s.synPeer m
      let link := m.link.or (dev.map s.routeMask)
      { m with
        fut := if m.parked && m.fut.isNone then s.findFuture s.dieNo m.tenant m.w0 else m.fut
        link := link
        stuck := if dev.isSome && !link.any s.maskUp then some (m.stuck.getD s.now) else none } }

/-- A command with no link for 2^20 cycles is denied (R389). -/
def State.synTimedOut (s : State) : Option SynCmd :=
  s.syn.find? fun m => m.result.isNone && (match m.stuck with | some t => decide (t + 2 ^ 20 ≤ s.now) | none => false)

/-! ## Phaser waits (R337) -/

def State.phArrivalDue (s : State) : Option PhWait := s.phWaits.find? fun x => !x.arrived && decide (x.due ≤ s.now) && s.phReady x.tenant x.die x.index 1 false

/-- A wait arrives at SYN, is counted, and is tested. On a poisoned record or beyond the area it stays in place: a sy.base that
covers the record counts it (R325, R334, R337). -/
def State.phArrive (s : State) : State :=
  match s.phArrivalDue with
  | none => s
  | some x =>
    let s := { s with phWaits := s.phWaits.map fun y => if y == x then { y with arrived := true } else y }
    if (s.phArea x.tenant x.die).2 ≤ x.index then s
    else if s.phPoisoned x.tenant x.die x.index then
      s.logError x.die { pa := s.phAddr x.tenant x.die x.index, rpt := 0, core := s.coreNum.toNat, tnt := x.tenant,
                         ctx := x.ctx, tv := true, kind := 3, loc := 5 }
    else
      let r := s.phaser x.tenant x.die x.index
      (s.setPhaser x.tenant x.die x.index { r with wcnt := r.wcnt + 1 }).phWake x.tenant x.die x.index

end Sys2Proof.Machine
end

