-- ==== Sys2Proof/Machine/Scope.lean ====
section
/-! DEFINITION. The scope table (spec/13_consistency.md R272-R278). -/

namespace Sys2Proof.Machine

/-- The 256 bits of a core mask name only cores with a column of the tenant (R275). -/
def State.maskAllowed (s : State) (tenant mask : Nat) : Bool :=
  (List.range 256).all fun i => !bitAt mask i || (List.range 4).any fun j => s.columnTenant i j == some tenant

def Work.scopeOp (w : Work) (p : Nat) (clr : Bool) : Work :=
  let n := w.nextNum 11
  let (d, s) := (w.takeNum 11).s.delay
  { w with s := { s with scopeOps := s.scopeOps ++ [{ ctx := w.c, num := n, entry := p, clr := clr, due := w.now + 16 + d }] } }

/-- The checks of scope.set in the order of R196 (R275): the mask at `a`, its cell, its alignment, its poison, the entry. -/
def Work.scopeChecks (w : Work) (a : Nat) (old : ScopeEntry) : Option Stop :=
  let key := w.s0.windowKey w.x0.base a
  let bad := isPoisoned w.s0.poisonS key 32
  if w.dry then none
  else if !bad && !w.s0.maskAllowed (w.s0.tenantOf w.c) (memNat w.s0.spad key 32) then some (.trap cBadOperand 0)
  else match w.badCell [(w.now, a / 65536)] with
    | some r => some (.trap cOverrun r)
    | none =>
      if a % 32 != 0 then some (.trap cAlignment a)
      else if bad then some (.poisoned a 32)
      else if old.chg then some (.trap cStaleScope 0)
      else none

/-- scope.set (R275); an entry that is not valid may be set (notes/assumptions/77.md). -/
def Work.scopeSet (w : Work) (e : EngEnv) (p : Nat) : Work :=
  let a := e.w0
  let old : ScopeEntry := vget w.x0.scopes p {}
  if !w.dry && (e.w0 / 2 ^ 21 != 0 || e.w2 / 2 ^ 2 != 0 || decide (w.padEnd < a + 32)) then w.stop e.slot cBadOperand
  else match w.scopeChecks a old with
    | some x => w.stopWith e.slot x
    | none =>
      let w := (w.useCells [(w.now, a / 65536)]).scopeOp p false
      let made : ScopeEntry :=
        { val := true, chg := true, gen := old.gen + 1, peer := bitAt e.w2 0, host := bitAt e.w2 1, slices := BitVec.ofNat 64 e.w1
          cores := BitVec.ofNat 256 (memNat w.s0.spad (w.s0.windowKey w.x0.base a) 32) }
      w.modX fun x => { x with scopes := vset x.scopes p made }

/-- scope.clr (R277, R278) (notes/assumptions/77.md). -/
def Work.scopeClr (w : Work) (e : EngEnv) (p : Nat) : Work :=
  let old : ScopeEntry := vget w.x0.scopes p {}
  if w.x0.staleScope p then w.stop e.slot cStaleScope
  else (w.scopeOp p true).modX fun x => { x with scopes := vset x.scopes p { old with gen := old.gen + 1, chg := true } }

/-- An operation of context `c` that names entry `p`, issued under its old generation, has still to be accepted where it goes
(R276, notes/assumptions/78.md): none is issued while the entry changes (R278). -/
def State.oldScope (s : State) (c p : Nat) : Bool :=
  (s.syn.any fun m => m.ctx == c && (!m.sent || decide (s.now < m.due)) && (syW3 m.w3).scope == p &&
    (m.op == .base || (!m.op.isPhaser && m.sem != 0))) ||
  (s.chans.toList.any fun h => h.cmds.any fun m => m.ctx == c && m.node.isNone && m.rel && m.scope == p) ||
  s.ckp.any fun m => m.ctx == c && m.pub && m.scope == p

/-- A scope update whose replicas have all acknowledged. -/
def State.scopeDue (s : State) : Option ScopeOp :=
  s.scopeOps.find? fun o => decide (o.due ≤ s.now) && !s.oldScope o.ctx o.entry

/-- The update completes (R276, R277). -/
def State.scopeComplete (s : State) : State :=
  match s.scopeDue with
  | none => s
  | some o =>
    let s := ({ s with scopeOps := s.scopeOps.erase o } : State).modCtx o.ctx fun x =>
      let e : ScopeEntry := vget x.scopes o.entry {}
      { x with scopes := vset x.scopes o.entry (if o.clr then { gen := e.gen } else { e with chg := false }) }
    s.finishOp o.ctx 11 o.num

end Sys2Proof.Machine
end

