-- ==== Sys2Proof/Machine/Control.lean ====
section
/-! DEFINITION. Control ops: redirects, loops, calls, task ops, fences and releases of a bundle
(spec/06_control.md R170-R191; spec/13_consistency.md R279, R281; spec/07_traps.md R203). -/

namespace Sys2Proof.Machine

/-- A control op with its operands. -/
inductive Ctl where
  | br (inv : Bool) (g : Nat) (off : Int)
  | brq (sense : Bool) (off : Int)
  | brx (inv : Bool) (g : Nat)
  | call (off : Int)
  | callx
  | ret
  | loop (len : Nat)
  | ploop (st len : Nat)
  | yield (kind sel q : Nat)
  | fork (q : Nat)
  | syncc (q : Nat)
  | done
  | trap (code : Nat)
  | tret
  | gopen (mask : Nat)
  | fence (acq rel : Bool) (sp scope : Nat)
  | drain (sp : Nat)
  | bkrel (res : Nat)
  deriving DecidableEq, Repr

/-- A control op in its slot. -/
structure CtlSlot where
  slot : Nat
  op : Ctl

def CtlSlot.col (o : CtlSlot) : Nat := o.slot / 2

/-- yield, fork, syncc and done (R188): any two of them in a bundle are a loop-state fault, two yields among them
(notes/assumptions/88.md). -/
def Ctl.isTask : Ctl → Bool
  | .yield _ _ _ => true
  | .fork _ => true
  | .syncc _ => true
  | .done => true
  | _ => false

/-- Those that end the segment. -/
def Ctl.leaves : Ctl → Bool
  | .yield _ _ _ => true
  | .syncc _ => true
  | .done => true
  | _ => false

def Ctl.isLoop : Ctl → Bool
  | .loop _ => true
  | .ploop _ _ => true
  | _ => false

/-- Ops that R116 holds until no guard is open, no compare parked and no store held. -/
def Ctl.ordered : Ctl → Bool
  | .fence _ _ _ _ => true
  | .drain _ => true
  | o => o.isTask

/-! ## Segment numbers (R81) -/

def Ctl.segment : Ctl → Option Nat
  | .yield _ _ q => some q
  | .fork q => some q
  | .syncc q => some q
  | _ => none

/-! ## Redirects (R128, R175-R178) -/

/-- ix of the op's column after the bundle's writes (R69). -/
def Work.ixAt (w : Work) (o : CtlSlot) : Nat := (w.x.col o.col).ix.toNat

/-- The count a loop op enters with (R180). -/
def Work.tripCount (w : Work) : Nat := w.x.lcNow.toNat

/-- Entries popped by brq slots before this one. -/
def popsBefore (ops : List CtlSlot) (o : CtlSlot) : Nat :=
  (ops.filter fun p => decide (p.slot < o.slot) && (match p.op with | .brq _ _ => true | _ => false)).length

def popsOf (ops : List CtlSlot) : Nat := (ops.filter fun p => match p.op with | .brq _ _ => true | _ => false).length

/-- The target of an op that redirects, as a signed index. -/
def Work.redirect (w : Work) (ops : List CtlSlot) (o : CtlSlot) : Option Int :=
  let pc : Int := w.x0.pc
  match o.op with
  | .br inv g off => if w.x0.gstate inv g == .yes then some (pc + off) else none
  | .brx inv g => if w.x0.gstate inv g == .yes then some (w.ixAt o) else none
  | .brq sense off => match w.x0.cq[popsBefore ops o]? with
    | some b => if b == sense then some (pc + off) else none
    | none => none
  | .call off => some (pc + off)
  | .callx => some (w.ixAt o)
  | .ret => some ((w.x0.links.head?.map fun n => (n : Int)).getD (-1))
  | .tret => some w.x0.tres.toNat
  | .loop len => if w.tripCount == 0 then some (pc + len + 1) else none
  | .ploop _ len => if w.tripCount == 0 then some (pc + len + 1) else none
  | _ => none

/-- The index a target stands for; one below 0, which only a bundle with a trap op or a task op may have (R176), in 64 bits
(notes/assumptions/70.md). -/
def targetIndex (t : Int) : Nat := if t < 0 then ofSigned 64 t else t.toNat

/-- The redirect that takes effect: that of the lowest-numbered slot (R128), a loop without a pass among them
(notes/assumptions/82.md). -/
def Work.winner (w : Work) (ops : List CtlSlot) : Option (CtlSlot × Int) :=
  ops.findSome? fun o => (w.redirect ops o).map fun t => (o, t)

/-- A fault, against a wait after which the bundle is examined again. -/
def Stop.faults : Stop → Bool
  | .trap _ _ => true
  | .latched _ _ => true
  | .poisoned _ _ => true
  | .unread _ => true
  | _ => false

/-- A bundle whose next index does not apply: one with a trap op, or with an op that ends the segment and commits, which no fault of
the bundle keeps it from (R176). A void tret makes no bundle exempt (notes/assumptions/88.md). -/
def Work.exempt (w : Work) (ops : List CtlSlot) : Bool :=
  (ops.any fun o => match o.op with | .trap _ => true | _ => false) ||
  ((ops.any (·.op.leaves)) && !(w.stops.any (·.2.faults)) && !(w.k.strict && !w.colls.isEmpty))

/-! ## End of iteration (R181, R185) -/

/-- k8 to k15 resolved to the given gates. -/
def Ctx.setGates (x : Ctx) (f : Nat → Bool) : Ctx :=
  { x with guards := (List.range 8).foldl (fun g i => vset g (8 + i) (.resolved (f i))) x.guards }

/-- A pipelined loop is over: its gates are 0 (R181). -/
def Ctx.endPipe (x : Ctx) : Ctx := { x.setGates fun _ => false with pl := false }

/-- Pop the innermost entry (R181, R182): lc takes its saved value; a pipelined one leaves its gates 0. -/
def Ctx.popLoop (x : Ctx) : Ctx :=
  match x.loops with
  | [] => x
  | e :: es =>
    let y := { x with loops := es }
    (if e.pipe then y.endPipe else y).setLc e.save

/-- No further iteration starts: fer, or a pending slice end, which leaves the bit fer as it is (R186, R208,
notes/assumptions/88.md). -/
def Ctx.passEnds (x : Ctx) : Bool := x.fer || x.slice.isSome

/-- Another iteration starts at the pass boundary (R185). -/
def Ctx.passMore (x : Ctx) : Bool := x.rem != 0 && !x.passEnds && !x.fel

/-- Gate `i` of the next pass: the gates move down one stage (R185). -/
def Ctx.passGate (x : Ctx) (i : Nat) : Bool :=
  decide (i < x.pst.toNat + 1) && (if i == 0 then x.passMore else x.guard (8 + (i - 1)) == .resolved true)

/-- The counters, the early end and the rotation of a pass (R183, R185, R186). -/
def Ctx.passNext (x : Ctx) : Ctx :=
  { x with
    rem := if x.passMore then x.rem - 1 else x.rem
    strt := if x.passMore then x.strt + 1 else x.strt
    fel := x.fel || (x.rem != 0 && x.passEnds)
    fer := false
    rb := BitVec.ofNat 7 ((x.rb.toNat % 16 + 15) % 16 + ((x.rb.toNat / 16 + 7) % 8) * 16) }

/-- The pass boundary of a pipelined entry (R185, R208): the next index and the context. -/
def Ctx.passBoundary (x : Ctx) (e : LoopEntry) : Nat × Ctx :=
  let y := x.passNext.setGates x.passGate
  if (List.range 8).any x.passGate then (e.first, y) else (e.last + 1, y.popLoop)

/-- The end-of-iteration actions at index `pc` (R181): the next index and the context. -/
def endIteration (pc : Nat) : Nat → Ctx → Nat × Ctx
  | 0, x => (pc + 1, x)
  | fuel + 1, x =>
    match x.loops with
    | [] => (pc + 1, x)
    | e :: _ =>
      if e.last != pc || x.links.length != e.lk then (pc + 1, x)
      else if e.pipe then
        let r := x.passBoundary e
        if r.2.loops.length == x.loops.length then r else endIteration pc fuel r.2
      else if x.lc.toNat > 1 then (e.first, { x with lc := x.lc - 1 })
      else endIteration pc fuel x.popLoop

/-- Leave loops whose body the target lies outside of (R182). -/
def leaveLoops (t : Int) : Nat → Ctx → Ctx
  | 0, x => x
  | fuel + 1, x =>
    match x.loops with
    | [] => x
    | e :: _ => if (e.first : Int) ≤ t && t ≤ e.last then x else leaveLoops t fuel x.popLoop

/-- A ret pops the entries of the calls it leaves (R182). -/
def leaveCalls : Nat → Ctx → Ctx
  | 0, x => x
  | fuel + 1, x =>
    match x.loops with
    | [] => x
    | e :: _ => if e.lk > x.links.length then leaveCalls fuel x.popLoop else x

/-- Enter a loop (R180) or a ploop (R184) with a trip count above 0; `save` is lc before the bundle's moves. -/
def Ctx.enterLoop (x : Ctx) (save : BitVec 32) (len : Nat) : Ctx :=
  let e : LoopEntry := { first := x.pc + 1, last := x.pc + len, pipe := false, save := save, lk := x.links.length }
  let t := x.lcNow
  let y := if x.innerPipe then { x with rem := save } else x
  { y with loops := e :: y.loops, lc := t }

def Ctx.enterPloop (x : Ctx) (save : BitVec 32) (st len : Nat) : Ctx :=
  let e : LoopEntry := { first := x.pc + 1, last := x.pc + len, pipe := true, save := save, lk := x.links.length }
  let t := x.lcNow
  let y := { x with pst := BitVec.ofNat 3 st, fel := false, fer := false }
  if t == 0 then { y with strt := 0, rem := 0 }
  else { y.setGates (fun i => i == 0) with loops := e :: y.loops, strt := 1, rem := t - 1, pl := true }

/-! ## Waits of a yield (R25, R82, R175, R299, R337) -/

/-- The wait that a yield names (R25, R82); the selector's register as the bundle leaves it, its address as it is
(notes/assumptions/72.md, notes/assumptions/73.md). -/
def Work.waitOf (w : Work) (o : CtlSlot) (kind sel : Nat) : Wait :=
  let ix := w.ixAt o
  let sreg := w.x.sval o.col sel
  match kind with
  | 0 => .timeline sel ix
  | 1 => .arrival (w.s0.windowKey w.x0.base (sreg % 2 ^ 57)) (ix % 2 ^ 32)
  | 2 => .phaser (ix % 2 ^ 32) (sreg % 2 ^ 32)
  | 3 => .guard
  | 4 => .cq
  | 6 => .pager ix
  | _ => .time ix

/-- A denial latched on a counter that this op must take (R315, R342): the lowest such counter. -/
def Work.denial (w : Work) (o : CtlSlot) : Option (Nat × Denial) :=
  let all := (List.range 12).filterMap fun i => ((w.x0.timeline i).latch).map fun d => (i, d)
  match o.op with
  | .yield 0 sel _ => all.find? fun p => p.1 == sel && decide (p.2.low ≤ w.ixAt o)
  | .yield kind _ _ => if kind == 2 || kind == 6 || kind == 7 then all.head? else none
  | .syncc _ => all.head?
  | .done => all.head?
  | _ => none

/-- The phaser id of a yield is out of its range (R337). -/
def badPhaser (ix : Nat) : Bool := ix / 2 ^ 32 != 0 || fld ix 25 7 != 0

/-- Faults of a yield's kind, selector and argument (R82), kind 5 standing for every wait that the encoding makes illegal; the address of an arrival word is not checked (notes/assumptions/72.md). -/
def Work.yieldFaults (w : Work) (o : CtlSlot) (ops : List CtlSlot) (kind sel : Nat) : List Stop :=
  let ix := w.ixAt o
  let bad := kind == 5 || (kind == 3 && sel == 0) || (kind == 0 && decide (11 < sel)) ||
    (kind == 4 && decide (w.x0.cq.length + w.pushes.length ≤ popsOf ops)) ||
    (kind == 2 && badPhaser ix) || (kind == 6 && w.s0.futureBad ix)
  (if bad then [Stop.trap cIllegalWait 0] else []) ++
    (if kind == 0 && decide (sel ≤ 11) && decide ((w.x0.timeline sel).issued < ix) then [Stop.trap cTimelineAhead 0] else [])

/-! ## Examination -/

/-- An op waits in step 2 of R196: a fence for outstanding fills (R279), a yield for an empty register it carries (R137); the
selector's register does not hold it (notes/assumptions/73.md), nor does an empty register that a fork carries hold the fork
(notes/assumptions/81.md). -/
def Work.ctlEmpty (w : Work) (o : CtlSlot) : Work :=
  let carry := fun (q : Nat) =>
    ((List.range w.k.width).flatMap fun j =>
      (w.k.carriedS q j).map (fun n => Loc.s j (physS w.x0.rb n)) ++ (w.k.carriedV q j).map fun n => Loc.v j (physV w.x0.rb n)).find?
      fun l => !w.x0.isFull l
  let wait := fun q => match carry q with
    | some l => { w with empties := w.empties ++ [(o.slot, false, .source l)] }
    | none => w
  match o.op with
  | .fence _ _ sp _ => if bitAt sp 1 && !w.x0.fills.isEmpty then { w with empties := w.empties ++ [(o.slot, false, .allFills)] } else w
  | .yield _ _ q => wait q
  | .syncc q => wait q
  | _ => w

/-- Collapse points of control ops (R116, R117). -/
def Work.ctlCollapse (w : Work) (o : CtlSlot) : Work :=
  match o.op with
  | .br _ g _ => if w.x0.isOpen g then w.collapse o.slot (some g) else w
  | .brx _ g => if w.x0.isOpen g then w.collapse o.slot (some g) else w
  | op =>
    if op.ordered && (w.x0.lowestOpen.isSome || !w.x0.parked.isEmpty || !w.x0.held.isEmpty) then
      w.collapse o.slot (match w.x0.lowestOpen with
        | some g => some g
        | none => match w.x0.held with
          | h :: _ => lowestGuard [h.term]
          | [] => none)
    else w

/-- A drain of spaces `sp` waits for writes to the place: [0] global, [1] peer, [2] host. -/
def Space.named (sp : Nat) : Space → Bool
  | .scratch _ => false
  | .global => bitAt sp 0
  | .peer _ => bitAt sp 1
  | .host => bitAt sp 2

/-- What a piece that has not left would write, where its pages tell; an absent page counts as any space. -/
def State.cpNamed (s : State) (m : CpCmd) (sp k : Nat) : Bool :=
  let p := m.piece k
  m.writes && !m.toPad p && (match s.runs m.tenant true (p.n / 4096 + 2) p.dst p.n with
    | .ok rs => rs.any fun r => (r.1.at_.1).named sp
    | .error (.absent _ _) => true
    | .error (.unready _) => true
    | .error (.denied _ _) => false)

def State.cpUndrained (s : State) (c sp : Nat) : Bool :=
  (s.landings.any fun l => l.ctx == c && l.node.isNone && l.parts.any fun p => p.1.named sp) ||
  s.chans.toList.any fun h => h.cmds.any fun m => m.ctx == c && m.node.isNone &&
    (anyBelow (m.pieces - m.next) (fun i => s.cpNamed m sp (m.next + i)) ||
     h.parked.any fun p => p.ctx == c && p.num == m.num && p.node.isNone && s.cpNamed m sp p.k)

def State.ckUndrained (s : State) (c sp : Nat) : Bool :=
  s.ckp.any fun m => m.ctx == c && m.op != .load &&
    ((bitAt sp 0 && (decide (m.k < m.chunks) || decide (0 < m.left) || !m.dir)) ||
     (m.pub && !m.published && (match s.ckPubPlace m with
       | .ok p => (p.at_.1).named sp
       | .absent => true
       | _ => false)))

def State.synUndrained (s : State) (c sp : Nat) : Bool :=
  s.syn.any fun m => m.ctx == c && !m.op.isPhaser && m.result.isNone && (m.op == .red || m.p != 0) && (match s.synPlace m with
    | .ok p => (p.at_.1).named sp
    | .absent => true
    | _ => false)

/-- Writes of the context's earlier stores and engine operations to the named spaces are not all acknowledged (R281). -/
def State.undrained (s : State) (c sp : Nat) : Bool :=
  (bitAt sp 0 && (s.ctx c).cols.toList.any fun k => !k.storeQ.isEmpty) ||
  s.cpUndrained c sp || s.ckUndrained c sp || s.synUndrained c sp

/-- What a forced yield waits for has happened; a guard without a resolver ends the wait too, and its trap is due at the boundary (R102, R109, R118, R258, R264, R279, R281, R292, R330) (notes/assumptions/63.md). -/
def State.fwaitDone (s : State) (c : Nat) : FWait → Bool
  | .source l => (s.ctx c).isFull l
  | .guard n _ => !(s.ctx c).isOpen n || !(s.ctx c).hasPark n
  | .fill id => !(s.ctx c).fills.any fun f => f.id == id
  | .storeOut j seq => !((s.ctx c).col j).storeQ.any fun e => e.seq == seq
  | .walk id => !s.walks.any fun x => x.id == id
  | .synOut n => !(s.ctx c).synQ.contains n
  | .drained sp => !s.undrained c sp.toNat
  | .allFills => (s.ctx c).fills.isEmpty
  | .homes t rs => s.readsReady t rs
  | .page fut va _ => match fut.or (s.findFuture s.dieNo (s.tenantOf c) va) with
    | some f => s.futureReady f
    | none => false

/-- What a yield reads and writes: its frame, its parent's where the task is cancelled, and gp63 of its graph (R137, R365). -/
def State.leaveSpans (s : State) (t : Task) (k : Kernel) : Spans :=
  (t.fra, 64 + 640 * k.width) :: t.endSpans ++ ((s.replayOf t.launch).map fun r => (r.param + 504, 8)).toList

/-- What a fork writes: the header of its frame, and the child's frame (R145). -/
def State.forkSpans (s : State) (t : Task) (k : Kernel) : Spans :=
  (t.fra, 64) :: ((s.allocFrame t.tenant k.frameSize).1.map (·, 64 + 640 * k.width)).toList

/-- The tenant's memory that a task op reads and writes at its commit (R134-R137, R145, R147); the place of a child's frame is the one
that the commit will choose, after the effects of the slots. -/
def Work.frameSpans (w : Work) (o : CtlSlot) : Spans :=
  match w.s0.boundTask w.c with
  | none => []
  | some t => match o.op with
    | .yield _ _ _ => w.s0.leaveSpans t w.k
    | .syncc _ => w.s0.leaveSpans t w.k
    | .fork _ => w.s.forkSpans t w.k
    | .done => t.endSpans
    | _ => []

/-- A task op waits until the homes of what it accesses are ready (R403). -/
def Work.homesBar (w : Work) (o : CtlSlot) : List Stop :=
  let rs := w.frameSpans o
  if w.s0.readsReady (w.s0.tenantOf w.c) rs then [] else [.yield (.homes (w.s0.tenantOf w.c) rs)]

/-- A yield or syncc whose observation of cancel cannot be read takes the fault of that read (R290, R303, R365). -/
def Work.cancelStops (w : Work) : List Stop :=
  match w.s0.boundTask w.c with
  | some t => match w.s0.cancelRead t with
    | .error u => [.unread u]
    | .ok _ => []
  | none => []

/-- The issue faults of one op (step 5 of R196), the target of a redirect apart; two yields are loop-state faults as well (R188,
notes/assumptions/88.md). -/
def Work.ctlStops (w : Work) (ops : List CtlSlot) (o : CtlSlot) : List Stop :=
  let win := w.winner ops
  let won := (win.map fun p => p.1.slot) == some o.slot
  let isVoid := win.isSome && !won
  let x := w.x0
  let flt := fun (b : Bool) (c : Cause) => if b then [Stop.trap c 0] else []
  let twoTask := flt (o.op.isTask && decide ((ops.filter (·.op.isTask)).length > 1)) cLoopState
  let denied := match w.denial o with
    | some (i, d) => [Stop.latched i d]
    | none => []
  let open_ := flt (!x.loops.isEmpty) cLoopState ++ flt (!x.links.isEmpty) cLinkYield
  match o.op with
  | .brq _ _ => flt (decide (x.cq.length ≤ popsBefore ops o)) cCqUnderflow
  | .call _ => flt (won && decide (16 ≤ x.links.length)) cLinkOverflow
  | .callx => flt (won && decide (16 ≤ x.links.length)) cLinkOverflow
  | .ret => flt (won && x.links.isEmpty) cLinkUnderflow
  | .tret => flt (won && !x.inHandler) cTrapState
  | .loop len =>
    flt (decide ((ops.filter (·.op.isLoop)).length > 1)) cLoopState ++
    (if isVoid then [] else flt (decide (4 ≤ x.loops.length)) cLoopState ++ flt (decide (w.k.ncode ≤ x.pc + len)) cBranchTarget)
  | .ploop _ len =>
    flt (decide ((ops.filter (·.op.isLoop)).length > 1)) cLoopState ++
    (if isVoid then [] else
      flt (decide (4 ≤ x.loops.length) || x.pl) cLoopState ++
      flt ((List.range 8).any fun i => x.isOpen (8 + i) || x.hasPark (8 + i)) cGuardState ++
      flt (decide (w.k.ncode ≤ x.pc + len)) cBranchTarget)
  | .gopen m =>
    let earlier := ops.any fun p => decide (p.slot < o.slot) &&
      (match p.op with | .gopen m' => Nat.land m m' != 0 | _ => false)
    flt (earlier || (List.range 16).any fun n => n != 0 && bitAt m n && (x.isOpen n || (x.pl && decide (8 ≤ n)))) cGuardState
  | .bkrel res => flt (decide (res ≤ 3) && decide (res < w.k.width)) cBooking
  | .fence _ _ _ sc =>
    let e := if sc == 0 || sc == 15 then { val := true } else vget x.scopes sc ({} : ScopeEntry)
    flt (!e.val || e.chg) cStaleScope
  | .drain sp => if w.s0.undrained w.c sp then [.yield (.drained (BitVec.ofNat 3 sp))] else []
  | .yield kind sel _ => twoTask ++ open_ ++ denied ++ w.yieldFaults o ops kind sel ++ w.cancelStops ++ w.homesBar o
  | .syncc _ => twoTask ++ open_ ++ denied ++ w.cancelStops ++ w.homesBar o
  | .done => twoTask ++ denied ++ w.homesBar o
  | .fork _ => twoTask ++ flt ((w.s0.allocFrame (w.s0.tenantOf w.c) w.k.frameSize).1.isNone) cFrameArena ++ w.homesBar o
  | _ => []

/-- The index of the bundle after this one, where no redirect takes effect, with the context after it. A pass that ends with this bundle
finds fer as the bundle leaves it (notes/assumptions/88.md). -/
def Work.fallThrough (w : Work) (ops : List CtlSlot) : Nat × Ctx :=
  let x := w.x
  let y := match ops.find? (·.op.isLoop) with
    | some o => match o.op with
      | .loop len => x.enterLoop w.x0.lcNow len
      | .ploop st len => x.enterPloop w.x0.lcNow st len
      | _ => x
    | none => x
  endIteration x.pc 5 y

/-- The condition queue would hold more than sixteen bits (R170): the lowest slot that pushes is named (notes/assumptions/42.md). -/
def Work.checkQueue (w : Work) (ops : List CtlSlot) : Work :=
  if w.x0.cq.length + w.pushes.length + w.cqTrigs.length ≤ 16 + popsOf ops then w
  else match leastOf (w.pushes.map (·.1) ++ w.cqTrigs) with
    | some slot => w.stop slot cCqOverflow
    | none => w

/-- The index that a redirect sets, or the next one, is no bundle of the kernel (R176); tret is checked always, a ret without a call has
its own fault (R203, R178), and for a next index no slot is to blame (notes/assumptions/42.md). -/
def Work.checkNext (w : Work) (ops : List CtlSlot) : Work :=
  match w.winner ops with
  | some (o, t) =>
    let other := match o.op with | .ret => w.x0.links.isEmpty | _ => false
    let always := match o.op with | .tret => true | _ => false
    if (always || !w.exempt ops) && (decide (t < 0) || decide ((w.k.ncode : Int) ≤ t)) && !other then w.stop o.slot cBranchTarget else w
  | none => if !w.exempt ops && decide (w.k.ncode ≤ (w.fallThrough ops).1) then w.stop 8 cBranchTarget else w

/-- Every check of the bundle's control ops. -/
def Work.examineCtl (w : Work) (ops : List CtlSlot) : Work :=
  let w : Work := ops.foldl (fun w o => (w.ctlEmpty o).ctlCollapse o) w
  let w : Work := ops.foldl (fun w o => { w with stops := w.stops ++ (w.ctlStops ops o).map fun t => (o.slot, t) }) w
  (w.checkQueue ops).checkNext ops

/-! ## Writes of guards (R105, R107, R127) -/

/-- A trap due at the next boundary for results that collide as they land (R127). -/
def Ctx.landCollision (x : Ctx) (strict : Bool) (slot pc : Nat) : Ctx :=
  if strict then { x with pendL := x.pendL ++ [{ cause := cLandingCollision, cls := 1, slot := slot, pc := pc, info := 0 }] }
  else { x with wcol := true }

/-- The parked compares of guard `n` whose writes land as the bundle's do (R109). -/
def Work.parksLanding (w : Work) (n : Nat) : List Parked := w.x.parked.filter fun p => p.g == n && p.landsNext w.now

/-- Slots of the bundle whose writes of guard `n` land together: moves, compares, compares that it parked, gopens (R105). -/
def Work.guardSlots (w : Work) (ops : List CtlSlot) (n : Nat) : List Nat :=
  (w.guardMoves.filter (·.2.1 == n)).map (·.1) ++ (w.guardTrigs.filter (·.2 == n)).map (·.1) ++
    ((w.parksLanding n).filter (decide <| w.s0.resultSeq ≤ ·.seq)).map (·.slot) ++
    (ops.filter fun o => match o.op with | .gopen m => bitAt m n | _ => false).map (·.slot)

/-- The highest slot above `slot` that writes guard `n` too: it wins (R127). -/
def Work.guardOver (w : Work) (ops : List CtlSlot) (slot n : Nat) : Option Nat :=
  ((w.guardSlots ops n).filter (decide <| slot < ·)).foldl (fun b x => some (max x (b.getD 0))) none

/-- A write of guard `n` in `slot` lands with a compare of a lower slot, or with a parked one. -/
def Work.guardMeets (w : Work) (slot n : Nat) : Bool :=
  (w.guardTrigs.any fun o => o.2 == n && decide (o.1 < slot)) || !(w.parksLanding n).isEmpty

/-- The compare that would write guard `n` as the bundle's writes land loses. -/
def Work.guardLast (w : Work) (n : Nat) : Work :=
  w.modX fun x => { x with flight := x.flight.filter fun f => !(f.dest == .guard n && f.land == w.now + 1) }

/-- A gopen that names guard `n` meets other writes of it. -/
def Work.gopenMeets (w : Work) (ops : List CtlSlot) (slot n : Nat) : Work :=
  match w.guardOver ops slot n with
  | some top => w.modX fun x => x.landCollision w.k.strict top w.x0.pc
  | none => if w.guardMeets slot n then (w.guardLast n).modX fun x => x.landCollision w.k.strict slot w.x0.pc else w

/-! ## Effects at commit -/

/-- Guards of a mask open (R107), those apart that `lost` names. -/
def Ctx.openGuards (x : Ctx) (m : Nat) (lost : Nat → Bool := fun _ => false) : Ctx :=
  { x with guards := (List.range 16).foldl (fun g n => if n != 0 && bitAt m n && !lost n then vset g n .opened else g) x.guards }

/-- cq after the pops and the pushes of a bundle (R170, R175). -/
def Ctx.queue (x : Ctx) (pops : Nat) (bits : List Bool) : Ctx := { x with cq := x.cq.drop pops ++ bits }

/-- The next bundle. -/
def Ctx.goTo (x : Ctx) (pc : Nat) : Ctx := { x with pc := pc }

/-- Pops, gopen, loops, links and the program counter. The gates that a ploop sets come after a gopen of k8 to k15 in its bundle
(notes/assumptions/88.md). -/
def Work.commitFlow (w : Work) (ops : List CtlSlot) : Work :=
  let w := w.modX fun x => x.queue (popsOf ops) (w.pushes.map (·.2))
  let w := ops.foldl (fun w o => match o.op with
    | .gopen m => w.modX fun x => x.openGuards m fun n => (w.guardOver ops o.slot n).isSome
    | _ => w) w
  match w.winner ops with
  | none => let r := w.fallThrough ops; w.modX fun _ => r.2.goTo r.1
  | some (o, t) =>
    let x := w.x
    let y := match o.op with
      | .call _ => { x with links := (x.pc + 1) :: x.links }
      | .callx => { x with links := (x.pc + 1) :: x.links }
      | .ret => leaveCalls 5 { x with links := x.links.tail }
      | .br _ _ _ => leaveLoops t 5 x
      | .brx _ _ => leaveLoops t 5 x
      | .brq _ _ => leaveLoops t 5 x
      | .ploop st len => x.enterPloop w.x0.lcNow st len
      | .tret => x.leaveHandler
      | _ => x
    w.modX fun _ => y.goTo (targetIndex t)

/-- Stores held now in any store queue of the core under the context's cxid perform before its later global stores, and before
the writes of its later engine commands in the spaces `sp` (R279) (notes/assumptions/29.md). -/
def Ctx.releaseFence (x : Ctx) (seq sp : Nat) : Ctx :=
  { x with relBarrier := seq, relSp := vgen 4 fun i => if bitAt sp i then seq else vget x.relSp i 0 }

/-- The slices of a scope entry (R273). -/
def Ctx.scopeSlices (x : Ctx) (n : Nat) : BitVec 64 :=
  if n == 0 || n == 15 then BitVec.allOnes 64 else (vget x.scopes n ({} : ScopeEntry)).slices

/-- Fences, bkrel and fork. -/
def Work.commitOps (w : Work) (ops : List CtlSlot) : Except Fault Work :=
  ops.foldlM (fun w o => match o.op with
    | .fence acq rel sp sc =>
      let w := if rel then w.modX fun x => x.releaseFence w.s.storeSeq sp else w
      pure (if acq && bitAt sp 1 then { w with s := w.s.acquireL1 w.c (w.x0.scopeSlices sc) } else w)
    | .bkrel res =>
      let beyond := match resColumn res with | some j => decide (w.k.width ≤ j) | none => false
      match physRes w.s.mode.toNat w.x0.base res with
      | some r => pure (if beyond then w else { w with s := w.s.releaseRes w.c r (w.now + 1) })
      | none => pure w
    | .fork q => do
      let s ← w.s.forkTask w.c q (BitVec.ofNat 64 (w.ixAt o))
      pure { w with s := s }
    | _ => pure w) w

/-- The program trap of the lowest-numbered trap op (R189); a task that leaves takes it with it (notes/assumptions/45.md). -/
def Work.commitTrap (w : Work) (ops : List CtlSlot) : Work :=
  match ops.findSome? fun o => match o.op with | .trap c => some (o.slot, c) | _ => none with
  | none => w
  | some (slot, c) =>
    w.modX fun x => { x with pendP := some { cause := cProgram, cls := 3, slot := slot, pc := w.x0.pc, info := c } }

/-- tret that takes effect (R203): the cells go, the task is booked again under tseg. -/
def Work.commitTret (w : Work) (ops : List CtlSlot) : Work :=
  match w.winner ops with
  | some (o, t) => match o.op with
    | .tret =>
      let w := { w with s := w.s.release w.c (w.now + 1) }
      w.modX fun x => { x with run := .ready 1 (w.x0.tseg.toNat % 512) (some t.toNat) false w.now }
    | _ => w
  | none => w

/-- The op that ends the segment, last of all. -/
def Work.commitTask (w : Work) (ops : List CtlSlot) : Except Fault State :=
  match ops.find? (·.op.leaves) with
  | none => .ok w.s
  | some o => match o.op with
    | .yield kind sel q => w.s.yieldTask w.c (w.waitOf o kind sel) sel q
    | .syncc q => w.s.yieldTask w.c .children 0 q
    | .done => w.s.endTask w.c 0
    | _ => .ok w.s

end Sys2Proof.Machine
end

