-- ==== Sys2Proof/Machine/Iau.lean ====
section
/-! DEFINITION. The integer/address unit, system registers and the compares to cq and guards
(spec/06_control.md R167-R174; spec/04_shades.md R98, R99, R108, R109; spec/07_traps.md R198; spec/21_host.md R387). -/

namespace Sys2Proof.Machine

/-! ## Integer operations (R167) -/

/-- Clamp to the signed 64-bit range; sat when clamped. -/
def clampI64 (x : Int) : Comp :=
  if x > 2 ^ 63 - 1 then { val := BitVec.ofNat 2048 (2 ^ 63 - 1), flags := Flags.sat }
  else if x < -(2 ^ 63) then { val := BitVec.ofNat 2048 (2 ^ 63), flags := Flags.sat }
  else { val := BitVec.ofNat 2048 (ofSigned 64 x) }

/-- A 64-bit result without flags. -/
def Comp.word (x : Nat) : Comp := { val := BitVec.ofNat 2048 (x % 2 ^ 64) }

/-- The two 64-bit operands of a combination: ia.a, t. -/
def operands64 (vs : List Vec) : Nat × Nat :=
  match vs with
  | [a, t] => (a.toNat % 2 ^ 64, t.toNat % 2 ^ 64)
  | _ => (0, 0)

/-- An operation of the mould of R167 that reads ia.a and t. -/
def Work.iau (w : Work) (e : TrigEnv) (f : Nat → Nat → Comp) : Work :=
  w.fire e [.iaA] (.iaO e.col) 1 (e.col * 4) fun vs => let p := operands64 vs; f p.1 p.2

def iaAddF (a t : Nat) : Comp := .word (a + t)
def iaSubF (a t : Nat) : Comp := .word (a + 2 ^ 64 - t)
def iaMulF (a t : Nat) : Comp := .word (a * t)
def iaMulhF (a t : Nat) : Comp := .word (ofSigned 128 (toSigned 64 a * toSigned 64 t) >>> 64)
def iaAndF (a t : Nat) : Comp := .word (Nat.land a t)
def iaOrF (a t : Nat) : Comp := .word (Nat.lor a t)
def iaXorF (a t : Nat) : Comp := .word (Nat.xor a t)
def iaShlF (a t : Nat) : Comp := .word (a <<< (t % 64))
def iaShrNF (a t : Nat) : Comp := .word (a >>> (t % 64))
def iaShrIF (a t : Nat) : Comp := .word (ofSigned 64 (toSigned 64 a >>> (t % 64)))
def iaMinF (a t : Nat) : Comp := .word (if toSigned 64 t < toSigned 64 a then t else a)
def iaMaxF (a t : Nat) : Comp := .word (if toSigned 64 a < toSigned 64 t then t else a)
def iaAddsF (a t : Nat) : Comp := clampI64 (toSigned 64 a + toSigned 64 t)
def iaSubsF (a t : Nat) : Comp := clampI64 (toSigned 64 a - toSigned 64 t)

/-- A relation of the compares (R108, R174). -/
def Rel.holds (r : Rel) (a t : Nat) : Bool :=
  match r with
  | .eq => a == t
  | .ltI64 => decide (toSigned 64 a < toSigned 64 t)
  | .ltN64 => decide (a < t)

def iaRelF (r : Rel) (a t : Nat) : Comp := .word (r.holds a t).toNat

/-- ia.popc reads t alone. -/
def Work.iauPopc (w : Work) (e : TrigEnv) : Work :=
  w.fire e [] (.iaO e.col) 1 (e.col * 4) fun vs => .word (popCount 64 ((vs.headD 0).toNat % 2 ^ 64))

/-! ## System registers (R168, R169) -/

def flagBits (p : Nat → Bool) (n : Nat) : Nat := ofBits n p

/-- shs (R98). -/
def Ctx.shs (x : Ctx) : Nat :=
  let pf := fun j => 16 - poolUse (vget x.clusters j Cluster.init)
  x.wcol.toNat + x.held.length % 32 * 2 + pf 0 * 2 ^ 6 + pf 1 * 2 ^ 11 + pf 2 * 2 ^ 16 + pf 3 * 2 ^ 21

/-- gst (R99). -/
def Ctx.gst (x : Ctx) : Nat :=
  1 + flagBits (fun i => i != 0 && x.guard i == .resolved true) 16 / 2 * 2 +
    flagBits (fun i => x.isOpen i) 16 * 2 ^ 16 + flagBits (fun i => i != 0 && x.hasPark i) 16 * 2 ^ 32

/-- bks (R166). -/
def State.bks (s : State) (c : Nat) : Nat :=
  let x := s.ctx c
  min (s.now - x.start - x.shift) 0xFFFFFFFF +
    (s.cal.any fun b => b.ctx == c && b.extending s.now).toNat * 2 ^ 36 + x.aged.toNat * 2 ^ 37 +
    ((s.boundTask c).map (·.pri)).getD 0 * 2 ^ 38

/-- The value of system register `n`; none where no register has the number (R168); the counters of strips and channels are those
of kernel columns (notes/assumptions/80.md). -/
def State.sysreg (s : State) (c : Nat) (k : Kernel) (n : Nat) : Option Nat :=
  let x := s.ctx c
  match n with
  | 0x000 => some x.nst.toNat
  | 0x001 => some x.rnk.toNat
  | 0x002 => some x.rnc.toNat
  | 0x003 => some x.shs
  | 0x004 => some x.gst
  | 0x005 => some (s.bks c)
  | 0x006 => some (((s.boundTask c).map (·.fra)).getD 0)
  | 0x007 => some k.kdat
  | 0x008 => some (x.loops.length + x.pl.toNat * 2 ^ 3 + x.pst.toNat * 2 ^ 4 + x.fel.toNat * 2 ^ 7 + x.fer.toNat * 2 ^ 8)
  | 0x009 => some (x.rem.toNat + x.strt.toNat * 2 ^ 32)
  | 0x00A => some x.links.length
  | 0x00B => some x.cq.length
  | 0x040 => some x.tvec.toNat
  | 0x041 => some x.tcs.toNat
  | 0x042 => some x.tpc.toNat
  | 0x043 => some x.tres.toNat
  | 0x044 => some x.tinf.toNat
  | 0x045 => some x.tseg.toNat
  | n =>
    if 0x010 ≤ n && n ≤ 0x01B then some (x.timeline (n - 0x010)).issued
    else if 0x020 ≤ n && n ≤ 0x02B then some (x.timeline (n - 0x020)).done
    else if 0x060 ≤ n && n ≤ 0x067 then some (vget x.perf (n - 0x060) 0).toNat
    else none

/-- Write `v` to system register `n`, field by field (R5, R40, R98, R171, R198, R387); rnc is written by the bundle. -/
def Ctx.writeSys (x : Ctx) (n : Nat) (v : Word) : Ctx :=
  match n with
  | 0x000 => { x with nst := nstRaise (nstWrite x.nst v) x.nowFlags }
  | 0x001 => { x with rnk := v }
  | 0x003 => { x with wcol := x.wcol && !v.getLsbD 0 }
  | 0x008 => { x with fer := x.fer || (x.pl && v.getLsbD 8) }
  | 0x040 => { x with tvec := v &&& 0x80000000000001FF#64 }
  | 0x043 => { x with tres := v }
  | 0x045 => { x with tseg := v &&& 0x1FF#64 }
  | n => if 0x060 ≤ n && n ≤ 0x067 then
      { x with perf := vset x.perf (n - 0x060) (v + BitVec.ofNat 64 (vget x.perfNow (n - 0x060) 0)) } else x

/-- A value that a write of a trap-state register refuses (R198). -/
def sysRefuses (k : Kernel) (n : Nat) (v : Word) : Bool :=
  (n == 0x040 && v.getLsbD 63 && decide (k.nseg ≤ fld v.toNat 0 9)) || (n == 0x045 && decide (k.nseg ≤ fld v.toNat 0 9))

/-- ia.srd (R169): reads t alone. A number no register has gives a shade a free value (R123, notes/assumptions/69.md). -/
def Work.srd (w : Work) (e : TrigEnv) : Work :=
  let read := fun (n : Vec) => w.s0.sysreg w.c w.k (n.toNat % 2 ^ 64)
  let (x, w) := w.openValue (e.t.any fun a => !a.void && (read a.val).isNone) 64
  w.fire e [] (.iaO e.col) 1 (e.col * 4) fun vs =>
    match read (vs.headD 0) with
    | some v => .word v
    | none => { val := x, fault := some (cBadOperand, 0) }

/-- ia.swr (R169). -/
def Work.swr (w : Work) (e : TrigEnv) : Work :=
  match w.singles e [.iaA] with
  | (w, some [a, t]) =>
    if a.void || t.void then w.consumePorts e [.iaA]
    else
      let n := a.word
      let v := BitVec.ofNat 64 t.word
      if (w.s0.sysreg w.c w.k n).isNone || sysRefuses w.k n v then w.stop e.slot cBadOperand
      else
        let w := w.consumePorts e [.iaA]
        if n == 0x002 then { w with rncW := some v } else w.modX fun x => x.writeSys n v
  | (w, _) => w

/-! ## Compares to cq (R174) and to guards (R108, R109) -/

def Work.compareCq (w : Work) (e : TrigEnv) (r : Rel) : Work :=
  match w.singles e [.iaA] with
  | (w, some [a, t]) =>
    let w := w.consumePorts e [.iaA]
    if a.void || t.void then w
    else
      let w := { w with cqTrigs := w.cqTrigs ++ [e.slot] }
      w.post e (e.col * 4) .cq 1 [{ val := BitVec.ofNat 2048 (r.holds a.word t.word).toNat }] 0
  | (w, _) => w

/-- The compare that writes a guard; beside a ploop it may write a guard of the loop (notes/assumptions/82.md). -/
def Work.compareGuard (w : Work) (e : TrigEnv) (r : Rel) : Work :=
  match w.singles e [.iaA, .iaG] with
  | (w, some [a, g, t]) =>
    let n := g.word
    if a.void || g.void || t.void then w.consumePorts e [.iaA, .iaG]
    else if n == 0 || decide (15 < n) then w.stop e.slot cBadOperand
    else if 8 ≤ n && w.x0.pl then w.stop e.slot cGuardState
    else
      let w := w.consumePorts e [.iaA, .iaG]
      let w := { w with guardTrigs := w.guardTrigs ++ [(e.slot, n)] }
      w.post e (e.col * 4) (.guard n) 1 [{ val := BitVec.ofNat 2048 (r.holds a.word t.word).toNat }] 0
  | (w, _) => w

/-- An ia.cg whose t is empty parks, where every condition of R109 holds. -/
def Work.park (w : Work) (slot col : Nat) (r : Rel) (g : GState) (trapEmpty : Bool) (l : Loc) : Work :=
  let wait := { w with empties := w.empties ++ [(slot, trapEmpty, .source l)] }
  if trapEmpty || g != .yes then wait
  else match w.operand col .iaA, w.operand col .iaG with
    | some [a], some [n] =>
      let gn := n.word
      if a.void || n.void || gn == 0 || decide (15 < gn) || !w.x0.isOpen gn || w.x.hasPark gn then wait
      else w.modX fun x =>
        let x := x.setAlts (.port col .iaA) (consume g (x.alts (.port col .iaA)))
        let x := x.setAlts (.port col .iaG) (consume g (x.alts (.port col .iaG)))
        { x with parked := x.parked ++ [{ g := gn, rel := r, a := BitVec.ofNat 64 a.word, loc := l, seq := w.s.resultSeq, slot := slot }] }
    | _, _ => wait

/-- Parked compares whose source is full now: the compare is evaluated and its guard written in the next cycle; a value
with alternatives ends the park, and so does a single void one (R109, notes/assumptions/87.md). -/
def Ctx.evalParks (x : Ctx) (now : Nat) : Ctx :=
  { x with parked := x.parked.filterMap fun p =>
      if p.due.isSome || !x.isFull p.loc then some p
      else match oneOf (x.alts p.loc) with
        | some v => some { p with due := some (now + 1, p.rel.holds p.a.toNat (v.toNat % 2 ^ 64)) }
        | none => none }

end Sys2Proof.Machine
end

