-- ==== Sys2Proof/Machine/Vector.lean ====
section
/-! DEFINITION. The vector unit (spec/08_vector.md R212-R228). -/

namespace Sys2Proof.Machine

/-! ## Elements and masks (R37, R215) -/

/-- Element `e` of `w` bits. -/
def elem (w : Nat) (v : Vec) (e : Nat) : Nat := fld v.toNat (w * e) w

/-- Elements side by side, their flags ORed. -/
def packElems (w : Nat) (es : List (Nat × Flags)) : Vec × Flags :=
  (BitVec.ofNat 2048 (ofList w (es.map (·.1))), es.foldl (fun fl e => fl ||| e.2) 0)

/-- A result of one part. -/
def Comp.elems (w : Nat) (es : List (Nat × Flags)) : Comp := let p := packElems w es; { val := p.1, flags := p.2 }

/-- A result of two parts. -/
def Comp.two (w : Nat) (lo hi : List (Nat × Flags)) : Comp :=
  let p := packElems w lo
  let q := packElems w hi
  { val := p.1, spill := q.1, flags := p.2 ||| q.2 }

/-- Lane activity: bit i for 32-bit elements, bit e / 2 for packed ones. -/
def active (w : Nat) (m : Vec) (e : Nat) : Bool := bitAt m.toNat (if w == 32 then e else e / 2)

/-- Element by element under the mask; inactive elements keep t. -/
def mapElems (w : Nat) (m t : Vec) (f : Nat → Nat × Flags) : Comp :=
  .elems w ((List.range (2048 / w)).map fun e => if active w m e then f e else (elem w t e, 0))

/-- A VEC trigger of latency `lat`. -/
def Work.vecOp (w : Work) (e : TrigEnv) (ports : List Port) (lat : Nat) (f : List Vec → Comp) : Work :=
  w.fire e ports (.vaO e.col) lat (e.col * 4 + 1) f

/-- The mould of R216 for two operands: va.a, va.m and t. -/
def Work.vecFloat (w : Work) (e : TrigEnv) (f : Fmt) (op : RMode → Nat → Nat → FRes) : Work :=
  w.vecOp e [.vaA, .vaM] 3 fun vs => match vs with
    | [a, m, t] => mapElems f.width m t fun i => op (e.rnd.at i) (elem f.width a i) (elem f.width t i)
    | _ => {}

/-- va.fma (R216). -/
def Work.vecFma (w : Work) (e : TrigEnv) (f : Fmt) : Work :=
  w.vecOp e [.vaA, .vaB, .vaM] 4 fun vs => match vs with
    | [a, b, m, t] =>
      mapElems f.width m t fun i => fFma f (e.rnd.at i) (elem f.width a i) (elem f.width b i) (elem f.width t i)
    | _ => {}

/-- Compares to a lane mask (R217). -/
def Work.vecCmp (w : Work) (e : TrigEnv) (r : Nat → Nat → Bool × Flags) : Work :=
  w.vecOp e [.vaA, .vaM] 3 fun vs => match vs with
    | [a, m, t] => .elems 1 ((List.range 64).map fun i =>
        if active 32 m i then (let p := r (lane a i) (lane t i); (p.1.toNat, p.2)) else (0, 0))
    | _ => {}

/-- Integer and bitwise operations (R218). -/
def Work.vecInt (w : Work) (e : TrigEnv) (f : Nat → Nat → Nat × Flags) : Work :=
  w.vecOp e [.vaA, .vaM] 3 fun vs => match vs with
    | [a, m, t] => mapElems 32 m t fun i => f (lane a i) (lane t i)
    | _ => {}

/-- va.adds.i32. -/
def addsI32 (a t : Nat) : Nat × Flags :=
  let x := toSigned 32 a + toSigned 32 t
  if x > 0x7FFFFFFF then (0x7FFFFFFF, Flags.sat)
  else if x < -0x80000000 then (0x80000000, Flags.sat)
  else (ofSigned 32 x, 0)

def minI32 (a t : Nat) : Nat := if toSigned 32 t < toSigned 32 a then t else a
def maxI32 (a t : Nat) : Nat := if toSigned 32 a < toSigned 32 t then t else a

/-- Sign operations on t alone (R219). -/
def Work.vecSign (w : Work) (e : TrigEnv) (f : Nat → Nat) : Work :=
  w.vecOp e [.vaM] 3 fun vs => match vs with
    | [m, t] => mapElems 32 m t fun i => (f (lane t i), 0)
    | _ => {}

/-! ## Conversions (R222) -/

/-- Lane by lane on t alone. -/
def Work.vecLanes (w : Work) (e : TrigEnv) (f : RMode → Nat → FRes) : Work :=
  w.vecOp e [] 3 fun vs => .elems 32 ((List.range 64).map fun i => f (e.rnd.at i) (lane (vs.headD 0) i))

/-- The 128 fp32 inputs of va.a and t (R222, R223). -/
def inputs128 (a t : Vec) : List Nat := (List.range 64).map (lane a) ++ (List.range 64).map (lane t)

def Work.vecNarrow (w : Work) (e : TrigEnv) (f : Fmt) : Work :=
  w.vecOp e [.vaA] 3 fun vs => match vs with
    | [a, t] => .elems f.width ((inputs128 a t).zipIdx.map fun p => fCvt f32 f (e.rnd.at p.2) p.1)
    | _ => {}

/-- Widening: elements 0-63 of the half, then 64-127. -/
def Work.vecWiden (w : Work) (e : TrigEnv) (f : Fmt) : Work :=
  w.fireMulti e [] fun c vs =>
    let t := vs.headD 0
    let off := if f.width == 8 then 128 * (fld c 4 1) else 0
    let part := fun lo => (List.range 64).map fun i => fCvt f f32 .rne (elem f.width t (off + lo + i))
    .two 32 (part 0) (part 64)

/-! ## Split-exponent blocks (R223, R224) -/

/-- va.pk: `width` is the port's width code. -/
def Work.vecPack (w : Work) (e : TrigEnv) (width : Nat) : Work :=
  w.fireMulti e [.vaA] fun c vs => match vs with
    | [a, t] =>
      let code := width * 4 + fld c 5 2
      let n := sxCount width
      let xs := inputs128 a t
      let bs := (List.range ((128 + n - 1) / n)).map fun b => sxPack e.rnd code ((xs.drop (b * n)).take n) (b * n)
      { val := BitVec.ofNat 2048 (ofList 512 (bs.map (·.1))), spill := BitVec.ofNat 2048 (ofList 16 (bs.map (·.2.1))),
        flags := bs.foldl (fun fl b => fl ||| b.2.2) 0 }
    | _ => {}

/-- The elements of blocks `b` on, while fewer than `need` have been read; none on a bad husk (notes/assumptions/46.md). -/
def unpackFrom (husks blocks : Nat) : Nat → Nat → Nat → Option (List FRes)
  | 0, _, _ => some []
  | fuel + 1, b, need =>
    if need == 0 then some []
    else
      let h := fld husks (16 * b) 16
      if fld h 4 4 != 0 then none
      else
        let width := fld h 2 2
        let n := min (sxCount width) need
        let blk := fld blocks (512 * b) 512
        (unpackFrom husks blocks fuel (b + 1) (need - n)).map
          ((List.range n).map (fun j => sxToF32 h (fld blk (sxBits width * j) (sxBits width))) ++ ·)

def Work.vecUnpack (w : Work) (e : TrigEnv) : Work :=
  w.fireMulti e [.vaA] fun _ vs => match vs with
    | [a, t] => match unpackFrom (a.toNat % 2 ^ 64) t.toNat 4 0 128 with
      | none => { fault := some (cBadHusk, 0) }
      | some ys => .two 32 (ys.take 64) (ys.drop 64)
    | _ => {}

/-! ## Images, planes and lane movement (R225-R228) -/

/-- A lane map of t without flags. -/
def Work.vecMap (w : Work) (e : TrigEnv) (f : Nat → Nat) : Work :=
  w.vecOp e [] 3 fun vs => { val := ofLanes fun i => f (lane (vs.headD 0) i) }

/-- va.pln: bit l of plane j is bit j of lane l. -/
def planes (t : Vec) : Vec := BitVec.ofNat 2048 (ofElems 64 32 fun j => ofBits 64 fun l => bitAt t.toNat (32 * l + j))

/-- va.upln. -/
def unplanes (t : Vec) : Vec := BitVec.ofNat 2048 (ofElems 32 64 fun l => ofBits 32 fun j => bitAt t.toNat (64 * j + l))

/-- An operation on va.a, va.m and t that gives a whole vector. -/
def Work.vecMove (w : Work) (e : TrigEnv) (f : Vec → Nat → Vec → Vec) : Work :=
  w.vecOp e [.vaA, .vaM] 3 fun vs => match vs with
    | [a, m, t] => { val := f a (m.toNat % 2 ^ 64) t }
    | _ => {}

def permute (a : Vec) (m : Nat) (t : Vec) : Vec := ofLanes fun i => if bitAt m i then lane a (lane t i % 64) else 0

def select (a : Vec) (m : Nat) (t : Vec) : Vec := ofLanes fun i => if bitAt m i then lane a i else lane t i

/-- The active lane numbers, ascending. -/
def activeLanes (m : Nat) : List Nat := (List.range 64).filter (bitAt m)

def compress (a : Vec) (m : Nat) (t : Vec) : Vec :=
  let ls := activeLanes m
  ofLanes fun i => if i < ls.length then lane a (ls.getD i 0) else lane t i

def expand (a : Vec) (m : Nat) (t : Vec) : Vec :=
  ofLanes fun i => if bitAt m i then lane a (popCount i m) else lane t i

/-- va.bcast reads va.a and t. -/
def Work.vecBcast (w : Work) (e : TrigEnv) : Work :=
  w.vecOp e [.vaA] 3 fun vs => match vs with
    | [a, t] => { val := repeatBits 32 (lane a (lane t 0 % 64)) }
    | _ => {}

end Sys2Proof.Machine
end

