-- ==== Sys2Proof/Machine/Special.lean ====
section
/-! DEFINITION. The special-function unit and the reduction slot (spec/08_vector.md R229-R234). -/

namespace Sys2Proof.Machine

/-- An SFN operation on t alone. -/
def Work.sfn (w : Work) (e : TrigEnv) (lat : Nat) (f : RMode → Nat → FRes) : Work :=
  w.fire e [] (.sfO e.col) lat (e.col * 4 + 2) fun vs =>
    .elems 32 ((List.range 64).map fun i => f (e.rnd.at i) (lane (vs.headD 0) i))

/-- sf.div reads sf.a and t. -/
def Work.sfnDiv (w : Work) (e : TrigEnv) : Work :=
  w.fire e [.sfA] (.sfO e.col) 14 (e.col * 4 + 2) fun vs => match vs with
    | [a, t] => .elems 32 ((List.range 64).map fun i => fDiv (e.rnd.at i) (lane a i) (lane t i))
    | _ => {}

/-! ## RED (R231-R234) -/

/-- What latch `q` will hold once every earlier RED trigger into it has landed: a result that an enabled flag keeps from
being written leaves it as it is (R41, R232). -/
def Ctx.chained (x : Ctx) (q : Nat) : List (Alt 2048) :=
  (x.flight.foldl (fun b f => if f.dest == .rdP q && (flagTrap x.nst f.flags).isNone then some f.settled.alts else b) none).getD
    (x.alts (.rdP q))

/-- Every earlier result into latch `q` will be written whatever the enables become: none raises a flag (R41). -/
def Ctx.chainSure (x : Ctx) (q : Nat) : Bool :=
  x.flight.all fun f => f.dest != .rdP q || (f.flags == 0 && f.red.isNone && f.alts.all fun a => a.own == 0)

/-- rd.sum.f32. -/
def redSumF (r : Rnd) (m v : Nat) (t : Vec) : Nat × Flags :=
  foldAdd r (v % 2 ^ 32, 0) ((activeLanes m).map fun i => (i, lane t i))

/-- rd.sum.i32. -/
def redSumI (m v : Nat) (t : Vec) : Nat × Flags :=
  ((activeLanes m).foldl (fun a i => (a + ofSigned 64 (toSigned 32 (lane t i))) % 2 ^ 64) v, 0)

/-- rd.max.f32 and rd.min.f32. -/
def redMinMaxF (isMax : Bool) (m v : Nat) (t : Vec) : Nat × Flags :=
  (activeLanes m).foldl (fun a i => let r := fMinMax f32 isMax a.1 (lane t i); (r.1, a.2 ||| r.2)) (v % 2 ^ 32, 0)

/-- rd.max.i32 and rd.min.i32. -/
def redMinMaxI (isMax : Bool) (m v : Nat) (t : Vec) : Nat × Flags :=
  let r := (activeLanes m).foldl (fun a i => if isMax then maxI32 a (lane t i) else minI32 a (lane t i)) (v % 2 ^ 32)
  (ofSigned 64 (toSigned 32 r), 0)

/-- rd.amax.f32 and rd.amin.f32. -/
def redArg (isMax : Bool) (m v : Nat) (t : Vec) : Nat × Flags :=
  let chk := fld v 48 16
  let r := (activeLanes m).foldl (fun (a : Nat × Nat) i =>
    let x := image f32 (lane t i)
    let y := image f32 a.1
    if (if isMax then decide (y < x) else decide (x < y)) then (lane t i, (64 * chk + i) % 2 ^ 16) else a)
    (fld v 0 32, fld v 32 16)
  (r.1 + r.2 * 2 ^ 32 + (chk + 1) % 2 ^ 16 * 2 ^ 48, 0)

/-- The fold of an operation over the active lanes of t, from what the latch held (R233). -/
def RedOp.fold (op : RedOp) (r : Rnd) : Nat → Nat → Vec → Nat × Flags :=
  match op with
  | .sumF => redSumF r
  | .sumI => redSumI
  | .maxF => redMinMaxF true
  | .minF => redMinMaxF false
  | .maxI => redMinMaxI true
  | .minI => redMinMaxI false
  | .amax => redArg true
  | .amin => redArg false

/-- A RED result where the cell is owned, and `lacking` with an overrun where it is not (R234). -/
def redComp (lacking : Option Vec) (r : Nat × Flags) : Comp :=
  match lacking with
  | none => { val := BitVec.ofNat 2048 (r.1 % 2 ^ 64), flags := r.2 }
  | some v => { val := v, fault := some (cOverrun, 13) }

/-- What a fold computes from one value each of rd.l, rd.m, the latch and t. -/
def RedOp.comp (op : RedOp) (r : Rnd) (lacking : Option Vec) (vs : List Vec) : Comp :=
  match vs with
  | [_, m, v, t] => redComp lacking (op.fold r (m.toNat % 2 ^ 64) (v.toNat % 2 ^ 64) t)
  | _ => {}

/-- The fold over what its latch holds now. -/
def RedStep.formed (r : RedStep) (latch : List (Alt 2048)) : Formed :=
  let g : GState := match r.lit with | some l => .opened l.1 l.2 | none => .yes
  formResult g [r.l, r.m, latch, r.t] (r.op.comp { code := r.code, rnk := r.rnk, rnc := r.rnc } r.lacking) r.shade

/-- A fold whose start was not certain as it was issued starts from what its latch holds as it lands: every earlier result into the
latch has landed by then (R232). -/
def Ctx.refold (x : Ctx) (f : InFlight) : InFlight :=
  match f.red with
  | none => f
  | some r =>
    let p := r.formed (x.alts f.dest)
    { f with alts := p.alts, flags := p.flags }

/-- The single number of a latch that rd.l gives (R231); a grey one out of range does not stop the bundle (R124), and names the latch of
its low two bits (notes/assumptions/69.md). Several alternatives collapse (R116), with the terms of all that the slot
reads (R117). -/
def Work.redLatch (w : Work) (e : TrigEnv) (masked : Bool) (go : Nat → Work) : Work :=
  match w.operand e.col .rdL with
  | some [l] => if l.word > 3 && l.grey.isNone then w.stop e.slot cBadOperand else go (l.word % 4)
  | some as =>
    let latches := as.flatMap fun a => termsOf (w.x.chained (a.word % 4))
    w.collapse e.slot (lowestGuard (e.g.term :: termsOf as ++ termsOf e.t ++
      (if masked then termsOf ((w.operand e.col .rdM).getD []) ++ latches else [])))
  | none => w

/-- A fold: the latch number (R231) and the RED cell (R234), whose overrun is deferred where the result is a shade (R123) and does
not arise where t is void (notes/assumptions/79.md); then the active lanes of t over the chained latch (R232). rd.l's grey mark goes
first (R231, R124). -/
def Work.red (w : Work) (e : TrigEnv) (op : RedOp) : Work :=
  w.redLatch e true fun q =>
    let owned := w.s0.owns w.c 13 w.now
    let sure := w.x.chainSure q
    let a := w.openValue (!owned) 64
    let lacking := if owned then none else some a.1
    let step : RedStep :=
      { op := op, code := e.rnd.code, rnk := e.rnd.rnk, rnc := e.rnd.rnc, lit := match e.g with | .opened n b => some (n, b) | _ => none
        l := (w.operand e.col .rdL).getD [], m := (w.operand e.col .rdM).getD [], t := e.t, lacking := lacking }
    a.2.fire e [.rdL, .rdM] (.rdP q) 6 16 (op.comp e.rnd lacking) [w.x.chained q]
      fun shade => if sure then none else some { step with shade := shade }

/-- rd.set writes lane 0 of t; it folds nothing, and reads no mask and no latch (R233; notes/assumptions/27.md). -/
def Work.redSet (w : Work) (e : TrigEnv) : Work :=
  w.redLatch e false fun q =>
    let owned := w.s0.owns w.c 13 w.now
    let a := w.openValue (!owned) 64
    a.2.fire e [.rdL] (.rdP q) 6 16 fun vs => match vs with
      | [_, t] => redComp (if owned then none else some a.1) (lane t 0, 0)
      | _ => {}

end Sys2Proof.Machine
end

