-- ==== Sys2Proof/Machine/Issue.lean ====
section
/-! DEFINITION. The issue of a bundle: its slots in the order of R85, the decision of R196, and its commit
(spec/03_bundles.md R84-R86; spec/04_shades.md R101, R114, R117, R118, R126, R127; spec/07_traps.md R193-R196). -/

namespace Sys2Proof.Machine

/-! ## Slots as the issue sees them -/

/-- A trigger: its unit in the column (0 IAU, 1 VEC, 2 SFN, 3 LSU, 4 RED), whether t is a vector, whether it rounds (R53),
the relation of an ia.cg (R109), and what it does. -/
structure Trig where
  unit : Nat
  wide : Bool := false
  rounds : Bool := false
  park : Option Rel := none
  run : Work → TrigEnv → Work

/-- An engine command: its engine's id (R78), whether it carries a release (R279), and what it does. -/
structure Eng where
  id : Nat
  run : Work → EngEnv → Work

/-- A slot (R61). -/
inductive SlotOp where
  | nop
  | bad (r : Reject)
  | imm (v : BitVec 21)
  | move (h : MoveHead) (d : Dest)
  | trig (h : MoveHead) (t : Trig)
  | eng (h : EngHead) (e : Eng)
  | ctl (o : Ctl)

/-! ## Step 1 of R196: decode faults (R84) -/

/-- The cause of a rejected encoding; an illegal wait is an issue fault, but for its segment (R81, R82). -/
def rejectCause (nseg : Nat) : Reject → Option Cause
  | .illegalSlot => some cIllegalSlot
  | .illegalSource => some cIllegalSource
  | .illegalDestination => some cIllegalDestination
  | .illegalEngine => some cIllegalEngine
  | .illegalCommand => some cIllegalCommand
  | .illegalControl => some cIllegalControl
  | .illegalWait q => if q.toNat < nseg then none else some cIllegalControl

/-- The cluster a destination names (R70). -/
def destCluster : Dest → Nat
  | .s cl _ => cl.val
  | .v cl _ => cl.val
  | .m cl _ => cl.val
  | _ => 0

/-- The decode fault of one slot, if it has one. -/
def SlotOp.decodeFault (k : Kernel) : SlotOp → Option Cause
  | .bad r => rejectCause k.nseg r
  | .move _ d => if k.width ≤ destCluster d then some cIllegalDestination else none
  | .ctl o => match o.segment with
    | some q => if k.nseg ≤ q then some cIllegalControl else none
    | none => none
  | _ => none

/-- Slots with their numbers. -/
abbrev Slots := List (SlotOp × Nat)

/-- The lowest-numbered decode fault. -/
def decodeFaultOf (k : Kernel) (sl : Slots) : Option (Nat × Cause) :=
  sl.findSome? fun p => (p.1.decodeFault k).map fun c => (p.2, c)

/-! ## Immediates (R69) -/

def Slots.immAt (sl : Slots) (n : Nat) : Option (BitVec 21) :=
  sl.findSome? fun p => match p.1 with
    | .imm v => if p.2 == n then some v else none
    | _ => none

/-- What the immediate slots of column `j` give ix. -/
def Slots.immediate (sl : Slots) (j : Nat) : Option Word :=
  match sl.immAt (2 * j), sl.immAt (2 * j + 1) with
  | some a, some b => some ((b ++ a).signExtend 64)
  | some a, none => some (a.signExtend 64)
  | none, some b => some (b.signExtend 64)
  | none, none => none

/-- The slot that writes ix for column `j`: the lower one of a pair. -/
def Work.immSlot (w : Work) (sl : Slots) (n : Nat) : Work :=
  if n % 2 == 1 && (sl.immAt (n - 1)).isSome then w
  else match w.imm (n / 2) with
    | some v => (w.modX fun x => x.modCol (n / 2) fun y => { y with ix := v }).wrote n (.ix (n / 2)) []
    | none => w

/-! ## Triggers and engine commands (step 3 of R85) -/

/-- The rounding of a trigger in column `col` and the random value it takes (R53, R74). -/
def Work.rounding (w : Work) (col : Nat) : Rnd :=
  let code := ((w.rm.find? (·.1 == col)).map (·.2)).getD 0
  { code := code, rnk := w.x0.rnk.toNat, rnc := (w.x0.rnc.toNat + w.rsOps) % 2 ^ 64 }

/-- Note the use of a unit (R86). -/
def Work.useUnit (w : Work) (slot key : Nat) : Work :=
  if w.units.contains key then { w with unitConf := w.unitConf ++ [slot] } else { w with units := key :: w.units }

def Work.useEngine (w : Work) (slot key : Nat) : Work :=
  if w.engs.contains key then { w with engConf := w.engConf ++ [slot] } else { w with engs := key :: w.engs }

/-- A trigger slot. -/
def Work.trigger (w : Work) (slot : Nat) (h : MoveHead) (t : Trig) : Work :=
  let col := slot / 2
  let g := w.gstate h
  if g == .no then w
  else
    let w := w.useUnit slot (if t.unit == 4 then 16 else col * 4 + t.unit)
    let src := w.s0.source w.c w.k col (w.imm col) h.src
    match src.empty, t.park with
    | some l, some r => w.park slot col r g h.trapEmpty l
    | _, _ =>
      let (r, w) := w.read slot col h
      if r.empty.isSome then w
      else
        let rnd := w.rounding col
        let w := if t.rounds && rnd.code == 4 then { w with rsOps := w.rsOps + 1 } else w
        t.run w { slot := slot, col := col, g := g, rnd := rnd, trapEmpty := h.trapEmpty,
                  t := (fitAlts r.wide t.wide r.alts).map fun a => { a with hold := false } }

/-- The timeline counter of an engine in kernel column `col` (R78). -/
def counterOf (id col : Nat) : Nat :=
  match id with
  | 0 => col
  | 1 => 4 + col
  | n => n + 6

/-- The cells of the spans that `ran` occupies beside those of `w`, as far as the context owns them. -/
def Work.spanCells (w ran : Work) : List (Nat × Nat × Nat × Nat) :=
  (ran.s.occ.take (ran.s.occ.length - w.s.occ.length)).flatMap fun o =>
    (List.range (o.2.2.2 + 1 - o.2.2.1)).filterMap fun i =>
      if w.s0.owns w.c o.2.1 (o.2.2.1 + i) then some (w.c, o.2.1, o.2.2.1 + i, o.2.2.1 + i) else none

/-- A command under a false guard, where `ran` is the bundle had it issued with nothing checked but its operands: it takes its
number, completes at once, and holds the span that it would have used (R80, R159, notes/assumptions/55.md). -/
def Work.heldDone (w ran : Work) (i : Nat) : Work :=
  let v := w.takeDone i
  { v with s := { v.s with occ := w.spanCells ran ++ v.s.occ }, banks := ran.banks }

/-- An engine command slot (R80, R116). -/
def Work.command (w : Work) (slot : Nat) (h : EngHead) (e : Eng) : Work :=
  let col := slot / 2
  let w := w.useEngine slot (if e.id < 2 then e.id * 4 + col else 16 + e.id)
  let word := fun i => (vget (w.x.col col).sg (4 * h.set.val + i) 0).toNat
  let run := fun (w : Work) => e.run w { slot := slot, col := col, w0 := word 0, w1 := word 1, w2 := word 2, w3 := word 3 }
  match w.x0.gstate h.inv h.g.val with
  | .opened n _ => w.collapse slot (some n)
  | .no => w.heldDone (run { w with dry := true }) (counterOf e.id col)
  | .yes => run w

/-! ## The whole bundle (R85) -/

def Work.early (w : Work) (sl : Slots) (p : SlotOp × Nat) : Work :=
  match p.1 with
  | .imm _ => w.immSlot sl p.2
  | .move h d => w.moveEarly p.2 (p.2 / 2) h d
  | _ => w

def Work.middle (w : Work) (p : SlotOp × Nat) : Work :=
  match p.1 with
  | .trig h t => w.trigger p.2 h t
  | .eng h e => w.command p.2 h e
  | _ => w

def Work.late (w : Work) (p : SlotOp × Nat) : Work :=
  match p.1 with
  | .move h d => w.moveLate p.2 (p.2 / 2) h d
  | _ => w

def Slots.ctls (sl : Slots) : List CtlSlot :=
  sl.filterMap fun p => match p.1 with
    | .ctl o => some { slot := p.2, op := o }
    | _ => none

/-- The slot to blame for an exhausted vector pool of cluster `cl`: the highest one without which the writes fit (R114) (notes/assumptions/42.md). -/
def poolBlame (x : Ctx) (cl : Nat) : List (Nat × Nat × Nat) → Nat → Option (Nat × Option Nat)
  | [], _ => none
  | (_, n, slot) :: rest, use =>
    let as := x.alts (.v cl n)
    if use - (as.length - 1) ≤ 16 then some (slot, lowestGuard (termsOf as)) else poolBlame x cl rest (use - (as.length - 1))

/-- The vector pools must hold every alternative (R114). -/
def Work.checkPools (w : Work) : Work :=
  (List.range 4).foldl (fun w cl =>
    let use := poolUse (vget w.x.clusters cl Cluster.init)
    if use ≤ 16 then w
    else
      let writers := sortBy (fun (a b : Nat × Nat × Nat) => decide (b.2.2 ≤ a.2.2)) (w.vecs.filter (·.1 == cl))
      match poolBlame w.x cl writers use with
      | some (slot, g) =>
        w.collapse slot (leastOf (g.toList ++ (lowestGuard ((w.vecTerms.filter (·.1 == slot)).map (·.2))).toList))
      | none => w) w

/-- Every slot examined, with the effects the bundle would have up to its control ops. -/
def Work.examine (w : Work) (sl : Slots) : Work :=
  let w : Work := sl.foldl (fun w p => w.early sl p) w
  let w : Work := sl.foldl (fun w p => w.middle p) w
  let w : Work := sl.foldl (fun w p => w.late p) w
  w.checkPools.examineCtl sl.ctls

/-! ## Decision (R196) -/

/-- The element of the lowest slot, the first one on a tie. -/
def lowestSlot {α : Type} : List (Nat × α) → Option (Nat × α)
  | [] => none
  | x :: xs => match lowestSlot xs with
    | none => some x
    | some y => if y.1 < x.1 then some y else some x

/-- An issue trap at this boundary. -/
def State.issueTrap (s : State) (c slot : Nat) (cause : Cause) (info : Nat) : State :=
  s.takeTrap c { cause := cause, cls := 0, slot := slot % 8, pc := (s.ctx c).pc, info := info }

/-- A walk starts for the bundle, which is forced to yield (R292). -/
def State.startWalk (s : State) (c va : Nat) : State :=
  let (d, s) := s.delay
  let id := s.resultSeq
  let s := { s with
    walks := s.walks ++ [({ id := id, ctx := c, tenant := s.tenantOf c, va := va, due := s.now + 1 + d } : Walk)]
    resultSeq := id + 1 }
  s.forceYield c (.walk id)

/-- A case of step 5 takes effect. -/
def State.stopped (s : State) (c slot : Nat) : Stop → State
  | .trap cause info => s.issueTrap c slot cause info
  | .yield w => s.forceYield c w
  | .walk va => s.startWalk c va
  | .page va wr => s.pageWait c va wr
  | .latched i d =>
    (s.issueTrap c slot (if d.poison then cPoison else cPermission) d.va).modCtx c fun x =>
      { x with tl := vmod x.tl i fun t => { t with latch := none } }
  | .unread u => (s.logUnread (some (c, s.tenantOf c)) u).issueTrap c slot u.cause u.va
  | .poisoned a n =>
    (s.logPoison s.poisonS c (s.tenantOf c) (s.windowKey (s.ctx c).base a) n 3).issueTrap c slot cPoison a

/-- A collapse at the blocking guard `g` (R118); one that no guard blocks has no resolver (notes/assumptions/75.md). -/
def State.collapsed (s : State) (c slot : Nat) (smode : Bool) (g : Option Nat) : State :=
  let s := s.modCtx c fun x => x.count 3
  if smode then s.issueTrap c slot cShadeMode 0
  else match g with
    | some n => if (s.ctx c).hasPark n then s.forceYield c (.guard n slot) else s.issueTrap c slot cNoResolver 0
    | none => s.issueTrap c slot cNoResolver 0

/-- The bundle's fate where it does not commit: steps 2 to 6. -/
def Work.refusal (w : Work) : Option State :=
  match lowestSlot w.empties with
  | some (slot, trap, f) => some (if trap then w.s0.issueTrap w.c slot cEmptySource 0 else w.s0.forceYield w.c f)
  | none =>
    match leastOf (w.collapses.map (·.1)) with
    | some slot =>
      some (w.s0.collapsed w.c slot w.k.smode (leastOf ((w.collapses.filter (·.1 == slot)).filterMap (·.2))))
    | none =>
      match leastOf w.unitConf, leastOf w.engConf with
      | some slot, _ => some (w.s0.issueTrap w.c slot cUnitConflict 0)
      | none, some slot => some (w.s0.issueTrap w.c slot cEngineConflict 0)
      | none, none =>
        match leastOf (w.stops.map (·.1)) with
        | some slot =>
          (firstStop ((w.stops.filter (·.1 == slot)).map (·.2))).map fun t => w.s0.stopped w.c slot t
        | none =>
          match w.k.strict, leastOf w.colls with
          | true, some slot => some (w.s0.issueTrap w.c slot cWriteCollision 0)
          | _, _ => none

/-! ## Commit -/

/-- Moves to guards land (R105, R127): of several writes of one guard that land together the highest slot wins. -/
def Work.commitGuards (w : Work) (ops : List CtlSlot) : Work :=
  let w := w.guardMoves.foldl (fun w m =>
    let (slot, n, v) := m
    match w.guardOver ops slot n with
    | some top => w.modX fun x => x.landCollision w.k.strict top w.x0.pc
    | none =>
      let meets := w.guardMeets slot n
      let w := w.guardLast n
      let w := w.modX fun x => x.writeGuard n v w.now false
      if meets then w.modX fun x => x.landCollision w.k.strict slot w.x0.pc else w) w
  ops.foldl (fun w o => match o.op with
    | .gopen m => (List.range 16).foldl (fun w n => if bitAt m n then w.gopenMeets ops o.slot n else w) w
    | _ => w) w

/-- A queue with `f` applied to what was appended to its first `n` entries. -/
def onNew {α : Type} (n : Nat) (f : α → α) (l : List α) : List α := l.take n ++ (l.drop n).map f

/-- A copy channel without commands. -/
def noChan : Chan := { cmds := [], parked := [], retryAt := 0 }

/-- Until when the tile drains of the bundle hold their tiles, where a release they carry holds their writes (R244, R322). -/
def State.sealDrains (s : State) (c : Nat) : State :=
  let held := fun (d : Drain) => s.chans.toList.any fun h => h.cmds.any fun m =>
    m.ctx == c && m.num == d.num && m.tile == d.tile && m.rel && (s.drainEnds m).isNone
  let now := fun (d : Drain) => if d.ctx == c && held d then { d with ends := none } else d
  { s with strips := vmap (fun t => { t with drains := t.drains.map now }) s.strips }

/-- Engine commands issued in this bundle learn which stores go before them (R279, R282) and which operations a signal
waits for (R336). Commands are appended as they issue. -/
def Work.seal (w : Work) : Work :=
  if w.engs.isEmpty then w
  else
    let seq := w.s.storeSeq
    let old := fun (j : Nat) => (vget w.s0.chans j noChan).cmds.length
    let all := Vector.replicate 4 seq
    let cp := fun (m : CpCmd) => if m.rel then { m with stamp := seq, bars := all } else { m with stamp := seq }
    let ck := fun (m : CkCmd) => if m.pub then { m with stamp := seq, bars := all } else { m with stamp := seq }
    let fences := fun (m : SynCmd) => !m.op.isPhaser && decide (2 ≤ m.sem)
    let sy := fun (m : SynCmd) =>
      let m := { m with need := if m.op.isSignal then w.x.signalNeeds m.num else m.need }
      if fences m then { m with stamp := seq, bars := all } else { m with stamp := seq }
    let fence := ((List.range 4).any fun j => ((vget w.s.chans j noChan).cmds.drop (old j)).any (·.rel)) ||
      (w.s.ckp.drop w.s0.ckp.length).any (·.pub) || (w.s.syn.drop w.s0.syn.length).any fences
    let w := { w with s := { w.s with
      chans := vgen 5 fun j => { vget w.s.chans j noChan with cmds := onNew (old j) cp (vget w.s.chans j noChan).cmds }
      ckp := onNew w.s0.ckp.length ck w.s.ckp
      syn := onNew w.s0.syn.length sy w.s.syn } }
    if fence then ({ w with s := w.s.sealDrains w.c } : Work).modX fun x => x.releaseFence seq 15 else w

/-- What the commit of any bundle does to its context: parked compares see its registers (R109), it is counted (R387), rnc
moves by `rs` roundings or takes the value written (R53), a write collision is noted (R98). -/
def Ctx.committed (x : Ctx) (now rs : Nat) (rncW : Option Word) (coll : Bool) : Ctx :=
  { (x.evalParks now).count 1 with rnc := rncW.getD (x.rnc + BitVec.ofNat 64 rs), wcol := x.wcol || coll, walked := [] }

/-- The bundle commits every effect. Parked compares see its registers before the guards that it moves resolve in the next cycle
(R106, R109). A fork at a pass boundary takes its child's image after the rotation (notes/assumptions/88.md). -/
def Work.commit (w : Work) (ops : List CtlSlot) : Except Fault State := do
  let w := w.modX fun x => x.committed w.now w.rsOps w.rncW !w.colls.isEmpty
  let w := w.commitGuards ops
  let w := match leastOf w.landColls with
    | some slot => w.modX fun x => x.landCollision w.k.strict slot w.x0.pc
    | none => w
  let w := w.commitFlow ops
  let w ← w.commitOps ops
  ((w.seal.commitTrap ops).commitTret ops).commitTask ops

/-- A commit whose frame access is refused: the bundle takes the fault and commits nothing (R290, R302, R303). -/
def State.frameFault (s : State) (c : Nat) (ops : List CtlSlot) (f : Fault) : Except Fault State :=
  match s.frameRefusal f with
  | some (t, u) => .ok ((s.logUnread (some (c, t)) u).issueTrap c (((ops.find? (·.op.isTask)).map (·.slot)).getD 0) u.cause u.va)
  | none => .error f

/-- The bundle of context `c` issues: it commits, or meets its fate. -/
def State.runBundle (s : State) (c : Nat) (k : Kernel) (ops : List SlotOp) : Except Fault State :=
  let sl : Slots := ops.zipIdx
  match decodeFaultOf k sl with
  | some (slot, cause) => .ok (s.issueTrap c slot cause 0)
  | none =>
    let w := ({ c := c, k := k, s0 := s, s := s, imm := sl.immediate } : Work).examine sl
    match w.refusal with
    | some s' => .ok s'
    | none => match w.commit sl.ctls with
      | .ok s' => .ok s'
      | .error f => s.frameFault c sl.ctls f

/-! ## The head of the held-store buffer (R120, R264, R295) -/

/-- A held store that may perform now but whose page is lacking, or whose queue is full, keeps the bundle from issuing. -/
def State.heldBar (s : State) (c : Nat) : Option State :=
  let x := s.ctx c
  match x.held with
  | [] => none
  | h :: _ =>
    if !h.term.isEmpty || h.grey.isSome || h.scratch then none
    else if h.absent then
      if (s.heldPage c).isSome then none
      else some ((s.modCtx c fun x => { x with held := { h with asked := true } :: x.held.tail }).pageWait c h.va true)
    else
      let q := (x.col h.col).storeQ
      if q.length ≥ 32 then some (s.forceYield c (.storeOut h.col ((q.head?.map (·.seq)).getD 0))) else none

/-- An overrun of a held store is taken: one that another trap goes before waits for the next boundary (R265,
notes/assumptions/71.md). -/
def State.heldOverrun (s : State) (c : Nat) : Option State :=
  (s.ctx c).pendO.map fun r => (s.issueTrap c 0 cOverrun r).modCtx c fun x => { x with pendO := none }

/-- The trap of a context whose forced yield on a guard ended without its resolution (R109). -/
def State.noResolver (s : State) (c : Nat) : Option State :=
  (s.ctx c).stranded.map fun slot => (s.issueTrap c slot cNoResolver 0).modCtx c fun x => { x with stranded := none }

/-- What the boundary itself decides before the bundle is examined. -/
def State.boundaryBar (s : State) (c : Nat) : Option State := ((s.heldOverrun c).or (s.noResolver c)).or (s.heldBar c)

/-- The issue of the slots `ops` by the context that `issue` names; without a task there is nothing to issue. -/
def State.issueSlots (s : State) (ops : List SlotOp) : Except Fault State :=
  let c := s.issue.ctx.val
  match s.boundTask c with
  | none => .ok s
  | some t => match s.kernelOf t with
    | none => .ok s
    | some k => match s.boundaryBar c with
      | some s' => .ok s'
      | none => s.runBundle c k ops

end Sys2Proof.Machine
end

