-- ==== Sys2Proof/Machine/Slots.lean ====
section
/-! DEFINITION. What each instruction puts into its slot: the operation of its unit, engine or control op. The rules are named
at the constructors of `Instr` and at the operations (spec/03_bundles.md R75-R82). -/

namespace Sys2Proof.Machine

def slotMove (h : MoveHead) (d : Dest) : SlotOp := .move h d

def slotImmediate (v : BitVec 21) : SlotOp := .imm v

def slotIaAdd (h : MoveHead) : SlotOp := .trig h { unit := 0, run := fun w e => w.iau e iaAddF }

def slotIaSub (h : MoveHead) : SlotOp := .trig h { unit := 0, run := fun w e => w.iau e iaSubF }

def slotIaMul (h : MoveHead) : SlotOp := .trig h { unit := 0, run := fun w e => w.iau e iaMulF }

def slotIaMulhI64 (h : MoveHead) : SlotOp := .trig h { unit := 0, run := fun w e => w.iau e iaMulhF }

def slotIaAnd (h : MoveHead) : SlotOp := .trig h { unit := 0, run := fun w e => w.iau e iaAndF }

def slotIaOr (h : MoveHead) : SlotOp := .trig h { unit := 0, run := fun w e => w.iau e iaOrF }

def slotIaXor (h : MoveHead) : SlotOp := .trig h { unit := 0, run := fun w e => w.iau e iaXorF }

def slotIaShl (h : MoveHead) : SlotOp := .trig h { unit := 0, run := fun w e => w.iau e iaShlF }

def slotIaShrN64 (h : MoveHead) : SlotOp := .trig h { unit := 0, run := fun w e => w.iau e iaShrNF }

def slotIaShrI64 (h : MoveHead) : SlotOp := .trig h { unit := 0, run := fun w e => w.iau e iaShrIF }

def slotIaMinI64 (h : MoveHead) : SlotOp := .trig h { unit := 0, run := fun w e => w.iau e iaMinF }

def slotIaMaxI64 (h : MoveHead) : SlotOp := .trig h { unit := 0, run := fun w e => w.iau e iaMaxF }

def slotIaAddsI64 (h : MoveHead) : SlotOp := .trig h { unit := 0, run := fun w e => w.iau e iaAddsF }

def slotIaSubsI64 (h : MoveHead) : SlotOp := .trig h { unit := 0, run := fun w e => w.iau e iaSubsF }

def slotIaEq (h : MoveHead) : SlotOp := .trig h { unit := 0, run := fun w e => w.iau e (iaRelF .eq) }

def slotIaLtI64 (h : MoveHead) : SlotOp := .trig h { unit := 0, run := fun w e => w.iau e (iaRelF .ltI64) }

def slotIaLtN64 (h : MoveHead) : SlotOp := .trig h { unit := 0, run := fun w e => w.iau e (iaRelF .ltN64) }

def slotIaCqEq (h : MoveHead) : SlotOp := .trig h { unit := 0, run := fun w e => w.compareCq e .eq }

def slotIaCqLtI64 (h : MoveHead) : SlotOp := .trig h { unit := 0, run := fun w e => w.compareCq e .ltI64 }

def slotIaCqLtN64 (h : MoveHead) : SlotOp := .trig h { unit := 0, run := fun w e => w.compareCq e .ltN64 }

def slotIaCgEq (h : MoveHead) : SlotOp :=
  .trig h { unit := 0, park := some .eq, run := fun w e => w.compareGuard e .eq }

def slotIaCgLtI64 (h : MoveHead) : SlotOp :=
  .trig h { unit := 0, park := some .ltI64, run := fun w e => w.compareGuard e .ltI64 }

def slotIaCgLtN64 (h : MoveHead) : SlotOp :=
  .trig h { unit := 0, park := some .ltN64, run := fun w e => w.compareGuard e .ltN64 }

def slotIaSrd (h : MoveHead) : SlotOp := .trig h { unit := 0, run := fun w e => w.srd e }

def slotIaSwr (h : MoveHead) : SlotOp := .trig h { unit := 0, run := fun w e => w.swr e }

def slotIaPopc (h : MoveHead) : SlotOp := .trig h { unit := 0, run := fun w e => w.iauPopc e }

def slotVaAddF32 (h : MoveHead) : SlotOp :=
  .trig h { unit := 1, wide := true, rounds := true, run := fun w e => w.vecFloat e f32 (fAdd f32) }

def slotVaAddH16 (h : MoveHead) : SlotOp :=
  .trig h { unit := 1, wide := true, rounds := true, run := fun w e => w.vecFloat e h16 (fAdd h16) }

def slotVaAddB16 (h : MoveHead) : SlotOp :=
  .trig h { unit := 1, wide := true, rounds := true, run := fun w e => w.vecFloat e b16 (fAdd b16) }

def slotVaSubF32 (h : MoveHead) : SlotOp :=
  .trig h { unit := 1, wide := true, rounds := true, run := fun w e => w.vecFloat e f32 (fSub f32) }

def slotVaSubH16 (h : MoveHead) : SlotOp :=
  .trig h { unit := 1, wide := true, rounds := true, run := fun w e => w.vecFloat e h16 (fSub h16) }

def slotVaSubB16 (h : MoveHead) : SlotOp :=
  .trig h { unit := 1, wide := true, rounds := true, run := fun w e => w.vecFloat e b16 (fSub b16) }

def slotVaMulF32 (h : MoveHead) : SlotOp :=
  .trig h { unit := 1, wide := true, rounds := true, run := fun w e => w.vecFloat e f32 (fMul f32) }

def slotVaMulH16 (h : MoveHead) : SlotOp :=
  .trig h { unit := 1, wide := true, rounds := true, run := fun w e => w.vecFloat e h16 (fMul h16) }

def slotVaMulB16 (h : MoveHead) : SlotOp :=
  .trig h { unit := 1, wide := true, rounds := true, run := fun w e => w.vecFloat e b16 (fMul b16) }

def slotVaFmaF32 (h : MoveHead) : SlotOp :=
  .trig h { unit := 1, wide := true, rounds := true, run := fun w e => w.vecFma e f32 }

def slotVaFmaH16 (h : MoveHead) : SlotOp :=
  .trig h { unit := 1, wide := true, rounds := true, run := fun w e => w.vecFma e h16 }

def slotVaFmaB16 (h : MoveHead) : SlotOp :=
  .trig h { unit := 1, wide := true, rounds := true, run := fun w e => w.vecFma e b16 }

def slotVaMinF32 (h : MoveHead) : SlotOp :=
  .trig h { unit := 1, wide := true, run := fun w e => w.vecFloat e f32 fun _ => fMinMax f32 false }

def slotVaMinH16 (h : MoveHead) : SlotOp :=
  .trig h { unit := 1, wide := true, run := fun w e => w.vecFloat e h16 fun _ => fMinMax h16 false }

def slotVaMinB16 (h : MoveHead) : SlotOp :=
  .trig h { unit := 1, wide := true, run := fun w e => w.vecFloat e b16 fun _ => fMinMax b16 false }

def slotVaMaxF32 (h : MoveHead) : SlotOp :=
  .trig h { unit := 1, wide := true, run := fun w e => w.vecFloat e f32 fun _ => fMinMax f32 true }

def slotVaMaxH16 (h : MoveHead) : SlotOp :=
  .trig h { unit := 1, wide := true, run := fun w e => w.vecFloat e h16 fun _ => fMinMax h16 true }

def slotVaMaxB16 (h : MoveHead) : SlotOp :=
  .trig h { unit := 1, wide := true, run := fun w e => w.vecFloat e b16 fun _ => fMinMax b16 true }

def slotVaLtF32 (h : MoveHead) : SlotOp :=
  .trig h { unit := 1, wide := true, run := fun w e => w.vecCmp e (fCmp f32 .lt) }

def slotVaLeF32 (h : MoveHead) : SlotOp :=
  .trig h { unit := 1, wide := true, run := fun w e => w.vecCmp e (fCmp f32 .le) }

def slotVaEqF32 (h : MoveHead) : SlotOp :=
  .trig h { unit := 1, wide := true, run := fun w e => w.vecCmp e (fCmp f32 .eq) }

def slotVaAddI32 (h : MoveHead) : SlotOp :=
  .trig h { unit := 1, wide := true, run := fun w e => w.vecInt e fun a t => (a + t, 0) }

def slotVaSubI32 (h : MoveHead) : SlotOp :=
  .trig h { unit := 1, wide := true, run := fun w e => w.vecInt e fun a t => (a + 2 ^ 32 - t, 0) }

def slotVaMulI32 (h : MoveHead) : SlotOp :=
  .trig h { unit := 1, wide := true, run := fun w e => w.vecInt e fun a t => (a * t, 0) }

def slotVaAddsI32 (h : MoveHead) : SlotOp :=
  .trig h { unit := 1, wide := true, run := fun w e => w.vecInt e fun a t => addsI32 a t }

def slotVaMinI32 (h : MoveHead) : SlotOp :=
  .trig h { unit := 1, wide := true, run := fun w e => w.vecInt e fun a t => (minI32 a t, 0) }

def slotVaMaxI32 (h : MoveHead) : SlotOp :=
  .trig h { unit := 1, wide := true, run := fun w e => w.vecInt e fun a t => (maxI32 a t, 0) }

def slotVaMinN32 (h : MoveHead) : SlotOp :=
  .trig h { unit := 1, wide := true, run := fun w e => w.vecInt e fun a t => (min a t, 0) }

def slotVaMaxN32 (h : MoveHead) : SlotOp :=
  .trig h { unit := 1, wide := true, run := fun w e => w.vecInt e fun a t => (max a t, 0) }

def slotVaAnd (h : MoveHead) : SlotOp :=
  .trig h { unit := 1, wide := true, run := fun w e => w.vecInt e fun a t => (Nat.land a t, 0) }

def slotVaOr (h : MoveHead) : SlotOp :=
  .trig h { unit := 1, wide := true, run := fun w e => w.vecInt e fun a t => (Nat.lor a t, 0) }

def slotVaXor (h : MoveHead) : SlotOp :=
  .trig h { unit := 1, wide := true, run := fun w e => w.vecInt e fun a t => (Nat.xor a t, 0) }

def slotVaShl (h : MoveHead) : SlotOp :=
  .trig h { unit := 1, wide := true, run := fun w e => w.vecInt e fun a t => (a <<< (t % 32), 0) }

def slotVaShrN32 (h : MoveHead) : SlotOp :=
  .trig h { unit := 1, wide := true, run := fun w e => w.vecInt e fun a t => (a >>> (t % 32), 0) }

def slotVaShrI32 (h : MoveHead) : SlotOp :=
  .trig h { unit := 1, wide := true, run := fun w e => w.vecInt e fun a t => (ofSigned 32 (toSigned 32 a >>> (t % 32)), 0) }

def slotVaLtI32 (h : MoveHead) : SlotOp :=
  .trig h { unit := 1, wide := true, run := fun w e => w.vecCmp e fun a t => (decide (toSigned 32 a < toSigned 32 t), 0) }

def slotVaEqI32 (h : MoveHead) : SlotOp :=
  .trig h { unit := 1, wide := true, run := fun w e => w.vecCmp e fun a t => (a == t, 0) }

def slotVaAbs (h : MoveHead) : SlotOp :=
  .trig h { unit := 1, wide := true, run := fun w e => w.vecSign e fun t => t % 2 ^ 31 }

def slotVaNeg (h : MoveHead) : SlotOp :=
  .trig h { unit := 1, wide := true, run := fun w e => w.vecSign e fun t => Nat.xor t (2 ^ 31) }

def slotVaCsgn (h : MoveHead) : SlotOp :=
  .trig h { unit := 1, wide := true, run := fun w e => w.vecInt e fun a t => (t % 2 ^ 31 + a / 2 ^ 31 * 2 ^ 31, 0) }

def slotVaCvtF32I32 (h : MoveHead) : SlotOp :=
  .trig h { unit := 1, wide := true, rounds := true, run := fun w e => w.vecLanes e i32ToF }

def slotVaCvtI32F32 (h : MoveHead) : SlotOp :=
  .trig h { unit := 1, wide := true, rounds := true, run := fun w e => w.vecLanes e fToI32 }

def slotVaCvtH16F32 (h : MoveHead) : SlotOp :=
  .trig h { unit := 1, wide := true, rounds := true, run := fun w e => w.vecNarrow e h16 }

def slotVaCvtB16F32 (h : MoveHead) : SlotOp :=
  .trig h { unit := 1, wide := true, rounds := true, run := fun w e => w.vecNarrow e b16 }

def slotVaCvtF32H16 (h : MoveHead) : SlotOp := .trig h { unit := 1, wide := true, run := fun w e => w.vecWiden e h16 }

def slotVaCvtF32B16 (h : MoveHead) : SlotOp := .trig h { unit := 1, wide := true, run := fun w e => w.vecWiden e b16 }

def slotVaCvtE43F32 (h : MoveHead) : SlotOp :=
  .trig h { unit := 1, wide := true, rounds := true, run := fun w e => w.vecNarrow e e43 }

def slotVaCvtE52F32 (h : MoveHead) : SlotOp :=
  .trig h { unit := 1, wide := true, rounds := true, run := fun w e => w.vecNarrow e e52 }

def slotVaCvtF32E43 (h : MoveHead) : SlotOp := .trig h { unit := 1, wide := true, run := fun w e => w.vecWiden e e43 }

def slotVaCvtF32E52 (h : MoveHead) : SlotOp := .trig h { unit := 1, wide := true, run := fun w e => w.vecWiden e e52 }

def slotVaPkSx4 (h : MoveHead) : SlotOp :=
  .trig h { unit := 1, wide := true, rounds := true, run := fun w e => w.vecPack e 0 }

def slotVaPkSx6 (h : MoveHead) : SlotOp :=
  .trig h { unit := 1, wide := true, rounds := true, run := fun w e => w.vecPack e 1 }

def slotVaPkSx8 (h : MoveHead) : SlotOp :=
  .trig h { unit := 1, wide := true, rounds := true, run := fun w e => w.vecPack e 2 }

def slotVaPkSx16 (h : MoveHead) : SlotOp :=
  .trig h { unit := 1, wide := true, rounds := true, run := fun w e => w.vecPack e 3 }

def slotVaUpk (h : MoveHead) : SlotOp := .trig h { unit := 1, wide := true, run := fun w e => w.vecUnpack e }

def slotVaImgF32 (h : MoveHead) : SlotOp :=
  .trig h { unit := 1, wide := true, run := fun w e => w.vecMap e (image f32) }

def slotVaUimgF32 (h : MoveHead) : SlotOp :=
  .trig h { unit := 1, wide := true, run := fun w e => w.vecMap e (unimage f32) }

def slotVaPln (h : MoveHead) : SlotOp :=
  .trig h { unit := 1, wide := true, run := fun w e => w.vecOp e [] 3 fun vs => { val := planes (vs.headD 0) } }

def slotVaUpln (h : MoveHead) : SlotOp :=
  .trig h { unit := 1, wide := true, run := fun w e => w.vecOp e [] 3 fun vs => { val := unplanes (vs.headD 0) } }

def slotVaPerm (h : MoveHead) : SlotOp := .trig h { unit := 1, wide := true, run := fun w e => w.vecMove e permute }

def slotVaBcast (h : MoveHead) : SlotOp := .trig h { unit := 1, wide := true, run := fun w e => w.vecBcast e }

def slotVaCmpr (h : MoveHead) : SlotOp := .trig h { unit := 1, wide := true, run := fun w e => w.vecMove e compress }

def slotVaExpd (h : MoveHead) : SlotOp := .trig h { unit := 1, wide := true, run := fun w e => w.vecMove e expand }

def slotVaSel (h : MoveHead) : SlotOp := .trig h { unit := 1, wide := true, run := fun w e => w.vecMove e select }

def slotSfDivF32 (h : MoveHead) : SlotOp :=
  .trig h { unit := 2, wide := true, rounds := true, run := fun w e => w.sfnDiv e }

def slotSfSqrtF32 (h : MoveHead) : SlotOp :=
  .trig h { unit := 2, wide := true, rounds := true, run := fun w e => w.sfn e 14 fSqrt }

def slotSfRsqrtF32 (h : MoveHead) : SlotOp :=
  .trig h { unit := 2, wide := true, rounds := true, run := fun w e => w.sfn e 10 fRsqrt }

def slotSfExp2F32 (h : MoveHead) : SlotOp :=
  .trig h { unit := 2, wide := true, rounds := true, run := fun w e => w.sfn e 8 fExp2 }

def slotSfLog2F32 (h : MoveHead) : SlotOp :=
  .trig h { unit := 2, wide := true, rounds := true, run := fun w e => w.sfn e 8 fLog2 }

def slotLsLdN8 (h : MoveHead) : SlotOp := .trig h { unit := 3, run := fun w e => w.load e .n8 }

def slotLsLdN16 (h : MoveHead) : SlotOp := .trig h { unit := 3, run := fun w e => w.load e .n16 }

def slotLsLdN32 (h : MoveHead) : SlotOp := .trig h { unit := 3, run := fun w e => w.load e .n32 }

def slotLsLdI32 (h : MoveHead) : SlotOp := .trig h { unit := 3, run := fun w e => w.load e .i32 }

def slotLsLd64 (h : MoveHead) : SlotOp := .trig h { unit := 3, run := fun w e => w.load e .d64 }

def slotLsLdQ (h : MoveHead) : SlotOp := .trig h { unit := 3, run := fun w e => w.load e .q }

def slotLsLdV (h : MoveHead) : SlotOp := .trig h { unit := 3, run := fun w e => w.load e .v }

def slotLsSt8 (h : MoveHead) : SlotOp := .trig h { unit := 3, run := fun w e => w.store e 1 }

def slotLsSt16 (h : MoveHead) : SlotOp := .trig h { unit := 3, run := fun w e => w.store e 2 }

def slotLsSt32 (h : MoveHead) : SlotOp := .trig h { unit := 3, run := fun w e => w.store e 4 }

def slotLsSt64 (h : MoveHead) : SlotOp := .trig h { unit := 3, run := fun w e => w.store e 8 }

def slotLsStQ (h : MoveHead) : SlotOp := .trig h { unit := 3, wide := true, run := fun w e => w.store e 16 }

def slotLsStV (h : MoveHead) : SlotOp := .trig h { unit := 3, wide := true, run := fun w e => w.store e 256 }

def slotRdSumF32 (h : MoveHead) : SlotOp :=
  .trig h { unit := 4, wide := true, rounds := true, run := fun w e => w.red e .sumF }

def slotRdSumI32 (h : MoveHead) : SlotOp := .trig h { unit := 4, wide := true, run := fun w e => w.red e .sumI }

def slotRdMaxF32 (h : MoveHead) : SlotOp :=
  .trig h { unit := 4, wide := true, run := fun w e => w.red e .maxF }

def slotRdMinF32 (h : MoveHead) : SlotOp :=
  .trig h { unit := 4, wide := true, run := fun w e => w.red e .minF }

def slotRdMaxI32 (h : MoveHead) : SlotOp :=
  .trig h { unit := 4, wide := true, run := fun w e => w.red e .maxI }

def slotRdMinI32 (h : MoveHead) : SlotOp :=
  .trig h { unit := 4, wide := true, run := fun w e => w.red e .minI }

def slotRdAmaxF32 (h : MoveHead) : SlotOp :=
  .trig h { unit := 4, wide := true, run := fun w e => w.red e .amax }

def slotRdAminF32 (h : MoveHead) : SlotOp :=
  .trig h { unit := 4, wide := true, run := fun w e => w.red e .amin }

def slotRdSet (h : MoveHead) : SlotOp := .trig h { unit := 4, wide := true, run := fun w e => w.redSet e }

def slotMxStep (h : EngHead) (p : Fin 16) : SlotOp := .eng h { id := 0, run := fun w e => w.mxStep e p.val }

def slotMxRun (h : EngHead) (p : Fin 16) : SlotOp := .eng h { id := 0, run := fun w e => w.mxRun e p.val }

def slotMxZero (h : EngHead) (p : Fin 16) : SlotOp := .eng h { id := 0, run := fun w e => w.mxZero e p.val }

def slotMxLdb (h : EngHead) (p : Fin 16) : SlotOp := .eng h { id := 0, run := fun w e => w.mxLdb e p.val }

def slotMxSt (h : EngHead) (p : Fin 16) : SlotOp := .eng h { id := 0, run := fun w e => w.mxSt e p.val }

def slotCpXfer (h : EngHead) : SlotOp := .eng h { id := 1, run := fun w e => w.cpXfer e false }

def slotCpTile (h : EngHead) (p : Fin 16) : SlotOp := .eng h { id := 1, run := fun w e => w.cpDrain e p.val false }

def slotCpTsa (h : EngHead) (p : Fin 16) : SlotOp := .eng h { id := 1, run := fun w e => w.cpDrain e p.val true }

def slotCpFill (h : EngHead) : SlotOp := .eng h { id := 1, run := fun w e => w.cpXfer e true }

def slotSlRank (h : EngHead) : SlotOp := .eng h { id := 2, run := fun w e => w.selIssue e .rank }

def slotSlWqnt (h : EngHead) : SlotOp := .eng h { id := 2, run := fun w e => w.selIssue e .wqnt }

def slotSlThr (h : EngHead) : SlotOp := .eng h { id := 2, run := fun w e => w.selIssue e .thr }

def slotCkSnap (h : EngHead) : SlotOp := .eng h { id := 3, run := fun w e => w.ckpIssue e .snap }

def slotCkLoad (h : EngHead) : SlotOp := .eng h { id := 3, run := fun w e => w.ckpIssue e .load }

def slotCkCommit (h : EngHead) : SlotOp := .eng h { id := 3, run := fun w e => w.ckpIssue e .commit }

def slotCkDrop (h : EngHead) : SlotOp := .eng h { id := 3, run := fun w e => w.ckpIssue e .drop }

def slotSyReg (h : EngHead) (p : Fin 16) : SlotOp := .eng h { id := 4, run := fun w e => w.synIssue e .reg p.val }

def slotSyDrop (h : EngHead) : SlotOp := .eng h { id := 4, run := fun w e => w.synIssue e .drop 0 }

def slotSySig (h : EngHead) : SlotOp := .eng h { id := 4, run := fun w e => w.synIssue e .sig 0 }

def slotSyNext (h : EngHead) : SlotOp := .eng h { id := 4, run := fun w e => w.synIssue e .next 0 }

def slotSyBase (h : EngHead) : SlotOp := .eng h { id := 4, run := fun w e => w.synIssue e .base 0 }

def slotSyAmoLd (h : EngHead) : SlotOp := .eng h { id := 4, run := fun w e => w.synIssue e .amo 0 }

def slotSyAmoSwap (h : EngHead) : SlotOp := .eng h { id := 4, run := fun w e => w.synIssue e .amo 1 }

def slotSyAmoCas (h : EngHead) : SlotOp := .eng h { id := 4, run := fun w e => w.synIssue e .amo 2 }

def slotSyAmoAdd (h : EngHead) : SlotOp := .eng h { id := 4, run := fun w e => w.synIssue e .amo 3 }

def slotSyAmoAnd (h : EngHead) : SlotOp := .eng h { id := 4, run := fun w e => w.synIssue e .amo 4 }

def slotSyAmoOr (h : EngHead) : SlotOp := .eng h { id := 4, run := fun w e => w.synIssue e .amo 5 }

def slotSyAmoXor (h : EngHead) : SlotOp := .eng h { id := 4, run := fun w e => w.synIssue e .amo 6 }

def slotSyAmoMax (h : EngHead) : SlotOp := .eng h { id := 4, run := fun w e => w.synIssue e .amo 7 }

def slotSyAmoMin (h : EngHead) : SlotOp := .eng h { id := 4, run := fun w e => w.synIssue e .amo 8 }

def slotSyRedAdd (h : EngHead) : SlotOp := .eng h { id := 4, run := fun w e => w.synIssue e .red 0 }

def slotSyRedAddF32 (h : EngHead) : SlotOp := .eng h { id := 4, run := fun w e => w.synIssue e .red 1 }

def slotSyRedMaxF32 (h : EngHead) : SlotOp := .eng h { id := 4, run := fun w e => w.synIssue e .red 2 }

def slotSyRedMinF32 (h : EngHead) : SlotOp := .eng h { id := 4, run := fun w e => w.synIssue e .red 3 }

def slotScopeSet (h : EngHead) (p : Fin 16) : SlotOp := .eng h { id := 5, run := fun w e => w.scopeSet e p.val }

def slotScopeClr (h : EngHead) (p : Fin 16) : SlotOp := .eng h { id := 5, run := fun w e => w.scopeClr e p.val }

def slotBr (i : Bool) (g : Fin 16) (o : BitVec 11) : SlotOp := .ctl (.br i g.val o.toInt)

def slotBrq (o : BitVec 11) : SlotOp := .ctl (.brq true o.toInt)

def slotBrqF (o : BitVec 11) : SlotOp := .ctl (.brq false o.toInt)

def slotBrx (i : Bool) (g : Fin 16) : SlotOp := .ctl (.brx i g.val)

def slotCall (o : BitVec 11) : SlotOp := .ctl (.call o.toInt)

def slotLoop (l : BitVec 11) : SlotOp := .ctl (.loop l.toNat)

def slotPloop (n : BitVec 3) (l : BitVec 11) : SlotOp := .ctl (.ploop n.toNat l.toNat)

def slotYieldTl (c : Fin 16) (q : BitVec 9) : SlotOp := .ctl (.yield 0 c.val q.toNat)

def slotYieldArr (c : Fin 16) (q : BitVec 9) : SlotOp := .ctl (.yield 1 c.val q.toNat)

def slotYieldPh (c : Fin 16) (q : BitVec 9) : SlotOp := .ctl (.yield 2 c.val q.toNat)

def slotYieldGrd (c : Fin 16) (q : BitVec 9) : SlotOp := .ctl (.yield 3 c.val q.toNat)

def slotYieldCq (q : BitVec 9) : SlotOp := .ctl (.yield 4 0 q.toNat)

def slotYieldPg (q : BitVec 9) : SlotOp := .ctl (.yield 6 0 q.toNat)

def slotYieldTime (q : BitVec 9) : SlotOp := .ctl (.yield 7 0 q.toNat)

def slotFork (q : BitVec 9) : SlotOp := .ctl (.fork q.toNat)

def slotSyncc (q : BitVec 9) : SlotOp := .ctl (.syncc q.toNat)

def slotTrap (c : BitVec 8) : SlotOp := .ctl (.trap c.toNat)

def slotGopen (k : BitVec 15) : SlotOp := .ctl (.gopen (2 * k.toNat))

def slotFenceAcq (p : BitVec 4) (c : Fin 16) : SlotOp := .ctl (.fence true false p.toNat c.val)

def slotFenceRel (p : BitVec 4) (c : Fin 16) : SlotOp := .ctl (.fence false true p.toNat c.val)

def slotFenceAr (p : BitVec 4) (c : Fin 16) : SlotOp := .ctl (.fence true true p.toNat c.val)

def slotDrain (p : BitVec 3) : SlotOp := .ctl (.drain p.toNat)

def slotBkrel (r : BitVec 6) : SlotOp := .ctl (.bkrel r.toNat)

/-- Kind 5 of a yield, and a selector that must be 0 and is not, make a yield that no kind names: its wait is illegal (R82). -/
def slotUnassignedEncoding (r : Reject) : SlotOp :=
  match r with
  | .illegalWait q => .ctl (.yield 5 0 q.toNat)
  | r => .bad r

def slotNop : SlotOp := .nop

def slotCallx : SlotOp := .ctl (.callx)

def slotRet : SlotOp := .ctl (.ret)

def slotDone : SlotOp := .ctl (.done)

def slotTret : SlotOp := .ctl (.tret)

/-- What an instruction is in a slot of a bundle; an event is no slot. -/
def slotOf : Instr → SlotOp
  | .move h d => slotMove h d
  | .immediate v => slotImmediate v
  | .iaAdd h => slotIaAdd h
  | .iaSub h => slotIaSub h
  | .iaMul h => slotIaMul h
  | .iaMulhI64 h => slotIaMulhI64 h
  | .iaAnd h => slotIaAnd h
  | .iaOr h => slotIaOr h
  | .iaXor h => slotIaXor h
  | .iaShl h => slotIaShl h
  | .iaShrN64 h => slotIaShrN64 h
  | .iaShrI64 h => slotIaShrI64 h
  | .iaMinI64 h => slotIaMinI64 h
  | .iaMaxI64 h => slotIaMaxI64 h
  | .iaAddsI64 h => slotIaAddsI64 h
  | .iaSubsI64 h => slotIaSubsI64 h
  | .iaEq h => slotIaEq h
  | .iaLtI64 h => slotIaLtI64 h
  | .iaLtN64 h => slotIaLtN64 h
  | .iaCqEq h => slotIaCqEq h
  | .iaCqLtI64 h => slotIaCqLtI64 h
  | .iaCqLtN64 h => slotIaCqLtN64 h
  | .iaCgEq h => slotIaCgEq h
  | .iaCgLtI64 h => slotIaCgLtI64 h
  | .iaCgLtN64 h => slotIaCgLtN64 h
  | .iaSrd h => slotIaSrd h
  | .iaSwr h => slotIaSwr h
  | .iaPopc h => slotIaPopc h
  | .vaAddF32 h => slotVaAddF32 h
  | .vaAddH16 h => slotVaAddH16 h
  | .vaAddB16 h => slotVaAddB16 h
  | .vaSubF32 h => slotVaSubF32 h
  | .vaSubH16 h => slotVaSubH16 h
  | .vaSubB16 h => slotVaSubB16 h
  | .vaMulF32 h => slotVaMulF32 h
  | .vaMulH16 h => slotVaMulH16 h
  | .vaMulB16 h => slotVaMulB16 h
  | .vaFmaF32 h => slotVaFmaF32 h
  | .vaFmaH16 h => slotVaFmaH16 h
  | .vaFmaB16 h => slotVaFmaB16 h
  | .vaMinF32 h => slotVaMinF32 h
  | .vaMinH16 h => slotVaMinH16 h
  | .vaMinB16 h => slotVaMinB16 h
  | .vaMaxF32 h => slotVaMaxF32 h
  | .vaMaxH16 h => slotVaMaxH16 h
  | .vaMaxB16 h => slotVaMaxB16 h
  | .vaLtF32 h => slotVaLtF32 h
  | .vaLeF32 h => slotVaLeF32 h
  | .vaEqF32 h => slotVaEqF32 h
  | .vaAddI32 h => slotVaAddI32 h
  | .vaSubI32 h => slotVaSubI32 h
  | .vaMulI32 h => slotVaMulI32 h
  | .vaAddsI32 h => slotVaAddsI32 h
  | .vaMinI32 h => slotVaMinI32 h
  | .vaMaxI32 h => slotVaMaxI32 h
  | .vaMinN32 h => slotVaMinN32 h
  | .vaMaxN32 h => slotVaMaxN32 h
  | .vaAnd h => slotVaAnd h
  | .vaOr h => slotVaOr h
  | .vaXor h => slotVaXor h
  | .vaShl h => slotVaShl h
  | .vaShrN32 h => slotVaShrN32 h
  | .vaShrI32 h => slotVaShrI32 h
  | .vaLtI32 h => slotVaLtI32 h
  | .vaEqI32 h => slotVaEqI32 h
  | .vaAbs h => slotVaAbs h
  | .vaNeg h => slotVaNeg h
  | .vaCsgn h => slotVaCsgn h
  | .vaCvtF32I32 h => slotVaCvtF32I32 h
  | .vaCvtI32F32 h => slotVaCvtI32F32 h
  | .vaCvtH16F32 h => slotVaCvtH16F32 h
  | .vaCvtB16F32 h => slotVaCvtB16F32 h
  | .vaCvtF32H16 h => slotVaCvtF32H16 h
  | .vaCvtF32B16 h => slotVaCvtF32B16 h
  | .vaCvtE43F32 h => slotVaCvtE43F32 h
  | .vaCvtE52F32 h => slotVaCvtE52F32 h
  | .vaCvtF32E43 h => slotVaCvtF32E43 h
  | .vaCvtF32E52 h => slotVaCvtF32E52 h
  | .vaPkSx4 h => slotVaPkSx4 h
  | .vaPkSx6 h => slotVaPkSx6 h
  | .vaPkSx8 h => slotVaPkSx8 h
  | .vaPkSx16 h => slotVaPkSx16 h
  | .vaUpk h => slotVaUpk h
  | .vaImgF32 h => slotVaImgF32 h
  | .vaUimgF32 h => slotVaUimgF32 h
  | .vaPln h => slotVaPln h
  | .vaUpln h => slotVaUpln h
  | .vaPerm h => slotVaPerm h
  | .vaBcast h => slotVaBcast h
  | .vaCmpr h => slotVaCmpr h
  | .vaExpd h => slotVaExpd h
  | .vaSel h => slotVaSel h
  | .sfDivF32 h => slotSfDivF32 h
  | .sfSqrtF32 h => slotSfSqrtF32 h
  | .sfRsqrtF32 h => slotSfRsqrtF32 h
  | .sfExp2F32 h => slotSfExp2F32 h
  | .sfLog2F32 h => slotSfLog2F32 h
  | .lsLdN8 h => slotLsLdN8 h
  | .lsLdN16 h => slotLsLdN16 h
  | .lsLdN32 h => slotLsLdN32 h
  | .lsLdI32 h => slotLsLdI32 h
  | .lsLd64 h => slotLsLd64 h
  | .lsLdQ h => slotLsLdQ h
  | .lsLdV h => slotLsLdV h
  | .lsSt8 h => slotLsSt8 h
  | .lsSt16 h => slotLsSt16 h
  | .lsSt32 h => slotLsSt32 h
  | .lsSt64 h => slotLsSt64 h
  | .lsStQ h => slotLsStQ h
  | .lsStV h => slotLsStV h
  | .rdSumF32 h => slotRdSumF32 h
  | .rdSumI32 h => slotRdSumI32 h
  | .rdMaxF32 h => slotRdMaxF32 h
  | .rdMinF32 h => slotRdMinF32 h
  | .rdMaxI32 h => slotRdMaxI32 h
  | .rdMinI32 h => slotRdMinI32 h
  | .rdAmaxF32 h => slotRdAmaxF32 h
  | .rdAminF32 h => slotRdAminF32 h
  | .rdSet h => slotRdSet h
  | .mxStep h p => slotMxStep h p
  | .mxRun h p => slotMxRun h p
  | .mxZero h p => slotMxZero h p
  | .mxLdb h p => slotMxLdb h p
  | .mxSt h p => slotMxSt h p
  | .cpXfer h => slotCpXfer h
  | .cpTile h p => slotCpTile h p
  | .cpTsa h p => slotCpTsa h p
  | .cpFill h => slotCpFill h
  | .slRank h => slotSlRank h
  | .slWqnt h => slotSlWqnt h
  | .slThr h => slotSlThr h
  | .ckSnap h => slotCkSnap h
  | .ckLoad h => slotCkLoad h
  | .ckCommit h => slotCkCommit h
  | .ckDrop h => slotCkDrop h
  | .syReg h p => slotSyReg h p
  | .syDrop h => slotSyDrop h
  | .sySig h => slotSySig h
  | .syNext h => slotSyNext h
  | .syBase h => slotSyBase h
  | .syAmoLd h => slotSyAmoLd h
  | .syAmoSwap h => slotSyAmoSwap h
  | .syAmoCas h => slotSyAmoCas h
  | .syAmoAdd h => slotSyAmoAdd h
  | .syAmoAnd h => slotSyAmoAnd h
  | .syAmoOr h => slotSyAmoOr h
  | .syAmoXor h => slotSyAmoXor h
  | .syAmoMax h => slotSyAmoMax h
  | .syAmoMin h => slotSyAmoMin h
  | .syRedAdd h => slotSyRedAdd h
  | .syRedAddF32 h => slotSyRedAddF32 h
  | .syRedMaxF32 h => slotSyRedMaxF32 h
  | .syRedMinF32 h => slotSyRedMinF32 h
  | .scopeSet h p => slotScopeSet h p
  | .scopeClr h p => slotScopeClr h p
  | .br i g o => slotBr i g o
  | .brq o => slotBrq o
  | .brqF o => slotBrqF o
  | .brx i g => slotBrx i g
  | .call o => slotCall o
  | .loop l => slotLoop l
  | .ploop n l => slotPloop n l
  | .yieldTl c q => slotYieldTl c q
  | .yieldArr c q => slotYieldArr c q
  | .yieldPh c q => slotYieldPh c q
  | .yieldGrd c q => slotYieldGrd c q
  | .yieldCq q => slotYieldCq q
  | .yieldPg q => slotYieldPg q
  | .yieldTime q => slotYieldTime q
  | .fork q => slotFork q
  | .syncc q => slotSyncc q
  | .trap c => slotTrap c
  | .gopen k => slotGopen k
  | .fenceAcq p c => slotFenceAcq p c
  | .fenceRel p c => slotFenceRel p c
  | .fenceAr p c => slotFenceAr p c
  | .drain p => slotDrain p
  | .bkrel r => slotBkrel r
  | .parkedCompareResolve _ => .nop
  | .resultLanding _ => .nop
  | .heldStorePerform _ => .nop
  | .l1Fill _ => .nop
  | .storePerform _ _ => .nop
  | .trapDelivery _ => .nop
  | .preemption _ => .nop
  | .sliceEndGraceExpiry _ => .nop
  | .contextImageSave _ => .nop
  | .overrunAfterLastCell _ => .nop
  | .taskReady _ => .nop
  | .contextFree _ => .nop
  | .mtxLoadPhaseComplete _ => .nop
  | .arrayStepComplete _ => .nop
  | .mxStRowWrite _ => .nop
  | .mtxCommandComplete _ => .nop
  | .cpyPieceEmit _ => .nop
  | .cpyPieceLand _ => .nop
  | .cpyRetryEmit _ => .nop
  | .tileDrainRow _ => .nop
  | .rowRecordFold _ => .nop
  | .synSignalSend _ => .nop
  | .eventAppend _ => .nop
  | .memoryError _ => .nop
  | .replayMessage _ _ => .nop
  | .tenantMessage _ _ => .nop
  | .coreMessage _ _ => .nop
  | .phaserAreaMessage _ _ => .nop
  | .contextPreempt _ _ => .nop
  | .contextSliceEnd _ _ => .nop
  | .contextResume _ _ => .nop
  | .contextEnd _ _ => .nop
  | .contextEvict _ _ => .nop
  | .contextRestore _ _ => .nop
  | .contextCxid _ _ => .nop
  | .invalidateMessage _ _ => .nop
  | .pageDoneMessage _ _ => .nop
  | .virtualTimeMessage _ _ => .nop
  | .eventAreaMessage _ _ => .nop
  | .consumedMessage _ _ => .nop
  | .routeMessage _ _ => .nop
  | .portMessage _ _ => .nop
  | .hostWrite _ _ => .nop
  | .hostRead _ _ => .nop
  | .peerPacketReceive _ => .nop
  | .linkDown _ => .nop
  | .linkUp _ => .nop
  | .keepAlive _ => .nop
  | .pctlWrite _ _ => .nop
  | .platformRegisterWrite _ _ => .nop
  | .supplySag _ => .nop
  | .clockRestore _ => .nop
  | .powerInterval _ => .nop
  | .firmwareVerify _ => .nop
  | .functionReady _ => .nop
  | .unassignedEncoding r => slotUnassignedEncoding r
  | .unlistedMessageType _ _ => .nop
  | .flitCrcFailure _ => .nop
  | .nop => slotNop
  | .callx => slotCallx
  | .ret => slotRet
  | .done => slotDone
  | .tret => slotTret
  | .translationWalkComplete => .nop
  | .calendarWindowAdvance => .nop
  | .bookingSearch => .nop
  | .compaction => .nop
  | .taskAged => .nop
  | .launchExpansion => .nop
  | .icacheLoadComplete => .nop
  | .selRecordWrite => .nop
  | .ckpChunkCopy => .nop
  | .ckpCommitPublish => .nop
  | .ckpComplete => .nop
  | .scopeUpdateComplete => .nop
  | .synApply => .nop
  | .phaserWaitArrival => .nop
  | .timeWaitTest => .nop
  | .graphNodeStart => .nop
  | .waitNodePoll => .nop
  | .replayComplete => .nop
  | .packetRouteTimeout => .nop
  | .attestationRequest => .nop
  | .attestationComplete => .nop
  | .deviceReset => .nop
  | .identityKeyReady => .nop
  | .partitionZeroingComplete => .nop
  | .translationInvalidationComplete => .nop

/-- The bundle that an instruction stands in issues: the slots before it, its own, the slots after it. -/
def issueSlot (op : SlotOp) (s : State) : Host.Outcome State Fault Refusal :=
  match s.issueSlots (s.issue.before.map slotOf ++ op :: s.issue.after.map slotOf) with
  | .ok t => .next { t with issue := {} }
  | .error f => .fault f

end Sys2Proof.Machine
end

