-- ==== Sys2Proof/Machine/InstrControl.lean ====
section
/-! DEFINITION. Control ops (spec/03_bundles.md R81, R82, and the rules each names). -/

namespace Sys2Proof.Machine

/-- BR (R177). Branch by a signed offset when the guard is satisfied. -/
def execBr (i : Bool) (g : Fin 16) (o : BitVec 11) (s : State) : Host.Outcome State Fault Refusal :=
  issueSlot (slotBr i g o) s

/-- BRQ (R175). Pop the condition queue and branch when the bit is 1. -/
def execBrq (o : BitVec 11) (s : State) : Host.Outcome State Fault Refusal := issueSlot (slotBrq o) s

/-- BRQ_F (R175). Pop the condition queue and branch when the bit is 0. -/
def execBrqF (o : BitVec 11) (s : State) : Host.Outcome State Fault Refusal := issueSlot (slotBrqF o) s

/-- BRX (R177). Branch to the bundle index in ix when the guard is satisfied. -/
def execBrx (i : Bool) (g : Fin 16) (s : State) : Host.Outcome State Fault Refusal := issueSlot (slotBrx i g) s

/-- CALL (R178). Push the return index on the link stack and branch by offset. -/
def execCall (o : BitVec 11) (s : State) : Host.Outcome State Fault Refusal := issueSlot (slotCall o) s

/-- LOOP (R180). Start a counted hardware loop over the following body. -/
def execLoop (l : BitVec 11) (s : State) : Host.Outcome State Fault Refusal := issueSlot (slotLoop l) s

/-- PLOOP (R184). Start a software-pipelined loop with stage gates and rotating registers. -/
def execPloop (n : BitVec 3) (l : BitVec 11) (s : State) : Host.Outcome State Fault Refusal :=
  issueSlot (slotPloop n l) s

/-- YIELD_TL (R187). End the task and wait for a timeline counter to reach n. -/
def execYieldTl (c : Fin 16) (q : BitVec 9) (s : State) : Host.Outcome State Fault Refusal :=
  issueSlot (slotYieldTl c q) s

/-- YIELD_ARR (R187). End the task and wait for an arrival-word generation. -/
def execYieldArr (c : Fin 16) (q : BitVec 9) (s : State) : Host.Outcome State Fault Refusal :=
  issueSlot (slotYieldArr c q) s

/-- YIELD_PH (R187). End the task and wait for a phaser phase. -/
def execYieldPh (c : Fin 16) (q : BitVec 9) (s : State) : Host.Outcome State Fault Refusal :=
  issueSlot (slotYieldPh c q) s

/-- YIELD_GRD (R187). End the task waiting for a guard, always a pass-through. -/
def execYieldGrd (c : Fin 16) (q : BitVec 9) (s : State) : Host.Outcome State Fault Refusal :=
  issueSlot (slotYieldGrd c q) s

/-- YIELD_CQ (R187). End the task waiting for a non-empty condition queue. -/
def execYieldCq (q : BitVec 9) (s : State) : Host.Outcome State Fault Refusal := issueSlot (slotYieldCq q) s

/-- YIELD_PG (R187). End the task waiting for a pager future. -/
def execYieldPg (q : BitVec 9) (s : State) : Host.Outcome State Fault Refusal := issueSlot (slotYieldPg q) s

/-- YIELD_TIME (R187). End the task waiting until vts reaches ix. -/
def execYieldTime (q : BitVec 9) (s : State) : Host.Outcome State Fault Refusal := issueSlot (slotYieldTime q) s

/-- FORK (R145). Create a child task with a new frame and queue it. -/
def execFork (q : BitVec 9) (s : State) : Host.Outcome State Fault Refusal := issueSlot (slotFork q) s

/-- SYNCC (R146). Yield until every forked child has executed done. -/
def execSyncc (q : BitVec 9) (s : State) : Host.Outcome State Fault Refusal := issueSlot (slotSyncc q) s

/-- TRAP (R189). Commit the bundle and take a program trap with a code. -/
def execTrap (c : BitVec 8) (s : State) : Host.Outcome State Fault Refusal := issueSlot (slotTrap c) s

/-- GOPEN (R107). Open the named guards from the next bundle. -/
def execGopen (k : BitVec 15) (s : State) : Host.Outcome State Fault Refusal := issueSlot (slotGopen k) s

/-- FENCE_ACQ (R279). Acquire fence at a scope, invalidating L1 lines homed in the scope. -/
def execFenceAcq (p : BitVec 4) (c : Fin 16) (s : State) : Host.Outcome State Fault Refusal :=
  issueSlot (slotFenceAcq p c) s

/-- FENCE_REL (R279). Release fence holding later writes behind stores queued at its commit. -/
def execFenceRel (p : BitVec 4) (c : Fin 16) (s : State) : Host.Outcome State Fault Refusal :=
  issueSlot (slotFenceRel p c) s

/-- FENCE_AR (R279). Acquire-release fence at a scope. -/
def execFenceAr (p : BitVec 4) (c : Fin 16) (s : State) : Host.Outcome State Fault Refusal :=
  issueSlot (slotFenceAr p c) s

/-- DRAIN (R281). Forced-yield until the context's earlier writes to the named spaces have performed. -/
def execDrain (p : BitVec 3) (s : State) : Host.Outcome State Fault Refusal := issueSlot (slotDrain p) s

/-- BKREL (R191). Release the task's later cells of one resource. -/
def execBkrel (r : BitVec 6) (s : State) : Host.Outcome State Fault Refusal := issueSlot (slotBkrel r) s

/-- CALLX (R178). Push the return index and branch to ix. -/
def execCallx (s : State) : Host.Outcome State Fault Refusal := issueSlot slotCallx s

/-- RET (R178). Pop the link stack and branch there. -/
def execRet (s : State) : Host.Outcome State Fault Refusal := issueSlot slotRet s

/-- DONE (R147). End the task, release its cells, decrement the parent's child count and free its frame. -/
def execDone (s : State) : Host.Outcome State Fault Refusal := issueSlot slotDone s

/-- TRET (R203). Leave handler mode and rebook the task at tres under segment tseg. -/
def execTret (s : State) : Host.Outcome State Fault Refusal := issueSlot slotTret s

end Sys2Proof.Machine
end

