-- ==== Sys2Proof/Machine/InstrEngine.lean ====
section
/-! DEFINITION. Engine commands (spec/03_bundles.md R78-R80, and the rules each names). -/

namespace Sys2Proof.Machine

/-- MX_STEP (R246). One array step of an A K-block against a B buffer into an accumulator tile. -/
def execMxStep (h : EngHead) (p : Fin 16) (s : State) : Host.Outcome State Fault Refusal := issueSlot (slotMxStep h p) s

/-- MX_RUN (R247). Load a B buffer then perform one array step that reads it. -/
def execMxRun (h : EngHead) (p : Fin 16) (s : State) : Host.Outcome State Fault Refusal := issueSlot (slotMxRun h p) s

/-- MX_ZERO (R248). Clear an accumulator tile, its kept values and NaN marks. -/
def execMxZero (h : EngHead) (p : Fin 16) (s : State) : Host.Outcome State Fault Refusal := issueSlot (slotMxZero h p) s

/-- MX_LDB (R245). Load a B buffer from plane-layout scratchpad. -/
def execMxLdb (h : EngHead) (p : Fin 16) (s : State) : Host.Outcome State Fault Refusal := issueSlot (slotMxLdb h p) s

/-- MX_ST (R248). Store an accumulator tile as fp32 rows to scratchpad. -/
def execMxSt (h : EngHead) (p : Fin 16) (s : State) : Host.Outcome State Fault Refusal := issueSlot (slotMxSt h p) s

/-- CP_XFER (R317). Copy a transfer of up to four dimensions, optionally plane-transposed on landing. -/
def execCpXfer (h : EngHead) (s : State) : Host.Outcome State Fault Refusal := issueSlot (slotCpXfer h) s

/-- CP_TILE (R319). Drain an accumulator tile to memory with conversion. -/
def execCpTile (h : EngHead) (p : Fin 16) (s : State) : Host.Outcome State Fault Refusal := issueSlot (slotCpTile h p) s

/-- CP_TSA (R319). Drain a tile and fold each row into a select-and-accumulate row record. -/
def execCpTsa (h : EngHead) (p : Fin 16) (s : State) : Host.Outcome State Fault Refusal := issueSlot (slotCpTsa h p) s

/-- CP_FILL (R317). Fill a transfer's destination with a 64-bit pattern. -/
def execCpFill (h : EngHead) (s : State) : Host.Outcome State Fault Refusal := issueSlot (slotCpFill h) s

/-- SL_RANK (R354). Find the k-th largest candidate by plane walk and write mask and record. -/
def execSlRank (h : EngHead) (s : State) : Host.Outcome State Fault Refusal := issueSlot (slotSlRank h) s

/-- SL_WQNT (R354). Find the weighted quantile threshold by plane walk. -/
def execSlWqnt (h : EngHead) (s : State) : Host.Outcome State Fault Refusal := issueSlot (slotSlWqnt h) s

/-- SL_THR (R354). Select candidates above or at a threshold. -/
def execSlThr (h : EngHead) (s : State) : Host.Outcome State Fault Refusal := issueSlot (slotSlThr h) s

/-- CK_SNAP (R358). Copy scratchpad state into a snapshot slot and mark it held. -/
def execCkSnap (h : EngHead) (s : State) : Host.Outcome State Fault Refusal := issueSlot (slotCkSnap h) s

/-- CK_LOAD (R358). Copy a snapshot slot back into scratchpad. -/
def execCkLoad (h : EngHead) (s : State) : Host.Outcome State Fault Refusal := issueSlot (slotCkLoad h) s

/-- CK_COMMIT (R358). Restore a slot, mark it committed, free masked slots, and optionally publish by release swap. -/
def execCkCommit (h : EngHead) (s : State) : Host.Outcome State Fault Refusal := issueSlot (slotCkCommit h) s

/-- CK_DROP (R358). Free the masked snapshot slots. -/
def execCkDrop (h : EngHead) (s : State) : Host.Outcome State Fault Refusal := issueSlot (slotCkDrop h) s

/-- SY_REG (R335). Register on a phaser in a signalling or waiting mode for a phase. -/
def execSyReg (h : EngHead) (p : Fin 16) (s : State) : Host.Outcome State Fault Refusal := issueSlot (slotSyReg h p) s

/-- SY_DROP (R335). Drop membership of a phaser for a phase. -/
def execSyDrop (h : EngHead) (s : State) : Host.Outcome State Fault Refusal := issueSlot (slotSyDrop h) s

/-- SY_SIG (R336). Signal a phaser for a phase, sent after the context's earlier writes have performed. -/
def execSySig (h : EngHead) (s : State) : Host.Outcome State Fault Refusal := issueSlot (slotSySig h) s

/-- SY_NEXT (R336). Force a phaser to advance from the current phase. -/
def execSyNext (h : EngHead) (s : State) : Host.Outcome State Fault Refusal := issueSlot (slotSyNext h) s

/-- SY_BASE (R334). Initialise a phaser or a ring of phasers with phase, count and scope. -/
def execSyBase (h : EngHead) (s : State) : Host.Outcome State Fault Refusal := issueSlot (slotSyBase h) s

/-- SY_AMO_LD (R340). Atomic read of a memory location at its home. -/
def execSyAmoLd (h : EngHead) (s : State) : Host.Outcome State Fault Refusal := issueSlot (slotSyAmoLd h) s

/-- SY_AMO_SWAP (R340). Atomic swap. -/
def execSyAmoSwap (h : EngHead) (s : State) : Host.Outcome State Fault Refusal := issueSlot (slotSyAmoSwap h) s

/-- SY_AMO_CAS (R340). Atomic compare-and-swap. -/
def execSyAmoCas (h : EngHead) (s : State) : Host.Outcome State Fault Refusal := issueSlot (slotSyAmoCas h) s

/-- SY_AMO_ADD (R340). Atomic wrapping add. -/
def execSyAmoAdd (h : EngHead) (s : State) : Host.Outcome State Fault Refusal := issueSlot (slotSyAmoAdd h) s

/-- SY_AMO_AND (R340). Atomic bitwise and. -/
def execSyAmoAnd (h : EngHead) (s : State) : Host.Outcome State Fault Refusal := issueSlot (slotSyAmoAnd h) s

/-- SY_AMO_OR (R340). Atomic bitwise or. -/
def execSyAmoOr (h : EngHead) (s : State) : Host.Outcome State Fault Refusal := issueSlot (slotSyAmoOr h) s

/-- SY_AMO_XOR (R340). Atomic bitwise exclusive or. -/
def execSyAmoXor (h : EngHead) (s : State) : Host.Outcome State Fault Refusal := issueSlot (slotSyAmoXor h) s

/-- SY_AMO_MAX (R340). Atomic signed maximum. -/
def execSyAmoMax (h : EngHead) (s : State) : Host.Outcome State Fault Refusal := issueSlot (slotSyAmoMax h) s

/-- SY_AMO_MIN (R340). Atomic signed minimum. -/
def execSyAmoMin (h : EngHead) (s : State) : Host.Outcome State Fault Refusal := issueSlot (slotSyAmoMin h) s

/-- SY_RED_ADD (R341). Reduction at memory by wrapping integer add. -/
def execSyRedAdd (h : EngHead) (s : State) : Host.Outcome State Fault Refusal := issueSlot (slotSyRedAdd h) s

/-- SY_RED_ADD_F32 (R341). Reduction at memory by fp32 add. -/
def execSyRedAddF32 (h : EngHead) (s : State) : Host.Outcome State Fault Refusal := issueSlot (slotSyRedAddF32 h) s

/-- SY_RED_MAX_F32 (R341). Reduction at memory by fp32 maximum. -/
def execSyRedMaxF32 (h : EngHead) (s : State) : Host.Outcome State Fault Refusal := issueSlot (slotSyRedMaxF32 h) s

/-- SY_RED_MIN_F32 (R341). Reduction at memory by fp32 minimum. -/
def execSyRedMinF32 (h : EngHead) (s : State) : Host.Outcome State Fault Refusal := issueSlot (slotSyRedMinF32 h) s

/-- SCOPE_SET (R275). Set a scope-table entry from a core mask, slice mask and host and peer bits, bumping its generation. -/
def execScopeSet (h : EngHead) (p : Fin 16) (s : State) : Host.Outcome State Fault Refusal :=
  issueSlot (slotScopeSet h p) s

/-- SCOPE_CLR (R277). Clear a scope-table entry. -/
def execScopeClr (h : EngHead) (p : Fin 16) (s : State) : Host.Outcome State Fault Refusal :=
  issueSlot (slotScopeClr h p) s

end Sys2Proof.Machine
end

