-- ==== Sys2Proof/Machine/InstrMemory.lean ====
section
/-! DEFINITION. Loads and stores (spec/12_memory.md R263, R264). -/

namespace Sys2Proof.Machine

/-- LS_LD_N8 (R263). Load one byte zero-extended. -/
def execLsLdN8 (h : MoveHead) (s : State) : Host.Outcome State Fault Refusal := issueSlot (slotLsLdN8 h) s

/-- LS_LD_N16 (R263). Load two bytes zero-extended. -/
def execLsLdN16 (h : MoveHead) (s : State) : Host.Outcome State Fault Refusal := issueSlot (slotLsLdN16 h) s

/-- LS_LD_N32 (R263). Load four bytes zero-extended. -/
def execLsLdN32 (h : MoveHead) (s : State) : Host.Outcome State Fault Refusal := issueSlot (slotLsLdN32 h) s

/-- LS_LD_I32 (R263). Load four bytes sign-extended. -/
def execLsLdI32 (h : MoveHead) (s : State) : Host.Outcome State Fault Refusal := issueSlot (slotLsLdI32 h) s

/-- LS_LD_64 (R263). Load eight bytes. -/
def execLsLd64 (h : MoveHead) (s : State) : Host.Outcome State Fault Refusal := issueSlot (slotLsLd64 h) s

/-- LS_LD_Q (R263). Load sixteen bytes. -/
def execLsLdQ (h : MoveHead) (s : State) : Host.Outcome State Fault Refusal := issueSlot (slotLsLdQ h) s

/-- LS_LD_V (R263). Load 256 bytes as a vector. -/
def execLsLdV (h : MoveHead) (s : State) : Host.Outcome State Fault Refusal := issueSlot (slotLsLdV h) s

/-- LS_ST_8 (R264). Store one byte, or hold it under an open guard. -/
def execLsSt8 (h : MoveHead) (s : State) : Host.Outcome State Fault Refusal := issueSlot (slotLsSt8 h) s

/-- LS_ST_16 (R264). Store two bytes. -/
def execLsSt16 (h : MoveHead) (s : State) : Host.Outcome State Fault Refusal := issueSlot (slotLsSt16 h) s

/-- LS_ST_32 (R264). Store four bytes. -/
def execLsSt32 (h : MoveHead) (s : State) : Host.Outcome State Fault Refusal := issueSlot (slotLsSt32 h) s

/-- LS_ST_64 (R264). Store eight bytes. -/
def execLsSt64 (h : MoveHead) (s : State) : Host.Outcome State Fault Refusal := issueSlot (slotLsSt64 h) s

/-- LS_ST_Q (R264). Store sixteen bytes. -/
def execLsStQ (h : MoveHead) (s : State) : Host.Outcome State Fault Refusal := issueSlot (slotLsStQ h) s

/-- LS_ST_V (R264). Store 256 bytes. -/
def execLsStV (h : MoveHead) (s : State) : Host.Outcome State Fault Refusal := issueSlot (slotLsStV h) s

end Sys2Proof.Machine
end

