-- ==== Sys2Proof/Machine/InstrMove.lean ====
section
/-! DEFINITION. Moves, immediates, the no-op and the integer/address unit (spec/03_bundles.md R61-R69, R83; spec/06_control.md R167-R174). -/

namespace Sys2Proof.Machine

/-- MOVE (R65). A move slot carries its source to a register, operand port, staging word or special destination under its guard, forming alternatives, pushing cq or resolving a guard as the destination requires. -/
def execMove (h : MoveHead) (d : Dest) (s : State) : Host.Outcome State Fault Refusal := issueSlot (slotMove h d) s

/-- IMMEDIATE (R69). An immediate slot writes a sign-extended value into its column's ix, two such slots in one column word forming a 42-bit value. -/
def execImmediate (v : BitVec 21) (s : State) : Host.Outcome State Fault Refusal := issueSlot (slotImmediate v) s

/-- IA_ADD (R167). IAU adds ia.a and t, result in ia.o after 1 cycle. -/
def execIaAdd (h : MoveHead) (s : State) : Host.Outcome State Fault Refusal := issueSlot (slotIaAdd h) s

/-- IA_SUB (R167). IAU subtracts t from ia.a. -/
def execIaSub (h : MoveHead) (s : State) : Host.Outcome State Fault Refusal := issueSlot (slotIaSub h) s

/-- IA_MUL (R167). IAU low 64-bit product. -/
def execIaMul (h : MoveHead) (s : State) : Host.Outcome State Fault Refusal := issueSlot (slotIaMul h) s

/-- IA_MULH_I64 (R167). IAU high 64 bits of the signed 128-bit product. -/
def execIaMulhI64 (h : MoveHead) (s : State) : Host.Outcome State Fault Refusal := issueSlot (slotIaMulhI64 h) s

/-- IA_AND (R167). IAU bitwise and. -/
def execIaAnd (h : MoveHead) (s : State) : Host.Outcome State Fault Refusal := issueSlot (slotIaAnd h) s

/-- IA_OR (R167). IAU bitwise or. -/
def execIaOr (h : MoveHead) (s : State) : Host.Outcome State Fault Refusal := issueSlot (slotIaOr h) s

/-- IA_XOR (R167). IAU bitwise exclusive or. -/
def execIaXor (h : MoveHead) (s : State) : Host.Outcome State Fault Refusal := issueSlot (slotIaXor h) s

/-- IA_SHL (R167). IAU shift left by t[5:0]. -/
def execIaShl (h : MoveHead) (s : State) : Host.Outcome State Fault Refusal := issueSlot (slotIaShl h) s

/-- IA_SHR_N64 (R167). IAU logical shift right. -/
def execIaShrN64 (h : MoveHead) (s : State) : Host.Outcome State Fault Refusal := issueSlot (slotIaShrN64 h) s

/-- IA_SHR_I64 (R167). IAU arithmetic shift right. -/
def execIaShrI64 (h : MoveHead) (s : State) : Host.Outcome State Fault Refusal := issueSlot (slotIaShrI64 h) s

/-- IA_MIN_I64 (R167). IAU signed minimum. -/
def execIaMinI64 (h : MoveHead) (s : State) : Host.Outcome State Fault Refusal := issueSlot (slotIaMinI64 h) s

/-- IA_MAX_I64 (R167). IAU signed maximum. -/
def execIaMaxI64 (h : MoveHead) (s : State) : Host.Outcome State Fault Refusal := issueSlot (slotIaMaxI64 h) s

/-- IA_ADDS_I64 (R167). IAU saturating signed add, raising sat when clamped. -/
def execIaAddsI64 (h : MoveHead) (s : State) : Host.Outcome State Fault Refusal := issueSlot (slotIaAddsI64 h) s

/-- IA_SUBS_I64 (R167). IAU saturating signed subtract, raising sat when clamped. -/
def execIaSubsI64 (h : MoveHead) (s : State) : Host.Outcome State Fault Refusal := issueSlot (slotIaSubsI64 h) s

/-- IA_EQ (R167). IAU writes 1 if ia.a equals t, else 0. -/
def execIaEq (h : MoveHead) (s : State) : Host.Outcome State Fault Refusal := issueSlot (slotIaEq h) s

/-- IA_LT_I64 (R167). IAU signed less-than to ia.o. -/
def execIaLtI64 (h : MoveHead) (s : State) : Host.Outcome State Fault Refusal := issueSlot (slotIaLtI64 h) s

/-- IA_LT_N64 (R167). IAU unsigned less-than to ia.o. -/
def execIaLtN64 (h : MoveHead) (s : State) : Host.Outcome State Fault Refusal := issueSlot (slotIaLtN64 h) s

/-- IA_CQ_EQ (R174). Compare for equality and push the bit on the condition queue at trigger + 1. -/
def execIaCqEq (h : MoveHead) (s : State) : Host.Outcome State Fault Refusal := issueSlot (slotIaCqEq h) s

/-- IA_CQ_LT_I64 (R174). Signed compare pushed on the condition queue. -/
def execIaCqLtI64 (h : MoveHead) (s : State) : Host.Outcome State Fault Refusal := issueSlot (slotIaCqLtI64 h) s

/-- IA_CQ_LT_N64 (R174). Unsigned compare pushed on the condition queue. -/
def execIaCqLtN64 (h : MoveHead) (s : State) : Host.Outcome State Fault Refusal := issueSlot (slotIaCqLtN64 h) s

/-- IA_CG_EQ (R108). Compare for equality and write guard k(ia.g) at trigger + 1, or park on an empty t. -/
def execIaCgEq (h : MoveHead) (s : State) : Host.Outcome State Fault Refusal := issueSlot (slotIaCgEq h) s

/-- IA_CG_LT_I64 (R108). Signed compare to guard. -/
def execIaCgLtI64 (h : MoveHead) (s : State) : Host.Outcome State Fault Refusal := issueSlot (slotIaCgLtI64 h) s

/-- IA_CG_LT_N64 (R108). Unsigned compare to guard. -/
def execIaCgLtN64 (h : MoveHead) (s : State) : Host.Outcome State Fault Refusal := issueSlot (slotIaCgLtN64 h) s

/-- IA_SRD (R169). Read the system register numbered t into ia.o. -/
def execIaSrd (h : MoveHead) (s : State) : Host.Outcome State Fault Refusal := issueSlot (slotIaSrd h) s

/-- IA_SWR (R169). Write t to the system register numbered ia.a, field by field, at commit. -/
def execIaSwr (h : MoveHead) (s : State) : Host.Outcome State Fault Refusal := issueSlot (slotIaSwr h) s

/-- IA_POPC (R167). IAU population count of t. -/
def execIaPopc (h : MoveHead) (s : State) : Host.Outcome State Fault Refusal := issueSlot (slotIaPopc h) s

/-- UNASSIGNED_ENCODING (R83). A bundle holding an unassigned slot, engine, command, control op or wait-kind encoding takes its decode fault before issue and commits nothing. -/
def execUnassignedEncoding (r : Reject) (s : State) : Host.Outcome State Fault Refusal :=
  issueSlot (slotUnassignedEncoding r) s

/-- NOP (R61). The no-op slot does nothing. -/
def execNop (s : State) : Host.Outcome State Fault Refusal := issueSlot slotNop s

end Sys2Proof.Machine
end

