-- ==== Sys2Proof/Machine/InstrVector.lean ====
section
/-! DEFINITION. The vector unit, the special-function unit and the reduction slot (spec/08_vector.md R212-R234). -/

namespace Sys2Proof.Machine

/-- VA_ADD_F32 (R216). Lane-wise fp32 add under va.m. -/
def execVaAddF32 (h : MoveHead) (s : State) : Host.Outcome State Fault Refusal := issueSlot (slotVaAddF32 h) s

/-- VA_ADD_H16 (R216). Packed fp16 add. -/
def execVaAddH16 (h : MoveHead) (s : State) : Host.Outcome State Fault Refusal := issueSlot (slotVaAddH16 h) s

/-- VA_ADD_B16 (R216). Packed bf16 add. -/
def execVaAddB16 (h : MoveHead) (s : State) : Host.Outcome State Fault Refusal := issueSlot (slotVaAddB16 h) s

/-- VA_SUB_F32 (R216). Lane-wise fp32 subtract. -/
def execVaSubF32 (h : MoveHead) (s : State) : Host.Outcome State Fault Refusal := issueSlot (slotVaSubF32 h) s

/-- VA_SUB_H16 (R216). Packed fp16 subtract. -/
def execVaSubH16 (h : MoveHead) (s : State) : Host.Outcome State Fault Refusal := issueSlot (slotVaSubH16 h) s

/-- VA_SUB_B16 (R216). Packed bf16 subtract. -/
def execVaSubB16 (h : MoveHead) (s : State) : Host.Outcome State Fault Refusal := issueSlot (slotVaSubB16 h) s

/-- VA_MUL_F32 (R216). Lane-wise fp32 multiply. -/
def execVaMulF32 (h : MoveHead) (s : State) : Host.Outcome State Fault Refusal := issueSlot (slotVaMulF32 h) s

/-- VA_MUL_H16 (R216). Packed fp16 multiply. -/
def execVaMulH16 (h : MoveHead) (s : State) : Host.Outcome State Fault Refusal := issueSlot (slotVaMulH16 h) s

/-- VA_MUL_B16 (R216). Packed bf16 multiply. -/
def execVaMulB16 (h : MoveHead) (s : State) : Host.Outcome State Fault Refusal := issueSlot (slotVaMulB16 h) s

/-- VA_FMA_F32 (R216). fp32 fused multiply-add va.a × va.b + t, latency 4. -/
def execVaFmaF32 (h : MoveHead) (s : State) : Host.Outcome State Fault Refusal := issueSlot (slotVaFmaF32 h) s

/-- VA_FMA_H16 (R216). Packed fp16 fused multiply-add. -/
def execVaFmaH16 (h : MoveHead) (s : State) : Host.Outcome State Fault Refusal := issueSlot (slotVaFmaH16 h) s

/-- VA_FMA_B16 (R216). Packed bf16 fused multiply-add. -/
def execVaFmaB16 (h : MoveHead) (s : State) : Host.Outcome State Fault Refusal := issueSlot (slotVaFmaB16 h) s

/-- VA_MIN_F32 (R216). Lane-wise fp32 minimum. -/
def execVaMinF32 (h : MoveHead) (s : State) : Host.Outcome State Fault Refusal := issueSlot (slotVaMinF32 h) s

/-- VA_MIN_H16 (R216). Packed fp16 minimum. -/
def execVaMinH16 (h : MoveHead) (s : State) : Host.Outcome State Fault Refusal := issueSlot (slotVaMinH16 h) s

/-- VA_MIN_B16 (R216). Packed bf16 minimum. -/
def execVaMinB16 (h : MoveHead) (s : State) : Host.Outcome State Fault Refusal := issueSlot (slotVaMinB16 h) s

/-- VA_MAX_F32 (R216). Lane-wise fp32 maximum. -/
def execVaMaxF32 (h : MoveHead) (s : State) : Host.Outcome State Fault Refusal := issueSlot (slotVaMaxF32 h) s

/-- VA_MAX_H16 (R216). Packed fp16 maximum. -/
def execVaMaxH16 (h : MoveHead) (s : State) : Host.Outcome State Fault Refusal := issueSlot (slotVaMaxH16 h) s

/-- VA_MAX_B16 (R216). Packed bf16 maximum. -/
def execVaMaxB16 (h : MoveHead) (s : State) : Host.Outcome State Fault Refusal := issueSlot (slotVaMaxB16 h) s

/-- VA_LT_F32 (R217). fp32 less-than compare to a lane mask. -/
def execVaLtF32 (h : MoveHead) (s : State) : Host.Outcome State Fault Refusal := issueSlot (slotVaLtF32 h) s

/-- VA_LE_F32 (R217). fp32 less-or-equal compare to a lane mask. -/
def execVaLeF32 (h : MoveHead) (s : State) : Host.Outcome State Fault Refusal := issueSlot (slotVaLeF32 h) s

/-- VA_EQ_F32 (R217). fp32 equality compare to a lane mask. -/
def execVaEqF32 (h : MoveHead) (s : State) : Host.Outcome State Fault Refusal := issueSlot (slotVaEqF32 h) s

/-- VA_ADD_I32 (R218). Lane-wise wrapping 32-bit add. -/
def execVaAddI32 (h : MoveHead) (s : State) : Host.Outcome State Fault Refusal := issueSlot (slotVaAddI32 h) s

/-- VA_SUB_I32 (R218). Lane-wise wrapping 32-bit subtract. -/
def execVaSubI32 (h : MoveHead) (s : State) : Host.Outcome State Fault Refusal := issueSlot (slotVaSubI32 h) s

/-- VA_MUL_I32 (R218). Lane-wise low 32-bit product. -/
def execVaMulI32 (h : MoveHead) (s : State) : Host.Outcome State Fault Refusal := issueSlot (slotVaMulI32 h) s

/-- VA_ADDS_I32 (R218). Lane-wise saturating signed add. -/
def execVaAddsI32 (h : MoveHead) (s : State) : Host.Outcome State Fault Refusal := issueSlot (slotVaAddsI32 h) s

/-- VA_MIN_I32 (R218). Lane-wise signed minimum. -/
def execVaMinI32 (h : MoveHead) (s : State) : Host.Outcome State Fault Refusal := issueSlot (slotVaMinI32 h) s

/-- VA_MAX_I32 (R218). Lane-wise signed maximum. -/
def execVaMaxI32 (h : MoveHead) (s : State) : Host.Outcome State Fault Refusal := issueSlot (slotVaMaxI32 h) s

/-- VA_MIN_N32 (R218). Lane-wise unsigned minimum. -/
def execVaMinN32 (h : MoveHead) (s : State) : Host.Outcome State Fault Refusal := issueSlot (slotVaMinN32 h) s

/-- VA_MAX_N32 (R218). Lane-wise unsigned maximum. -/
def execVaMaxN32 (h : MoveHead) (s : State) : Host.Outcome State Fault Refusal := issueSlot (slotVaMaxN32 h) s

/-- VA_AND (R218). Lane-wise bitwise and. -/
def execVaAnd (h : MoveHead) (s : State) : Host.Outcome State Fault Refusal := issueSlot (slotVaAnd h) s

/-- VA_OR (R218). Lane-wise bitwise or. -/
def execVaOr (h : MoveHead) (s : State) : Host.Outcome State Fault Refusal := issueSlot (slotVaOr h) s

/-- VA_XOR (R218). Lane-wise bitwise exclusive or. -/
def execVaXor (h : MoveHead) (s : State) : Host.Outcome State Fault Refusal := issueSlot (slotVaXor h) s

/-- VA_SHL (R218). Lane-wise shift left by t[4:0]. -/
def execVaShl (h : MoveHead) (s : State) : Host.Outcome State Fault Refusal := issueSlot (slotVaShl h) s

/-- VA_SHR_N32 (R218). Lane-wise logical shift right. -/
def execVaShrN32 (h : MoveHead) (s : State) : Host.Outcome State Fault Refusal := issueSlot (slotVaShrN32 h) s

/-- VA_SHR_I32 (R218). Lane-wise arithmetic shift right. -/
def execVaShrI32 (h : MoveHead) (s : State) : Host.Outcome State Fault Refusal := issueSlot (slotVaShrI32 h) s

/-- VA_LT_I32 (R217). Signed 32-bit less-than compare to a lane mask. -/
def execVaLtI32 (h : MoveHead) (s : State) : Host.Outcome State Fault Refusal := issueSlot (slotVaLtI32 h) s

/-- VA_EQ_I32 (R217). 32-bit equality compare to a lane mask. -/
def execVaEqI32 (h : MoveHead) (s : State) : Host.Outcome State Fault Refusal := issueSlot (slotVaEqI32 h) s

/-- VA_ABS (R219). Clear bit 31 of each active lane. -/
def execVaAbs (h : MoveHead) (s : State) : Host.Outcome State Fault Refusal := issueSlot (slotVaAbs h) s

/-- VA_NEG (R219). Invert bit 31 of each active lane. -/
def execVaNeg (h : MoveHead) (s : State) : Host.Outcome State Fault Refusal := issueSlot (slotVaNeg h) s

/-- VA_CSGN (R219). Copy the sign of va.a onto t lane-wise. -/
def execVaCsgn (h : MoveHead) (s : State) : Host.Outcome State Fault Refusal := issueSlot (slotVaCsgn h) s

/-- VA_CVT_F32_I32 (R222). Convert .i32 lanes to fp32. -/
def execVaCvtF32I32 (h : MoveHead) (s : State) : Host.Outcome State Fault Refusal := issueSlot (slotVaCvtF32I32 h) s

/-- VA_CVT_I32_F32 (R222). Convert fp32 lanes to clamped .i32. -/
def execVaCvtI32F32 (h : MoveHead) (s : State) : Host.Outcome State Fault Refusal := issueSlot (slotVaCvtI32F32 h) s

/-- VA_CVT_H16_F32 (R222). Narrow 128 fp32 inputs from va.a and t to fp16. -/
def execVaCvtH16F32 (h : MoveHead) (s : State) : Host.Outcome State Fault Refusal := issueSlot (slotVaCvtH16F32 h) s

/-- VA_CVT_B16_F32 (R222). Narrow 128 fp32 inputs to bf16. -/
def execVaCvtB16F32 (h : MoveHead) (s : State) : Host.Outcome State Fault Refusal := issueSlot (slotVaCvtB16F32 h) s

/-- VA_CVT_F32_H16 (R222). Widen 128 fp16 elements to fp32 into va.o and a spill register. -/
def execVaCvtF32H16 (h : MoveHead) (s : State) : Host.Outcome State Fault Refusal := issueSlot (slotVaCvtF32H16 h) s

/-- VA_CVT_F32_B16 (R222). Widen 128 bf16 elements to fp32 into va.o and a spill register. -/
def execVaCvtF32B16 (h : MoveHead) (s : State) : Host.Outcome State Fault Refusal := issueSlot (slotVaCvtF32B16 h) s

/-- VA_CVT_E43_F32 (R222). Narrow 128 fp32 inputs to saturated e4m3. -/
def execVaCvtE43F32 (h : MoveHead) (s : State) : Host.Outcome State Fault Refusal := issueSlot (slotVaCvtE43F32 h) s

/-- VA_CVT_E52_F32 (R222). Narrow 128 fp32 inputs to saturated e5m2. -/
def execVaCvtE52F32 (h : MoveHead) (s : State) : Host.Outcome State Fault Refusal := issueSlot (slotVaCvtE52F32 h) s

/-- VA_CVT_F32_E43 (R222). Widen half of 256 e4m3 elements to fp32, multi-register. -/
def execVaCvtF32E43 (h : MoveHead) (s : State) : Host.Outcome State Fault Refusal := issueSlot (slotVaCvtF32E43 h) s

/-- VA_CVT_F32_E52 (R222). Widen half of 256 e5m2 elements to fp32, multi-register. -/
def execVaCvtF32E52 (h : MoveHead) (s : State) : Host.Outcome State Fault Refusal := issueSlot (slotVaCvtF32E52 h) s

/-- VA_PK_SX4 (R223). Pack 128 fp32 values into SX4 blocks with husks in the spill register. -/
def execVaPkSx4 (h : MoveHead) (s : State) : Host.Outcome State Fault Refusal := issueSlot (slotVaPkSx4 h) s

/-- VA_PK_SX6 (R223). Pack 128 fp32 values into SX6 blocks. -/
def execVaPkSx6 (h : MoveHead) (s : State) : Host.Outcome State Fault Refusal := issueSlot (slotVaPkSx6 h) s

/-- VA_PK_SX8 (R223). Pack 128 fp32 values into SX8 blocks. -/
def execVaPkSx8 (h : MoveHead) (s : State) : Host.Outcome State Fault Refusal := issueSlot (slotVaPkSx8 h) s

/-- VA_PK_SX16 (R223). Pack 128 fp32 values into SX16 blocks. -/
def execVaPkSx16 (h : MoveHead) (s : State) : Host.Outcome State Fault Refusal := issueSlot (slotVaPkSx16 h) s

/-- VA_UPK (R224). Unpack up to four SX blocks into 128 fp32 values. -/
def execVaUpk (h : MoveHead) (s : State) : Host.Outcome State Fault Refusal := issueSlot (slotVaUpk h) s

/-- VA_IMG_F32 (R225). Lane-wise monotone integer image of fp32. -/
def execVaImgF32 (h : MoveHead) (s : State) : Host.Outcome State Fault Refusal := issueSlot (slotVaImgF32 h) s

/-- VA_UIMG_F32 (R225). Lane-wise inverse of the monotone image. -/
def execVaUimgF32 (h : MoveHead) (s : State) : Host.Outcome State Fault Refusal := issueSlot (slotVaUimgF32 h) s

/-- VA_PLN (R226). Transpose 64 lanes of 32 bits into 32 planes. -/
def execVaPln (h : MoveHead) (s : State) : Host.Outcome State Fault Refusal := issueSlot (slotVaPln h) s

/-- VA_UPLN (R226). Transpose 32 planes back into 64 lanes. -/
def execVaUpln (h : MoveHead) (s : State) : Host.Outcome State Fault Refusal := issueSlot (slotVaUpln h) s

/-- VA_PERM (R227). Permute va.a lanes by index lanes of t. -/
def execVaPerm (h : MoveHead) (s : State) : Host.Outcome State Fault Refusal := issueSlot (slotVaPerm h) s

/-- VA_BCAST (R227). Broadcast one va.a lane to all lanes. -/
def execVaBcast (h : MoveHead) (s : State) : Host.Outcome State Fault Refusal := issueSlot (slotVaBcast h) s

/-- VA_CMPR (R228). Compress active va.a lanes to the low lanes. -/
def execVaCmpr (h : MoveHead) (s : State) : Host.Outcome State Fault Refusal := issueSlot (slotVaCmpr h) s

/-- VA_EXPD (R228). Expand low va.a lanes into active lanes. -/
def execVaExpd (h : MoveHead) (s : State) : Host.Outcome State Fault Refusal := issueSlot (slotVaExpd h) s

/-- VA_SEL (R227). Select va.a or t lane-wise by va.m. -/
def execVaSel (h : MoveHead) (s : State) : Host.Outcome State Fault Refusal := issueSlot (slotVaSel h) s

/-- SF_DIV_F32 (R229). Lane-wise correctly rounded fp32 divide sf.a / t, latency 14. -/
def execSfDivF32 (h : MoveHead) (s : State) : Host.Outcome State Fault Refusal := issueSlot (slotSfDivF32 h) s

/-- SF_SQRT_F32 (R229). Lane-wise square root, latency 14. -/
def execSfSqrtF32 (h : MoveHead) (s : State) : Host.Outcome State Fault Refusal := issueSlot (slotSfSqrtF32 h) s

/-- SF_RSQRT_F32 (R229). Lane-wise reciprocal square root, latency 10. -/
def execSfRsqrtF32 (h : MoveHead) (s : State) : Host.Outcome State Fault Refusal := issueSlot (slotSfRsqrtF32 h) s

/-- SF_EXP2_F32 (R229). Lane-wise exp2, latency 8. -/
def execSfExp2F32 (h : MoveHead) (s : State) : Host.Outcome State Fault Refusal := issueSlot (slotSfExp2F32 h) s

/-- SF_LOG2_F32 (R229). Lane-wise log2, latency 8. -/
def execSfLog2F32 (h : MoveHead) (s : State) : Host.Outcome State Fault Refusal := issueSlot (slotSfLog2F32 h) s

/-- RD_SUM_F32 (R233). Fold active lanes into a partial-sum latch by fp32 addition. -/
def execRdSumF32 (h : MoveHead) (s : State) : Host.Outcome State Fault Refusal := issueSlot (slotRdSumF32 h) s

/-- RD_SUM_I32 (R233). Fold active lanes by wrapping 64-bit integer addition. -/
def execRdSumI32 (h : MoveHead) (s : State) : Host.Outcome State Fault Refusal := issueSlot (slotRdSumI32 h) s

/-- RD_MAX_F32 (R233). Fold by fp32 maximum. -/
def execRdMaxF32 (h : MoveHead) (s : State) : Host.Outcome State Fault Refusal := issueSlot (slotRdMaxF32 h) s

/-- RD_MIN_F32 (R233). Fold by fp32 minimum. -/
def execRdMinF32 (h : MoveHead) (s : State) : Host.Outcome State Fault Refusal := issueSlot (slotRdMinF32 h) s

/-- RD_MAX_I32 (R233). Fold by signed maximum. -/
def execRdMaxI32 (h : MoveHead) (s : State) : Host.Outcome State Fault Refusal := issueSlot (slotRdMaxI32 h) s

/-- RD_MIN_I32 (R233). Fold by signed minimum. -/
def execRdMinI32 (h : MoveHead) (s : State) : Host.Outcome State Fault Refusal := issueSlot (slotRdMinI32 h) s

/-- RD_AMAX_F32 (R233). Argmax fold by monotone image with index and chunk count. -/
def execRdAmaxF32 (h : MoveHead) (s : State) : Host.Outcome State Fault Refusal := issueSlot (slotRdAmaxF32 h) s

/-- RD_AMIN_F32 (R233). Argmin fold by monotone image. -/
def execRdAminF32 (h : MoveHead) (s : State) : Host.Outcome State Fault Refusal := issueSlot (slotRdAminF32 h) s

/-- RD_SET (R233). Set a partial-sum latch to lane 0 of t. -/
def execRdSet (h : MoveHead) (s : State) : Host.Outcome State Fault Refusal := issueSlot (slotRdSet h) s

end Sys2Proof.Machine
end

