-- ==== Sys2Proof/Machine/Results.lean ====
section
/-! DEFINITION. What lands in a context by itself: results, fills, parked compares, held stores, store queues
(spec/02_numbers.md R41, R42; spec/04_shades.md R106, R109, R113, R115, R120, R127; spec/12_memory.md R257-R259, R264;
spec/07_traps.md R194, R195, R200). -/

namespace Sys2Proof.Machine

/-! ## Flags of a result (R41, R42) -/

/-- The enables judge an alternative's own flags: an enabled one makes it grey and is not kept; what its inputs had pending stays
(R42, R124) (notes/assumptions/65.md). -/
def Ctx.judge (x : Ctx) (a : Alt 2048) : Alt 2048 :=
  let b := { a with own := 0, flags := a.flags ||| flagsQuiet x.nst a.own }
  match flagTrap x.nst a.own with
  | none => b
  | some n => { b with grey := a.grey.or (some (cArithmetic n)) }

/-- The flags of a result land; whether its destination is written. An enabled flag raises an arithmetic trap (R41) (notes/assumptions/56.md). -/
def Ctx.landFlags (x : Ctx) (f : InFlight) : Ctx × Bool :=
  match flagTrap x.nst f.flags with
  | none => (x.raise f.flags, true)
  | some n =>
    if x.run.quiet then ((x.raise f.flags).drained, false)
    else
      let t : TrapRec := { cause := cArithmetic n, cls := 1, slot := f.slot, pc := f.pc, info := n, rank := f.rank,
                           flags := f.flags &&& nstEnables x.nst }
      ({ x.raise (flagsQuiet x.nst f.flags) with pendL := x.pendL ++ [t] }, false)

/-! ## Writing a result (R113, R115, R127, R259) -/

/-- The binding of an earlier miss to the place ends: a later write stands (R259). -/
def Ctx.endBinding (x : Ctx) (l : Loc) : Ctx :=
  { x with fills := x.fills.map fun f => if f.marked && f.dest == l then { f with dropped := true } else f }

def Loc.isReg : Loc → Bool
  | .s _ _ => true
  | .v _ _ => true
  | .m _ _ => true
  | _ => false

/-- Two results that land together collide (R127). -/
def Ctx.resultCollision (x : Ctx) (strict : Bool) (f : InFlight) : Ctx :=
  if x.run.quiet then { (if strict then x.drained else x) with wcol := true } else x.landCollision strict f.slot f.pc

/-- Places written so far by the results of the cycle, with the domains written. -/
abbrev Seen := List (Loc × List Term)

/-- The set `as` lands in place `l`; `seen` are the landings of the cycle so far. A register takes one single value, which
replaces all it held (R221, R259); a void leaves it as it is (notes/assumptions/67.md). -/
def Ctx.landSet (x : Ctx) (strict : Bool) (f : InFlight) (seen : Seen) (l : Loc) (as : List (Alt 2048)) : Ctx × Seen :=
  let prior := seen.filter (·.1 == l)
  let dom := valueTerms as
  let meets := prior.any fun p => p.2.any fun a => dom.any a.compatible
  let x := if meets then x.resultCollision strict f else x
  let new := if l.isReg then as
    else if prior.isEmpty || !x.isFull l then as else overlay as (x.alts l)
  if l.isReg && dom.isEmpty then (x, seen)
  else ((((x.endBinding l).raise (baseFlags new)).setAlts l (clearBase new)), seen ++ [(l, dom)])

/-- A miss lands: it replaces the whole set, whose entries are free, and leaves its destination empty (R257, R259). What the place
then holds is no value of the spec's; it is a free one (notes/assumptions/60.md). -/
def Ctx.landMiss (x : Ctx) (strict : Bool) (f : InFlight) (seen : Seen) (id : Nat) : Ctx × Seen :=
  let dom := valueTerms f.alts
  let meets := (seen.filter (·.1 == f.dest)).any fun p => p.2.any fun a => dom.any a.compatible
  let x := if meets then x.resultCollision strict f else x
  let x := (x.endBinding f.dest).setAlts f.dest f.hollow false
  ({ x with fills := x.fills.map fun (g : Fill) => if g.id == id then { g with marked := true } else g }, seen ++ [(f.dest, dom)])

/-- One result that is no guard write and no cq push lands, after the guards resolved before (R115). -/
def Ctx.landResult (strict : Bool) (acc : Ctx × Seen) (f : InFlight) : Ctx × Seen :=
  let f := (acc.1.refold f).settled
  let (x, ok) := acc.1.landFlags f
  let seen := acc.2
  if !ok then (x, seen)
  else
    let as := f.alts.map x.judge
    match f.fill with
    | some id => x.landMiss strict f seen id
    | none =>
      let (x, seen) := if as.isEmpty then (x, seen) else x.landSet strict f seen f.dest as
      match f.spill with
      | some (l, v) => x.landSet strict f seen l
          (if f.moved.isEmpty then [{ val := v, grey := (as.head?.bind (·.grey)) }] else f.moved)
      | none => (x, seen)

/-- A guard that resolves as results land resolves in what they have written too; flags that become part of base values are raised
(R42, R106, R115). -/
def Ctx.settleLate (x : Ctx) (r : Nat × Bool) : Ctx := (x.settle r.1 r.2).raise (x.resolvedFlags r.1 r.2)

/-- The bit of a compare's result. -/
def InFlight.bit (f : InFlight) : Bool := (f.alts.headD { val := 0 }).val.getLsbD 0

/-- The guard that a result resolves. -/
def Loc.guardNo : Loc → Option Nat
  | .guard n => some n
  | _ => none

/-- Compare results write guard `n`: the one issued later wins, also among them and a parked compare's write of the cycle (R106,
R127) (notes/assumptions/57.md). -/
def Ctx.landGuard (strict : Bool) (now : Nat) (fs : List InFlight) (x : Ctx) (n : Nat) : Ctx :=
  match (fs.filter fun f => f.dest == .guard n).getLast? with
  | none => x
  | some f =>
    let many := decide (1 < (fs.filter fun f => f.dest == .guard n).length)
    match x.parked.find? fun p => p.g == n && p.landsBy now with
    | none => (if many then x.resultCollision strict f else x).writeGuard n f.bit now true
    | some p =>
      if f.seq < p.seq then
        (x.resultCollision strict { f with slot := p.slot }).writeGuard n ((p.due.map (·.2)).getD f.bit) now true
      else (x.resultCollision strict f).writeGuard n f.bit now true

/-- Results of the context that are due. -/
def Ctx.landingDue (x : Ctx) (now : Nat) : List InFlight :=
  sortBy (fun a b => decide (a.seq ≤ b.seq)) (x.flight.filter fun f => decide (f.land ≤ now))

/-- Every result due in this cycle lands: results, then the guards that the bundle before has moved resolve in them, then cq pushes by
kernel column, then guards ascending (R106, R170). -/
def Ctx.land (x : Ctx) (strict : Bool) (now : Nat) : Ctx :=
  let due := x.landingDue now
  let x := { x with flight := x.flight.filter fun f => !decide (f.land ≤ now) }
  let plain := due.filter fun f => f.dest != .cq && f.dest.guardNo.isNone
  let x := (plain.flatMap (·.late)).eraseDups.foldl Ctx.settleLate (plain.foldl (Ctx.landResult strict) (x, [])).1
  let pushes := sortBy (fun (a b : InFlight) => decide (a.rank ≤ b.rank)) (due.filter (·.dest == .cq))
  let x := { x with cq := x.cq ++ pushes.map (·.bit) }
  let guards := due.filter fun f => f.dest.guardNo.isSome
  ((List.range 16).foldl (Ctx.landGuard strict now guards) x).evalParks now

def State.strictOf (s : State) (c : Nat) : Bool :=
  match s.boundTask c with
  | some t => ((s.kernelOf t).map (·.strict)).getD false
  | none => false

def State.landingsDue (s : State) (c : Nat) : Bool := !((s.ctx c).landingDue s.now).isEmpty

/-- Results land in context `c` (R10, R41). -/
def State.landResults (s : State) (c : Nat) : State := s.modCtx c fun x => x.land (s.strictOf c) s.now

/-! ## Fills (R257-R259) -/

/-- A fill whose data arrives in this cycle. -/
def State.fillDue (s : State) (c : Nat) : Option Fill :=
  (s.ctx c).fills.find? fun f => decide (f.due ≤ s.now) && s.homeReady f.pa &&
    !(s.releasedStores (s.ctx c).cxid.toNat f.behind).any (·.meets f.pa f.kind.size)

/-- The alternatives that a fill writes. -/
def Fill.alts (f : Fill) (forms : List FillForm) : List (Alt 2048) :=
  loadAlts f.kind (match f.dest with | .s _ _ => true | _ => false) f.data (if f.poison then some cPoison else none) forms

/-- A fill lands in its context: the destination becomes full. A load that has not yet landed takes the data with it. -/
def Ctx.landFill (x : Ctx) (f : Fill) : Ctx :=
  let x := { x with fills := x.fills.filter (·.id != f.id) }
  let as := f.alts f.forms
  let give := fun (r : InFlight) => if r.fill == some f.id then { r with fill := none, alts := as } else r
  if f.dropped then x
  else if f.marked then x.setAlts f.dest (if as.isEmpty then x.alts f.dest else as)
  else { x with flight := x.flight.map give, replay := x.replay.map give }

/-- One fill of context `c` lands; its lines enter the L1. -/
def State.landFill (s : State) (c : Nat) : State :=
  match s.fillDue c with
  | none => s
  | some f => (s.l1Fill (s.ctx c).cxid.toNat f.pa f.kind.size).modCtx c fun x => (x.landFill f).evalParks s.now

/-! ## Parked compares (R109) -/

def Ctx.parksDue (x : Ctx) (now : Nat) : List Parked := x.parked.filter (·.landsBy now)

def State.resolveParks (s : State) (c : Nat) : State :=
  s.modCtx c fun x =>
    let ps := sortBy (fun (a b : Parked) => decide (a.g ≤ b.g)) (x.parksDue s.now)
    ps.foldl (fun x p => match p.due with | some d => x.writeGuard p.g d.2 s.now true | none => x) x

/-! ## Held stores whose page was absent (R295) -/

/-- The page of an absent held store at its turn is recorded with the entry. -/
def State.settleHeld (s : State) (c : Nat) : State :=
  match s.heldPage c with
  | none => s
  | some (h, a) =>
    let h' := match a with
      | .ok p => if p.space != 0 || s.headerHit (s.tenantOf c) h.va h.size then { h with absent := false, grey := some cPermission }
        else { h with absent := false, pa := p.pa, placed := true }
      | .poisoned => { h with absent := false, grey := some cPoison }
      | _ => { h with absent := false, grey := some cPermission }
    let s := s.logWalk (s.translate (s.tenantOf c) h.va) (some (c, s.tenantOf c))
    s.modCtx c fun x => { x with held := h' :: x.held.tail, walked := x.walked.filter (· != h.va / 4096 * 2 + 1) }

/-! ## Store queues (R264, R279) -/

/-- The oldest entry of a queue can perform: stores of a context to one byte perform in order, whatever their columns (R264), and
after those to that byte which the context had observed or put behind itself by an acquire (R269-R271, notes/assumptions/85.md). -/
def State.storeDue (s : State) (c j : Nat) : Option StoreEntry :=
  match ((s.ctx c).col j).storeQ with
  | [] => none
  | e :: _ =>
    let waits := (s.storesBefore c e.seq (min e.seq e.after)).any (·.meets e.pa e.data.length)
    let fenced := ((s.pendingStores e.cxid).any fun o => decide (o.seq < e.barrier)) || !(s.releasedStores e.cxid e.barrier).isEmpty
    if e.due ≤ s.now && s.spanReady e.pa e.data.length && !fenced && !waits
    then some e else none

/-- It performs at its home. -/
def State.performStore (s : State) (c j : Nat) : State :=
  match s.storeDue c j with
  | none => s
  | some e => (s.writeGlobal e.pa e.data (some e.cxid)).modCtx c fun x => x.modCol j fun k => { k with storeQ := k.storeQ.tail }

/-! ## The events -/

/-- RESULT_LANDING (R10): every result of the context that is due lands. -/
def execResultLanding (c : Fin 8) (s : State) : Host.Outcome State Fault Refusal :=
  .next (if s.landingsDue c.val then s.landResults c.val else s)

/-- L1_FILL (R257). -/
def execL1Fill (c : Fin 8) (s : State) : Host.Outcome State Fault Refusal := .next (s.landFill c.val)

/-- PARKED_COMPARE_RESOLVE (R109). -/
def execParkedCompareResolve (c : Fin 8) (s : State) : Host.Outcome State Fault Refusal := .next (s.resolveParks c.val)

/-- HELD_STORE_PERFORM (R120). -/
def execHeldStorePerform (c : Fin 8) (s : State) : Host.Outcome State Fault Refusal :=
  .next (if (s.heldPage c.val).isSome then s.settleHeld c.val else s.performHeld c.val)

/-- STORE_PERFORM (R264). -/
def execStorePerform (c : Fin 8) (j : Fin 4) (s : State) : Host.Outcome State Fault Refusal := .next (s.performStore c.val j.val)

end Sys2Proof.Machine
end

