-- ==== Sys2Proof/Machine/Stops.lean ====
section
/-! DEFINITION. Boundaries: delivery of traps, pre-emption, slice ends, the context image, waits that end, and contexts that
become free (spec/07_traps.md R193-R211; spec/05_tasks.md R138-R161; spec/14_translation.md R294-R296). -/

namespace Sys2Proof.Machine

/-! ## Issue (R158, R161, R164) -/

/-- The context issues a bundle in this cycle: its boundary is now. -/
def State.issues (s : State) (c : Nat) : Bool :=
  match (s.ctx c).run with
  | .run st => decide (st ≤ s.now) && s.ownsColumns c s.now && (s.ctx c).issuedAt != some s.now
  | _ => false

/-! ## Delivery of traps (R195-R202) -/

/-- A grey head of the held-store buffer, at its turn (R125). -/
def Ctx.greyHead (x : Ctx) : List (Cause × Nat) :=
  match x.held with
  | [] => []
  | h :: _ => match h.grey with
    | some c => if h.term.isEmpty then [(c, greyInfo 3 h.col 0)] else []
    | none => []

/-- Traps due at the boundary, in the order of R197. -/
def Ctx.trapsDue (x : Ctx) : List TrapRec :=
  let arith := x.pendL.filter (·.cause.code == 0x20)
  let colls := x.pendL.filter fun t => t.cause.code != 0x20 && !t.hold
  let greys := if x.inHandler then [] else x.greyHead ++ x.firing
  x.pendL.filter (·.hold) ++ x.pendP.toList ++ colls ++ sortBy (fun (a b : TrapRec) => decide (a.rank ≤ b.rank)) arith ++
    greys.map fun g => { cause := g.1, cls := 2, slot := 0, pc := x.pc, info := g.2 }

/-- What becomes of a trap that is due but not recorded (R197). -/
def Ctx.unrecorded (x : Ctx) (t : TrapRec) : Ctx :=
  if t.cause.code == 0x20 && t.cls == 1 then x.raise t.flags
  else if t.cause.code == 0x0A then { x with wcol := true }
  else x

/-- Traps due at the boundary produce one delivery (R197) (notes/assumptions/43.md). -/
def State.deliver (s : State) (c : Nat) : State :=
  match (s.ctx c).trapsDue with
  | [] => s
  | t :: rest => (s.modCtx c fun x => rest.foldl Ctx.unrecorded x).takeTrap c { t with mult := !rest.isEmpty }

/-- A task is held and reported (R202, R378). -/
def State.holdTask (s : State) (c : Nat) : State :=
  let s := s.modCtx c fun x => { x with run := .held, preReq := false }
  let x := s.ctx c
  s.raiseEvent s.dieNo { kind := 3, status := 0, die := s.dieNo, tnt := s.tenantOf c, ctx := c, core := s.coreNum.toNat,
                         a := x.tcs.toNat, b := x.tpc.toNat }

/-- The drain is over: the record, whose mult a grey shade of the drain does not set (notes/assumptions/83.md), the release, and the
handler or the hold (R200-R202) (notes/assumptions/53.md). -/
def State.finishTrap (s : State) (c : Nat) (r : TrapRec) : State :=
  let enters := (s.ctx c).entersHandler
  let s := s.modCtx c fun x => x.recordTrap r x.pc
  let s := s.release c (s.now + 1)
  if enters && !r.hold then
    s.modCtx c fun x => { x with tcs := x.tcs ||| 0x800000000#64, run := .ready 1 (x.tvec.toNat % 512) none false s.now }
  else s.holdTask c

/-- The drain of R200 step 2 has ended. -/
def State.drainOver (s : State) (c : Nat) : Option TrapRec :=
  match (s.ctx c).run with
  | .drain d r => if d ≤ s.now && (s.ctx c).flight.isEmpty then some r else none
  | _ => none

/-- The task owns no further column cell and has not left its columns (R158). -/
def State.lastCellGone (s : State) (c : Nat) : Bool :=
  match (s.ctx c).run with
  | .run st => decide (st ≤ s.now) && !s.ownsColumns c s.now && (s.nextColumn c s.now).isNone
  | _ => false

/-- Traps are due at a boundary: where the next bundle would issue, or where the cells have run out (R158, R195). -/
def State.trapDue (s : State) (c : Nat) : Bool := (s.issues c || s.lastCellGone c) && !(s.ctx c).trapsDue.isEmpty

/-! ## Pre-emption and slice ends (R204-R208) -/

/-- The context once everything due in this cycle has landed and performed: results, fills, parked compares, held stores. -/
def State.atBoundary (s : State) (c : Nat) : Ctx :=
  (Nat.repeat (fun s => s.performHeld c) 16 ((Nat.repeat (fun s => s.landFill c) 64 (s.landResults c)).resolveParks c)).ctx c

/-- A requested pre-emption takes effect at this boundary, before the results that land now (R194, R205); a trap due at
the boundary, of a result that lands now too, goes first (R204; notes/assumptions/26.md). -/
def State.preemptDue (s : State) (c : Nat) : Bool :=
  let x := s.ctx c
  let y := s.atBoundary c
  s.issues c && (x.preReq || (x.slice.isSome && !x.pl)) && y.trapsDue.isEmpty && y.pendO.isNone

/-- A request of system software (R204): a running context stops at its next boundary, a waiting one at once, with its
results in flight in the replay buffer (R205); a context that is ready and not booked keeps the request, and a slice end stays
pending (notes/assumptions/84.md). -/
def State.requestPreempt (s : State) (c : Nat) : State :=
  s.modCtx c fun x => match x.run with
    | .fyield w f pat => { x.toReplay s.now with run := .preempted f pat (some w) false }
    | .pageWait f pat fut va wr => { x with run := .preempted f pat (some (.page fut va wr)) false }
    | .wait => { x with run := .preempted s.now [] none true }
    | .rebook f pat _ => { x.toReplay s.now with run := .preempted f pat none false }
    | .free => x
    | .held => x
    | .ending => x
    | .preempted _ _ _ _ => x
    | .evicting _ _ _ _ _ _ _ => x
    | _ => { x with preReq := true }

/-- The grace of a pending slice end has passed for a running context (R208) (notes/assumptions/59.md). -/
def State.graceOver (s : State) (c : Nat) : Bool :=
  let x := s.ctx c
  (match x.run with | .run _ => true | _ => false) && (match x.slice with | some t => decide (t ≤ s.now) | none => false) && !x.preReq

/-! ## Waits that end (R140, R161, R296) -/

/-- A page wait whose request was denied: the page takes a permission fault at the bundle (R296). -/
def State.pageOutcome (s : State) (c va : Nat) (fut : Option Nat) : State :=
  match fut.or (s.findFuture s.dieNo (s.tenantOf c) va) with
  | some f => if s.futureDenied f then s.modCtx c fun x => { x with walked := (va / 4096 * 2 + 1) :: x.walked } else s
  | none => s

/-- The context goes on from cycle `e`: in place, or once its cells are booked again (R161). -/
def State.goOn (s : State) (c f : Nat) (pat : List Booking) (e : Nat) : State :=
  if pat.isEmpty then s.resumeInPlace c f e else s.modCtx c fun x => { x with run := .rebook f pat e }

/-- A wait ends: what follows it. A guard that is open still has lost its resolver (R109). -/
def State.afterWait (s : State) (c f : Nat) (pat : List Booking) (w : FWait) (e : Nat) : State :=
  match w with
  | .guard n slot => (if (s.ctx c).isOpen n then s.modCtx c fun x => { x with stranded := some slot } else s).goOn c f pat e
  | .page fut va _ => (s.pageOutcome c va fut).goOn c f pat e
  | _ => s.goOn c f pat e

/-- A context whose wait is satisfied. -/
def State.ctxReady (s : State) (c : Nat) : Bool :=
  match (s.ctx c).run with
  | .fyield w _ _ => s.fwaitDone c w
  | .pageWait _ _ fut va wr => s.fwaitDone c (.page fut va wr)
  | .wait => (s.boundTask c).any s.waitDone
  | _ => false

/-- A wait of a task off its context that is satisfied; time waits are tested apart (R385). -/
def State.taskWaitOver (s : State) (t : Task) : Bool :=
  t.st == .waiting && (match t.wait with
    | .time _ => false
    | .timeline _ _ => false
    | _ => s.waitDone t)

/-- The task to make ready: that of a context first. -/
def State.readyNext (s : State) : Option Nat :=
  match (List.range 8).find? s.ctxReady with
  | some c => (s.ctx c).task
  | none => (s.tasks.find? s.taskWaitOver).map (·.id)

/-- The task becomes ready in the next cycle (R140). -/
def State.makeReady (s : State) (f : Nat) : State :=
  match (List.range 8).find? fun c => (s.ctx c).task == some f && s.ctxReady c with
  | some c =>
    let e := s.now + 1
    match (s.ctx c).run with
    | .fyield w at_ pat => s.afterWait c at_ pat w e
    | .pageWait at_ pat fut va wr => s.afterWait c at_ pat (.page fut va wr) e
    | .wait =>
      let s := match (s.task f).map (·.wait) with | some (.timeline i n) => s.coverWait c i n | _ => s
      (s.modCtx c fun x => { x with run := .ready 2 (((s.task f).map (·.seg)).getD 0) none true e }).modTask f
        fun t => { t with st := .bound, wait := .none }
    | _ => s
  | none =>
    match s.task f with
    | none => s
    | some t =>
      if !s.taskWaitOver t then s
      else if t.wait.kind == 1 then s.modTask f fun u => { u with st := .ready, readyAt := s.now + 1 }
      else s.enqueue f (s.now + 1)

/-! ## Resume and end (R203, R207, R383) -/

/-- A held task goes on with the effect of tret (R202, R203) (notes/assumptions/58.md). -/
def State.resumeHeld (s : State) (c : Nat) : State :=
  let x := s.ctx c
  match (s.boundTask c).bind s.kernelOf with
  | none => s
  | some k =>
    if k.ncode ≤ x.tres.toNat then
      (s.modCtx c fun x => x.recordTrap { cause := cBranchTarget, cls := 0, slot := 0, pc := x.pc, info := 0 } x.pc).holdTask c
    else s.modCtx c fun x => { x.leaveHandler with run := .ready 1 (x.tseg.toNat % 512) (some x.tres.toNat) false s.now }

/-- System software resumes a pre-empted task (R204, R207). -/
def State.resumePreempted (s : State) (c f : Nat) (pat : List Booking) (inner : Option FWait) (waiting : Bool) : State :=
  if waiting then s.modCtx c fun x => { x with run := .wait }
  else match inner with
    | none => s.goOn c f pat s.now
    | some w =>
      if s.fwaitDone c w then s.afterWait c f pat w s.now
      else s.modCtx c fun x => { x with run := match w with
        | .page fut va wr => .pageWait f pat fut va wr
        | _ => .fyield w f pat }

/-! ## The context image (R209-R211) -/

/-- Bytes of an image for kernel width `w` (R210). -/
def imageSize (w : Nat) : Nat := 148480 + 18688 * w

/-- The image header (R211). -/
def State.imageHeader (s : State) (c : Nat) (held : Bool) : Nat :=
  let x := s.ctx c
  let t := s.boundTask c
  let w := (t.map (·.width)).getD 1
  1 + (if w == 4 then 2 else w - 1) * 2 ^ 8 + held.toNat * 2 ^ 16 + s.tenantOf c * 2 ^ 17 + c * 2 ^ 21 + s.coreNum.toNat * 2 ^ 24 +
    (t.map (·.fra)).getD 0 % 2 ^ 64 * 2 ^ 64 + x.pc % 2 ^ 32 * 2 ^ 128 + x.wid.toNat * 2 ^ 192 + x.tcs.toNat * 2 ^ 256 +
    x.tpc.toNat * 2 ^ 320 + x.tres.toNat * 2 ^ 384 + x.tinf.toNat * 2 ^ 448

/-- The context is quiescent (R209). -/
def Ctx.quiescent (x : Ctx) : Bool := x.tl.toList.all (·.out.isEmpty) && x.fills.isEmpty && x.parked.isEmpty

/-- The image of a context is saved and the context freed (R209). -/
def State.saveImage (s : State) (c addr : Nat) (held : Bool) (f : Nat) (pat : List Booking) (inner : Option FWait)
    (waiting : Bool) : State :=
  let w := ((s.boundTask c).map (·.width)).getD 1
  let n := imageSize w - 64
  let bytes := leBytes 64 (s.imageHeader c held) ++ freeBytes s.free n
  let standing := s.pattern c s.now true
  let s := s.releasePattern c s.now true
  let x := s.ctx c
  let kept := { x with run := if held then .held else .preempted f (pat ++ standing) inner waiting }
  let s := ({ s with
    free := s.free + (n + 255) / 256
    images := { ctx := c, core := s.coreNum.toNat, bytes := bytes, saved := kept, tenant := s.tenantOf c
                mode := s.mode.toNat } :: s.images } : State)
  (s.writeGlobal addr bytes none).setCtx c x.freed

/-- The saved image whose bytes stand at `addr`, of this context and core. -/
def State.imageAt (s : State) (c addr : Nat) : Option SavedImage :=
  s.images.find? fun i => i.ctx == c && i.core == s.coreNum.toNat && !isPoisoned s.poisonG addr i.bytes.length &&
    s.readGlobal addr i.bytes.length == i.bytes

/-- A booking of an image that was saved under mode `old`, under mode `mode`: an injection port is booked by its number in the
kernel, which the mode maps (R162, R381). -/
def Booking.remapped (b : Booking) (old mode base : Nat) : Booking :=
  { b with res := if b.res < 47 then b.res else (physRes mode base (portOf old b.res)).getD noPort }

/-- What a restored context waits with: its released cells under the present mode. -/
def Run.remapped (r : Run) (old mode base : Nat) : Run :=
  match r with
  | .preempted f pat inner waiting => .preempted f (pat.map (·.remapped old mode base)) inner waiting
  | r => r

/-- A scope entry as it is restored: one whose replicas hold another generation than the one saved is not valid, because a core
it names has changed hands, or because the context's entry has been set again meanwhile (R278). -/
def ScopeEntry.restored (e now : ScopeEntry) (touched : BitVec 256) : ScopeEntry :=
  if e.cores &&& touched == 0 && e.gen == now.gen then e else { e with val := false, gen := now.gen }

/-- An image comes back into its context; counters, cxid and stores stay with the hardware (R209, R264, R279). -/
def State.restoreImage (s : State) (c : Nat) (i : SavedImage) : State :=
  let x := s.ctx c
  let y := i.saved
  s.setCtx c { y with
    tl := x.tl, cxid := x.cxid, synQ := x.synQ, relBarrier := x.relBarrier, relSp := x.relSp, acq := x.acq, seen := x.seen, lost := x.lost
    wrote := x.wrote, acquires := x.acquires
    perfNow := x.perfNow
    run := y.run.remapped i.mode s.mode.toNat y.base
    scopes := vgen 16 fun p => (vget y.scopes p {}).restored (vget x.scopes p {}) i.touched
    cols := vgen 4 fun j => { y.col j with storeQ := (x.col j).storeQ } }

/-! ## Contexts that become free (R147) -/

def State.freeable (s : State) (c : Nat) : Bool :=
  match (s.ctx c).run with
  | .ending => (s.ctx c).flight.isEmpty
  | _ => false

/-! ## The events -/

/-- TRAP_DELIVERY (R200): a delivery begins at the boundary, or ends once the results in flight have landed. -/
def execTrapDelivery (c : Fin 8) (s : State) : Host.Outcome State Fault Refusal :=
  .next (match s.drainOver c.val with
    | some r => s.finishTrap c.val r
    | none => if s.trapDue c.val then s.deliver c.val else s)

/-- PREEMPTION (R205). -/
def execPreemption (c : Fin 8) (s : State) : Host.Outcome State Fault Refusal :=
  .next (if s.preemptDue c.val then s.preemptNow c.val else s)

/-- SLICE_END_GRACE_EXPIRY (R208). -/
def execSliceEndGraceExpiry (c : Fin 8) (s : State) : Host.Outcome State Fault Refusal :=
  .next (if s.graceOver c.val then s.modCtx c.val fun x => { x with preReq := true } else s)

/-- OVERRUN_AFTER_LAST_CELL (R158). -/
def execOverrunAfterLastCell (c : Fin 8) (s : State) : Host.Outcome State Fault Refusal :=
  .next (if s.lastCellGone c.val then (s.heldOverrun c.val).getD (s.issueTrap c.val 0 cOverrun 0) else s)

/-- TASK_READY (R140): the task named becomes ready, where its wait is satisfied. -/
def execTaskReady (f : Nat) (s : State) : Host.Outcome State Fault Refusal := .next (s.makeReady f)

/-- CONTEXT_FREE (R147). -/
def execContextFree (c : Fin 8) (s : State) : Host.Outcome State Fault Refusal :=
  .next (if s.freeable c.val then s.modCtx c.val Ctx.freed else s)

end Sys2Proof.Machine
end

