-- ==== Sys2Proof/Machine/EngineEvents.lean ====
section
/-! DEFINITION. The events of the engines: matrix, copy, selection, checkpoint, synchronisation, scope unit, and packets
without a link (spec/11_matrix.md R241-R248; spec/15_copy.md R310-R321; spec/18_selection.md R350; spec/20_generation.md
R358-R363; spec/16_sync.md R330-R337; spec/13_consistency.md R276; spec/21_host.md R389). An event that is not due changes
nothing. -/

namespace Sys2Proof.Machine

/-! ## Matrix -/

/-- MTX_LOAD_PHASE_COMPLETE (R245). -/
def execMtxLoadPhaseComplete (j : Fin 4) (s : State) : Host.Outcome State Fault Refusal := .next (s.mtxLoaded j.val)

/-- ARRAY_STEP_COMPLETE (R241). -/
def execArrayStepComplete (j : Fin 4) (s : State) : Host.Outcome State Fault Refusal := .next (s.mtxStepped j.val)

/-- MX_ST_ROW_WRITE (R248). -/
def execMxStRowWrite (j : Fin 4) (s : State) : Host.Outcome State Fault Refusal := .next (s.mtxRow j.val)

/-- MTX_COMMAND_COMPLETE (R243). -/
def execMtxCommandComplete (j : Fin 4) (s : State) : Host.Outcome State Fault Refusal := .next (s.mtxDone j.val)

/-! ## Copy -/

/-- CPY_PIECE_EMIT (R310). -/
def execCpyPieceEmit (j : Fin 4) (s : State) : Host.Outcome State Fault Refusal := .next (s.cpEmit j.val)

/-- CPY_PIECE_LAND (R311). -/
def execCpyPieceLand (j : Fin 4) (s : State) : Host.Outcome State Fault Refusal := .next (s.cpLand j.val)

/-- CPY_RETRY_EMIT (R315). -/
def execCpyRetryEmit (j : Fin 4) (s : State) : Host.Outcome State Fault Refusal := .next (s.cpRetry j.val)

/-- TILE_DRAIN_ROW (R319). -/
def execTileDrainRow (j : Fin 4) (s : State) : Host.Outcome State Fault Refusal := .next (s.drainRow j.val)

/-- ROW_RECORD_FOLD (R321). -/
def execRowRecordFold (j : Fin 4) (s : State) : Host.Outcome State Fault Refusal := .next (s.foldRow j.val)

/-! ## Selection -/

/-- The selection unit's event: a completion, or the write of a record (R350). -/
def State.selEvent (s : State) : State :=
  match s.selIn .complete, s.selIn .writing with
  | some m, _ => s.selFinish m
  | none, some m => s.selWrite m
  | none, none => s

/-- SEL_RECORD_WRITE (R350). -/
def execSelRecordWrite (s : State) : Host.Outcome State Fault Refusal := .next s.selEvent

/-! ## Checkpoints -/

/-- CKP_CHUNK_COPY (R358). -/
def execCkpChunkCopy (s : State) : Host.Outcome State Fault Refusal := .next s.ckpCopy

/-- CKP_COMMIT_PUBLISH (R363). -/
def execCkpCommitPublish (s : State) : Host.Outcome State Fault Refusal := .next s.ckpPublish

/-- CKP_COMPLETE (R358). -/
def execCkpComplete (s : State) : Host.Outcome State Fault Refusal := .next s.ckpFinish

/-! ## Synchronisation and scopes -/

/-- SYN_SIGNAL_SEND (R336). -/
def execSynSignalSend (c : Fin 8) (s : State) : Host.Outcome State Fault Refusal := .next (s.synSignal c.val)

/-- SYN_APPLY (R330). -/
def execSynApply (s : State) : Host.Outcome State Fault Refusal := .next s.synStep

/-- PHASER_WAIT_ARRIVAL (R337). -/
def execPhaserWaitArrival (s : State) : Host.Outcome State Fault Refusal := .next s.phArrive

/-- SCOPE_UPDATE_COMPLETE (R276). -/
def execScopeUpdateComplete (s : State) : Host.Outcome State Fault Refusal := .next s.scopeComplete

/-! ## Packets without a link (R389) -/

def State.routeTimedOut (s : State) : Bool := s.landTimedOut.isSome || s.synTimedOut.isSome || s.ckTimedOut.isSome

/-- A packet that has had no link for 2^20 cycles is denied. -/
def State.denyPacket (s : State) : State :=
  match s.landTimedOut with
  | some l => s.denyLanding l
  | none => match s.synTimedOut with
    | some m => let r := s.synDeny m false; r.2.synDone m r.1
    | none => match s.ckTimedOut with
      | some m => s.ckFail m .publish (.denied m.pva false)
      | none => s

/-- PACKET_ROUTE_TIMEOUT (R389). -/
def execPacketRouteTimeout (s : State) : Host.Outcome State Fault Refusal := .next s.denyPacket

end Sys2Proof.Machine
end

