-- ==== Sys2Proof/Machine/Host.lean ====
section
/-! DEFINITION. What system software does over Nolbel: messages, host accesses, peer packets; event records, memory errors
(spec/21_host.md R368-R389; spec/14_translation.md R293, R297-R304; spec/07_traps.md R204-R211). A message whose words do not
belong to the constructor that carries it is no such event and changes nothing. -/

namespace Sys2Proof

open Machine (fld bitAt)

/-! ## The fields of a message (R370, R371, R383) -/

def HostMsg.type (m : HostMsg) : Nat := fld m.w0.toNat 0 8

def HostMsg.tnt (m : HostMsg) : Nat := fld m.w0.toNat 8 4

def HostMsg.tag (m : HostMsg) : Nat := fld m.w0.toNat 32 32

/-- The action of a context message. -/
def HostMsg.action (m : HostMsg) : Nat := fld m.w1.toNat 12 4

def HostMsg.core (m : HostMsg) : Nat := fld m.w1.toNat 0 8

def HostMsg.context (m : HostMsg) : Nat := fld m.w1.toNat 8 3

/-- The partition mode that a core message names. -/
def HostMsg.mode (m : HostMsg) : Nat := fld m.w1.toNat 8 2

/-- Reserved bits and unlisted words are 0: `a` to `d` are the bits that words 1 to 4 may use (notes/assumptions/31.md). -/
def HostMsg.shaped (m : HostMsg) (a : Word) (b c d : Word := 0) : Bool :=
  fld m.w0.toNat 12 20 == 0 && m.w1 &&& ~~~a == 0 && m.w2 &&& ~~~b == 0 && m.w3 &&& ~~~c == 0 && m.w4 &&& ~~~d == 0 &&
  m.w5 == 0 && m.w6 == 0 && m.w7 == 0

/-- Bits of words 1 and 2 that a context message uses. -/
def HostMsg.ctxShaped (m : HostMsg) : Bool :=
  m.shaped 0xFFFFFFFFF7FF#64
    (if m.action == 6 then 0xFF#64 else if m.action == 4 || m.action == 5 then 0xFFFFFFFFFFFC0#64 else 0#64)

/-- Words 1 to 3 of message 0x04. -/
def HostMsg.areaShaped (m : HostMsg) : Bool :=
  m.shaped 1#64 0xFFFFFFFFFFFC0#64 0x1FFFFFF#64 && decide (m.w3.toNat ≤ 2 ^ 24)

end Sys2Proof

namespace Sys2Proof.Machine

/-! ## Messages (R370, R371, R373, R403) -/

/-- Types that act on the whole device (R371). -/
def wholeDevice (ty : Nat) : Bool := ty == 3 || ty == 5 || ty == 9 || ty == 10 || ty == 11 || ty == 12

/-- Types that R371 lists. -/
def listedType (ty : Nat) : Bool := 1 ≤ ty && ty ≤ 12

/-- The port may send this message (R371, R373). -/
def State.portMay (s : State) (port : Fin 4) (m : HostMsg) : Bool :=
  if wholeDevice m.type then port == s.platform.pport else (vget s.msgMasks port.val 0).getLsbD m.tnt

/-- The event of a completed message (R378); a refused replay's is a replay-complete event (R370). -/
def State.msgDone (s : State) (m : HostMsg) (status : Nat) : State :=
  if m.type == 1 then
    s.raiseEvent 0 { kind := 2, status := status, die := 0, tnt := m.tnt, tag := m.tag, a := m.w1.toNat, b := 0xFF }
  else
    s.raiseEvent 0 { kind := 1, status := status, die := 0, tnt := if wholeDevice m.type then 0 else m.tnt, tag := m.tag, a := m.type }

/-- Firmware failed: the device answers only reads of the platform page (R407). -/
def State.dead (s : State) : Bool := bitAt s.platform.brs.toNat 63

/-- Messages are heard (R403, R407). -/
def State.hears (s : State) : Bool := !s.dead && bitAt s.platform.brs.toNat 1

/-- The group of a core is ready (R402, R403). -/
def State.groupReady (s : State) (core : Nat) : Bool := bitAt s.platform.brs.toNat (16 + core / 16)

/-- A message that is over at once: its status and state. -/
abbrev Effect := Except Fault (Nat × State)

/-- A message arrives: it is dropped, refused, or has its effect and completes (R370, R371, R373, R403). -/
def State.message (s : State) (port : Fin 4) (m : HostMsg) (shaped : Bool) (effect : State → Effect) : Except Fault State :=
  if !s.hears then .ok s
  else if !shaped || !s.portMay port m then .ok (s.msgDone m 2)
  else (effect s).map fun r => r.2.msgDone m r.1

/-- The outcome of an event that may stop. -/
def outcome (r : Except Fault State) : Host.Outcome State Fault Refusal :=
  match r with
  | .ok s => .next s
  | .error f => .fault f

/-- A message of type `ty` that is over at once. -/
def State.plainMessage (s : State) (port : Fin 4) (m : HostMsg) (ty : Nat) (shaped : Bool) (effect : State → Nat × State) :
    Host.Outcome State Fault Refusal :=
  if m.type != ty then .next s else outcome (s.message port m shaped fun s => .ok (effect s))

/-! ## Tenants, phaser areas, virtual time, ports, routes (R286, R324, R371-R373, R386, R389) -/

/-- 0x02 (R134, R286). -/
def setsTenant (m : HostMsg) (s : State) : Nat × State :=
  (0, s.modTenant m.tnt fun t => { t with troot := m.w1, arenaBase := m.w2.toNat, arenaSize := m.w3.toNat })

/-- 0x04 (R324): resident records of the area go back to it first; a die whose SYN is not ready is busy (R403) (notes/assumptions/39.md). -/
def setsPhasers (m : HostMsg) (s : State) : Nat × State :=
  let die := fld m.w1.toNat 0 1
  if !s.synUp die then (1, s)
  else
    let mine := fun (r : Resident) => r.tenant == m.tnt && r.die == die
    let s := (s.phasers.filter mine).foldl State.phWriteBack s
    (0, ({ s with phasers := s.phasers.filter (!mine ·) } : State).modTenant m.tnt fun t =>
      { t with phBase := vset t.phBase die m.w2.toNat, phCount := vset t.phCount die m.w3.toNat })

/-- A phaser-area message waits while a home that a record leaves for is not ready (R403). -/
def State.areaWaits (s : State) (port : Fin 4) (m : HostMsg) : Bool :=
  let die := fld m.w1.toNat 0 1
  m.type == 4 && s.hears && m.areaShaped && s.portMay port m && s.synUp die &&
  !s.phasers.all fun r => !(r.tenant == m.tnt && r.die == die) || s.spanReady (s.phAddr r.tenant r.die r.index) 64

/-- 0x08 (R386). -/
def setsTime (m : HostMsg) (s : State) : Nat × State :=
  (0, s.modTenant m.tnt fun t => { t with
    vbase := m.w1, vscale := m.w2.setWidth 32, voff := m.w3, vfloor := if m.w4.toNat < t.hi.toNat then t.hi else m.w4 })

/-- 0x09 (R379). -/
def setsArea (m : HostMsg) (s : State) : Nat × State :=
  (0, s.modDie (fld m.w1.toNat 0 1) fun d => { d with
    evSet := true, evArea := m.w2.toNat, evCount := m.w3.toNat, evProd := m.w4.toNat, producer := 0, consumer := 0 })

/-- 0x0A (R379). -/
def setsConsumed (m : HostMsg) (s : State) : Nat × State :=
  (0, s.modDie (fld m.w1.toNat 0 1) fun d => { d with consumer := m.w2.toNat })

/-- 0x0B (R389); a mask with a link that is not trained is busy (R403). -/
def setsRoute (m : HostMsg) (s : State) : Nat × State :=
  if m.w2.toNat &&& fld (~~~s.platform.brs).toNat 32 12 != 0 then (1, s)
  else
    let d := m.w1.toNat
    (0, { s with routes := (d, m.w2.setWidth 12) :: s.routes.filter (·.1 != d) })

/-- 0x0C (R373). -/
def setsPort (m : HostMsg) (s : State) : Nat × State :=
  if m.w1.toNat == s.platform.pport.val then (2, s)
  else (0, { s with msgMasks := vset s.msgMasks m.w1.toNat (m.w2.setWidth 16) })

/-! ## Partitions (R380, R382) -/

/-- Tenants and assignments that a core message gives logical cores 0 to 3. -/
def lcoreIn (m : HostMsg) (h : Nat) : LCore := { tenant := fld m.w1.toNat (12 + 4 * h) 4, assigned := bitAt m.w1.toNat (28 + h) }

/-- No mode 0b11, and nothing for logical cores that the mode does not create (R371). -/
def coreOk (m : HostMsg) : Bool :=
  m.mode != 3 && (List.range 4).all fun h => decide (h < lcoreCount m.mode) || lcoreIn m h == {}

/-- No context of the core is in use and no engine operation is in progress (R382). -/
def State.idle (s : State) : Bool :=
  s.ctxs.toList.all (fun x => x.run == .free && x.tl.toList.all (·.out.isEmpty)) &&
  !s.tasks.any (fun t => t.st == .ready || (t.st == .waiting && t.wait.pinned))

/-- Images saved for these tenants: their scope entries that name the core are stale when they come back (R278). -/
def State.touchImages (s : State) (core : Nat) (tens : List Nat) : State :=
  { s with images := s.images.map fun i =>
      if tens.contains i.tenant then { i with touched := i.touched ||| BitVec.twoPow 256 core } else i }

/-- The partition's mode and logical cores as they will be once the zeroings under way are over. -/
def State.coming (s : State) : Nat × (Nat → LCore) :=
  (s.slow.filter (·.zeroing)).foldl (fun _ x => (x.msg.mode, lcoreIn x.msg)) (s.mode.toNat, fun h => vget s.lcores h {})

/-- Logical cores of the new partition whose tenant, columns or assignment change. -/
def State.changedLcores (s : State) (m : HostMsg) : List Nat :=
  (List.range (lcoreCount m.mode)).filter fun h => m.mode != s.coming.1 || lcoreIn m h != s.coming.2 h

/-- Zero the scratchpad banks of columns of a core (R382). -/
def State.zeroColumns (s : State) (core : Nat) (cols : List Nat) : State :=
  let hit := fun (k : Nat) => k / Config.spadBytes == core && cols.contains (k % Config.spadBytes / columnBytes)
  { s with
    spad := s.spad.filter fun c => !hit c.1
    spad0 := s.spad0.filter fun c => !hit c.1
    poisonS := s.poisonS.filter fun g => !hit (64 * g)
    poisonS0 := s.poisonS0.filter fun g => !hit (64 * g) }

/-- Columns of logical cores `hs` under mode `mode`. -/
def columnsOf (mode : Nat) (hs : List Nat) : List Nat := hs.flatMap fun h => (List.range (lcoreWidth mode)).map (· + h * lcoreWidth mode)

/-- 0x03 on the modelled core: it stops being open and is zeroed; on another, the assignment is noted and zeroed at once (notes/assumptions/38.md). -/
def State.startPartition (s : State) (m : HostMsg) : Nat × State × Bool :=
  if !s.groupReady m.core then (1, s, true)
  else if m.core != s.coreNum.toNat then
    let old := (s.otherCores.find? (·.core == m.core)).getD { core := m.core, mode := 0, tens := [none] }
    let ten := fun h => let l : LCore := lcoreIn m h; if l.assigned then some l.tenant else none
    let hs := (List.range (lcoreCount m.mode)).filter fun h => m.mode != old.mode || ten h != (old.tens.getD h none)
    let s := (s.zeroColumns m.core (columnsOf m.mode hs)).touchImages m.core
      (if hs.isEmpty then [] else old.tens.filterMap id ++ hs.filterMap ten)
    (0, { s with otherCores := { core := m.core, mode := m.mode, tens := (List.range (lcoreCount m.mode)).map ten } ::
      s.otherCores.filter (·.core != m.core) }, true)
  else if !s.idle then (1, s, true)
  else
    let hs := s.changedLcores m
    let owners := fun (l : LCore) => if l.assigned then some l.tenant else none
    let s := s.touchImages m.core (if hs.isEmpty then []
      else (s.lcores.toList ++ (List.range 4).map s.coming.2).filterMap owners ++ hs.filterMap fun h => owners (lcoreIn m h))
    let (d, s) := s.delay
    let due := (s.slow.filter (·.zeroing)).foldl (fun b x => max b x.due) (s.now + 1 + d % 2 ^ 17)
    let off := fun h => if m.mode != s.coming.1 || hs.contains h then ({ vget s.lcores h {} with assigned := false } : LCore)
      else vget s.lcores h {}
    (0, { s with lcores := vgen 4 off, slow := s.slow ++ [{ zeroing := true, due := due, msg := m, lcores := hs }] },
      false)

/-- The zeroing of logical cores `hs` for a core message is over (R382); one that a later message zeroes stays closed. -/
def State.finishPartition (s : State) (m : HostMsg) (hs : List Nat) : State :=
  let closed := fun (h : Nat) => s.slow.any fun x => x.zeroing && (x.msg.mode != m.mode || x.lcores.contains h)
  let lcore := fun (h : Nat) =>
    if !hs.contains h then vget s.lcores h {}
    else if closed h then { lcoreIn m h with assigned := false }
    else lcoreIn m h
  let cols := columnsOf m.mode hs
  let n := 8 / lcoreCount m.mode
  let s := s.zeroColumns s.coreNum.toNat cols
  let clean := fun (c : Nat) => if hs.contains (c / n) then
      let x := s.ctx c
      { x with scopes := vgen 16 (fun i => if 1 ≤ i && i ≤ 14 then { vget x.scopes i {} with val := false } else vget x.scopes i {})
               perf := Vector.replicate 8 0 }
    else s.ctx c
  ({ s with
    mode := BitVec.ofNat 2 m.mode, lcores := vgen 4 lcore, ctxs := vgen 8 clean
    strips := vgen 4 fun j => if cols.contains j then Strip.init else s.strip j } : State).msgDone m 0

/-! ## Contexts (R204-R211, R383) -/

/-- A message for a context: on another core its status is free (notes/assumptions/1.md). -/
def State.ctxMessage (s : State) (port : Fin 4) (m : HostMsg) (act : Nat) (f : State → Nat → Effect) :
    Host.Outcome State Fault Refusal :=
  if m.type != 5 || m.action != act then .next s
  else outcome (s.message port m m.ctxShaped fun s =>
    if !s.groupReady m.core then .ok (1, s)
    else if m.core != s.coreNum.toNat then (let (c, s) := s.choice; .ok (c % 3, s))
    else f s m.context)

/-- Action 1 (R208). -/
def State.sliceEnd (s : State) (c g : Nat) : Nat × State :=
  if (s.ctx c).task.isNone then (1, s)
  else (0, s.modCtx c fun x => { x with slice := some (s.now + if g == 0 then 4096 else g) })

/-- Action 2 (R203, R207). -/
def State.resumeTask (s : State) (c : Nat) : Nat × State :=
  match (s.ctx c).run with
  | .preempted f pat inner waiting => (0, s.resumePreempted c f pat inner waiting)
  | .held => (0, s.resumeHeld c)
  | _ => (1, s)

/-- Whether a context's task is pre-empted or held. -/
def Run.stoppedBySoftware : Run → Bool
  | .preempted _ _ _ _ => true
  | .held => true
  | _ => false

/-- Action 3 (R147, R383). -/
def State.endStopped (s : State) (c : Nat) : Effect :=
  if (s.ctx c).run.stoppedBySoftware then
    (s.endTask c 3 (some c)).map fun s => (0, s.modCtx c fun x => { x with replay := [], flight := [] })
  else .ok (1, s)

/-- The end of a stopped task waits while the home of its parent's header is not ready (R147, R403). -/
def State.endWaits (s : State) (port : Fin 4) (m : HostMsg) : Bool :=
  m.type == 5 && m.action == 3 && s.hears && m.ctxShaped && s.portMay port m && s.groupReady m.core &&
  m.core == s.coreNum.toNat && (s.ctx m.context).run.stoppedBySoftware &&
  (s.boundTask m.context).any fun t => !s.readsReady t.tenant t.endSpans

/-- Action 4 (R209): the eviction is under way; none where the context cannot be evicted. -/
def State.startEvict (s : State) (c : Nat) (m : HostMsg) : Except Fault (Option State) :=
  let a := m.w2.toNat
  let go := fun held f pat inner waiting =>
    if Config.hbmEnd < a + imageSize (((s.boundTask c).map (·.width)).getD 1) then Except.error Fault.noSuchAddress
    else .ok (some (s.modCtx c fun x => { x with run := .evicting a m held f pat inner waiting }))
  match (s.ctx c).run with
  | .preempted f pat inner waiting => go false f pat inner waiting
  | .held => go true s.now [] none false
  | _ => .ok none

/-- Action 5 (R209, R211). -/
def State.restoreCtx (s : State) (c a : Nat) : Nat × State :=
  if (s.ctx c).run != .free then (1, s)
  else match s.imageAt c a with
    | none => (2, s)
    | some i => (0, s.restoreImage c i)

/-- A restore that is to be taken waits while a home of an image that stands in the save area is not ready (R403). -/
def State.restoreWaits (s : State) (port : Fin 4) (m : HostMsg) : Bool :=
  m.type == 5 && m.action == 5 && s.hears && m.ctxShaped && s.portMay port m && s.groupReady m.core &&
  m.core == s.coreNum.toNat && (s.ctx m.context).run == .free && !s.spanReady m.w2.toNat (imageSize 1)

/-- Action 6 (R255). -/
def State.setCxid (s : State) (c : Nat) (v : BitVec 8) : Nat × State :=
  if (s.ctx c).run != .free then (1, s) else (0, s.modCtx c fun x => { x with cxid := v })

/-! ## Translations and page requests (R293, R297, R298, R300) -/

/-- An invalidation is over. -/
def State.finishInvalidation (s : State) (m : HostMsg) : State :=
  let all := bitAt m.w2.toNat 0
  ({ s with tcache := s.tcache.filter fun e => !(if all then e.tenant == m.tnt else e.hits m.tnt m.w1.toNat) } : State).msgDone m 0

/-- Whether a waiting request can have an entry now: it joins one, or one that it may take is free (R297). -/
def State.canPlace (s : State) (q : Nat × Nat × Nat × Bool × Bool) : Bool := ((({ s with pageOver := [] } : State).requestPage
  q.1 q.2.1 q.2.2.1 q.2.2.2.1 q.2.2.2.2).1).isSome

/-- A request placed late tells those who wait for its page the future (R297), an evicted context too (R300). -/
def State.nameFuture (s : State) (d tnt vp f : Nat) : State :=
  let mine := fun (die t va : Nat) => die == d && t == tnt && fld va 12 45 == vp
  let inner := fun (t : Nat) (w : Option FWait) => match w with
    | some (.page none va wr) => if mine s.dieNo t va then some (.page (some f) va wr) else w
    | _ => w
  let name := fun (c : Nat) =>
    let x := s.ctx c
    match x.run with
    | .pageWait at_ pat none va wr => if mine s.dieNo (s.tenantOf c) va then { x with run := .pageWait at_ pat (some f) va wr } else x
    | .preempted at_ pat i w => { x with run := .preempted at_ pat (inner (s.tenantOf c) i) w }
    | .evicting a m h at_ pat i w => { x with run := .evicting a m h at_ pat (inner (s.tenantOf c) i) w }
    | _ => x
  let saved := fun (i : SavedImage) => match i.saved.run with
    | .preempted at_ pat w wt => { i with saved := { i.saved with run := .preempted at_ pat (inner i.tenant w) wt } }
    | _ => i
  let piece := fun (p : ParkedPiece) => if p.fut.isNone && mine (s.cpDie p.node) p.tenant p.va then { p with fut := some f } else p
  let park := fun (t : Nat) (p : CkPark) => if p.fut.isNone && mine s.dieNo t p.va then { p with fut := some f } else p
  { s with
    ctxs := vgen 8 name
    images := s.images.map saved
    chans := vmap (fun k => { k with parked := k.parked.map piece }) s.chans
    ckp := s.ckp.map fun m => { m with parked := m.parked.map (park m.tenant) }
    syn := s.syn.map fun m => if m.parked && m.fut.isNone && mine s.dieNo m.tenant m.w0 then { m with fut := some f } else m }

/-- Waiting requests take freed entries, oldest first (R297). -/
def State.placeWaiting (s : State) : State :=
  s.pageOver.foldl (fun (s : State) q =>
    if s.canPlace q then
      let r := ({ s with pageOver := s.pageOver.erase q } : State).requestPage q.1 q.2.1 q.2.2.1 q.2.2.2.1 q.2.2.2.2
      match r.1 with
      | some f => r.2.nameFuture q.1 q.2.1 (fld q.2.2.1 12 45) f
      | none => s
    else s) s

/-- 0x07 (R298): refused where the entry is not outstanding, is another tenant's, or has another generation. -/
def pageDone (m : HostMsg) (s : State) : Nat × State :=
  let d := fld m.w1.toNat 8 1
  let i := fld m.w1.toNat 0 8
  let e := s.pageEntry d i
  if !e.busy || e.tnt != m.tnt || e.gen.toNat != m.w2.toNat then (2, s)
  else
    let s := if bitAt m.w3.toNat 0 then { s with denied := futureId d i e.gen :: s.denied } else s
    (0, (s.modDie d fun x => { x with pages := vset x.pages i { e with busy := false, cgen := e.gen } }).placeWaiting)

/-! ## Replays (R374-R376) -/

/-- The form of node `j` (R374, R375); what a launch's kernel decides is judged when it starts. -/
def nodeOk (j : Nat) (w : List Nat) : Bool :=
  let w0 := w.getD 0 0
  let kind := fld w0 0 4
  let dm := fld w0 8 2
  let va := fun (i al : Nat) => decide (w.getD i 0 < 2 ^ 57) && w.getD i 0 % al == 0
  fld w0 4 2 == 0 && fld w0 10 3 == 0 && w.getD 7 0 < 2 ^ j &&
  (kind == 1 ||
   (kind == 2 && fld w0 13 51 == 0 && (dm == 1 || dm == 2) && va 1 16 && decide (windowEnd ≤ w.getD 1 0) && va 2 1 && va 3 1 && (w.drop 4).take 3 == [0, 0, 0]) ||
   (kind == 3 && fld w0 13 51 == 0 && va 1 8 && decide (windowEnd ≤ w.getD 1 0) && (w.drop 3).take 4 == [0, 0, 0, 0]))

/-- The words of a 64-byte unit. -/
def words64 (x : Nat) : List Nat := (List.range 8).map fun i => fld x (64 * i) 64

/-- The header and nodes of a graph: parameter address and node words; none where the header breaks R374 or is not
readable (notes/assumptions/32.md). -/
def State.graphAt (s : State) (tenant g : Nat) : Option (Nat × List (List Nat)) :=
  match s.readVirtNat tenant g 64 with
  | none => none
  | some h =>
    let n := fld h 8 8
    let param := fld h 64 64
    if fld h 0 8 != 1 || n == 0 || 64 < n || fld h 16 48 != 0 || h >>> 128 != 0 || param % 512 != 0 || 2 ^ 57 ≤ param then none
    else (allSome (fun j => (s.readVirtNat tenant (g + 64 + 64 * j) 64).map words64) (List.range n)).map fun ws => (param, ws)

/-- What the reading of a graph reads: its header, then the nodes that a readable header names. -/
def State.graphReads (s : State) (tenant g : Nat) : Spans :=
  (g, 64) :: match s.readVirtNat tenant g 64 with
    | some h => [(g + 64, 64 * min 64 (fld h 8 8))]
    | none => []

/-- A replay message that is in order and heard. -/
def State.replayHeard (s : State) (port : Fin 4) (m : HostMsg) : Bool :=
  m.type == 1 && s.hears && m.shaped 0x1FFFFFFFFFFFFC0#64 && s.portMay port m

/-- The units that a replay message's graph is read from are ready (R403). -/
def State.graphReady (s : State) (m : HostMsg) : Bool := s.readsReady m.tnt (s.graphReads m.tnt m.w1.toNat)

/-- 0x01 takes effect: the graph is read now, and runs once earlier replays of it are over (R376). -/
def State.acceptReplay (s : State) (m : HostMsg) : State :=
  let g := m.w1.toNat
  match s.graphAt m.tnt g with
  | none => (s.logReads m.tnt (s.graphReads m.tnt g)).msgDone m 5
  | some (param, ws) =>
    let node := fun (p : List Nat × Nat) =>
      (if nodeOk p.2 p.1 then { words := p.1, st := .waiting, outcome := 0 } else { words := p.1, st := .skipped, outcome := 5 } : Node)
    let first := !s.replays.any fun r => r.tenant == m.tnt && r.gaddr == g
    let r : Replay :=
      { id := s.nextId, gaddr := g, tenant := m.tnt, tag := m.tag, param := param, started := first, nodes := ws.zipIdx.map node }
    { s with nextId := s.nextId + 1, replays := s.replays ++ [r] }

/-! ## Event records (R377, R379) -/

/-- The 32 bytes of a record. -/
def Event.bytes (e : Event) : List Byte :=
  leBytes 32 (e.kind + e.status * 2 ^ 8 + e.die * 2 ^ 32 + e.tnt * 2 ^ 33 + e.ctx * 2 ^ 37 + e.core * 2 ^ 40 + e.tag * 2 ^ 96 +
    e.a % 2 ^ 64 * 2 ^ 128 + e.b % 2 ^ 64 * 2 ^ 192)

/-- There is room for a waiting record of die `d`. -/
def State.appendDue (s : State) (d : Nat) : Bool :=
  let x := s.die d
  x.evSet && !x.waiting.isEmpty && decide (x.producer < x.consumer + x.evCount)

/-- A record, then the producer word. -/
def State.appendEvent (s : State) (d : Nat) : State :=
  let x := s.die d
  match x.waiting with
  | [] => s
  | e :: rest =>
    let m := memWrite s.hostMem (x.evArea + 32 * (x.producer % x.evCount)) e.bytes
    let m := memWrite m x.evProd (leBytes 8 (x.producer + 1))
    ({ s with hostMem := m } : State).modDie d fun x => { x with waiting := rest, producer := x.producer + 1 }

/-! ## Memory errors (R301-R304) -/

/-- A granule is poisoned. -/
def addPoison (ps : List Nat) (a : Nat) : List Nat := if ps.contains (a / 64) then ps else a / 64 :: ps

/-- A record of the device itself, without a context. -/
def State.logPlain (s : State) (die pa kind loc : Nat) : State :=
  s.logError die { pa := pa, rpt := 0, core := 0, tnt := 0, ctx := 0, tv := false, kind := kind, loc := loc }

/-- The die that logs an error at a global address: that of its home slice. -/
def homeDie (pa : Nat) : Nat := homeSlice pa / 32

/-- The granule or line that an error record names (R304); in a scratchpad by its place in the core. -/
def errorPlace (loc pa : Nat) : Nat :=
  if loc == 1 || loc == 2 || loc == 4 then pa / 128 * 128
  else if loc == 3 then pa % Config.spadBytes / 64 * 64
  else pa / 64 * 64

/-- The die that logs an error met at a place. -/
def State.errorDie (s : State) (loc pa : Nat) : Nat := if loc ≤ 1 then homeDie pa else s.dieNo

/-- The code of a resident kernel with the instruction-cache line at `line` read again from its home (R301). -/
def State.refetched (s : State) (k : Kernel) (line : Nat) : Kernel :=
  let piece := fun (j : Nat) =>
    let old := (k.code.drop (64 * j)).take 64
    match (s.translate k.tenant (k.codeAt + 64 * j)).access (k.codeAt + 64 * j) true false with
    | .ok p => if p.space == 0 && p.pa / 128 * 128 == line then s.readGlobal p.pa old.length else old
    | _ => old
  { k with code := (List.range ((k.code.length + 63) / 64)).flatMap piece }

/-- What a memory error does (R301-R304); in the state of a context: notes/assumptions/41.md. -/
def State.memoryError (s : State) : MemError → State
  | .corrected pa loc => s.logPlain (s.errorDie loc.val pa) (errorPlace loc.val pa) 0 loc.val
  | .cleanL1 pa cxid =>
    ({ s with l1 := s.l1.filter fun l => !(l.cxid == cxid.toNat && decide (l.line ≤ pa) && decide (pa < l.line + 128)) } : State).logPlain
      s.dieNo (errorPlace 2 pa) 1 2
  | .cleanOther pa loc =>
    ({ s with icache := if loc == 4 then s.icache.map (s.refetched · (pa / 128 * 128)) else s.icache } : State).logPlain (s.errorDie loc.val pa) (errorPlace loc.val pa) 1 loc.val
  | .global pa l2 => ({ s with poisonG := addPoison s.poisonG pa } : State).logPlain (homeDie pa) (pa / 64 * 64) 2 l2.toNat
  | .scratch off =>
    let k := spadKey s.coreNum.toNat (off % Config.spadBytes)
    ({ s with poisonS := addPoison s.poisonS k } : State).logPlain s.dieNo (off % Config.spadBytes / 64 * 64) 2 3
  | .phaser t d i =>
    let a := s.phAddr t.val d.val i
    ({ s with poisonG := addPoison s.poisonG a } : State).logPlain d.val a 2 5
  | .context c =>
    let x := s.ctx c.val
    let s := if x.task.isNone then s else s.modCtx c.val fun x => { x with pendL := x.pendL ++
      [({ cause := cPoison, cls := 0, slot := 0, pc := x.pc, info := 0, hold := true } : TrapRec)] }
    s.logError s.dieNo { pa := 0, rpt := 0, core := s.coreNum.toNat, tnt := s.tenantOf c.val, ctx := c.val, tv := true, kind := 4, loc := 6 }

/-! ## Host accesses (R368, R403) -/

/-- Global memory, or the platform page. -/
def platformPage : Nat := 0xFFFFFFFFFF000

/-- An access that must wait stands before everything the host sends after it (R369, R403). -/
def State.deferInput (s : State) (i : Instr) : State := { s with inputs := (s.now + 1, i) :: s.inputs }

/-- Bytes that the host reads from global memory; those of a poisoned granule are free (R302). -/
def State.hostBytes (s : State) (a n : Nat) : List Byte × State :=
  if isPoisoned s.poisonG a n then (freeBytes s.free n, { s with free := s.free + (n + 255) / 256 }) else (s.readGlobal a n, s)

/-! ## Peer packets (R388, R389) -/

/-- The bytes a packet's operation accesses, and whether it writes them. -/
def peerAccess (p : PeerPacket) : Nat × Bool :=
  match p.op with
  | .read n => (n, false)
  | .write data => (data.length, true)
  | .amo _ w32 _ _ => (if w32 then 4 else 8, true)
  | .red _ w32 _ => (if w32 then 4 else 8, true)

/-- The places of a packet's bytes. -/
def State.peerRuns (s : State) (p : PeerPacket) : Except XFail (List (Place × Nat)) :=
  s.runs p.tenant.val (peerAccess p).2 ((peerAccess p).1 / 4096 + 2) p.va (peerAccess p).1

/-- The units that a packet needs are ready (R403). -/
def State.peerReady (s : State) (p : PeerPacket) : Bool :=
  match s.peerRuns p with
  | .error (.unready _) => false
  | .error _ => true
  | .ok rs => s.runsUp rs

/-- A walk for a peer that meets a bad or poisoned entry is logged; it names no context here (R290). -/
def State.peerWalk (s : State) (p : PeerPacket) (x : XFail) : State :=
  match x with
  | .denied va _ => s.logWalk (s.translate p.tenant.val va) none
  | _ => s

/-- A read-modify-write for a peer. -/
def State.peerAtomic (s : State) (p : PeerPacket) (n : Nat) (f : Nat → Nat × Bool) : Nat × List Byte × State :=
  match (s.translate p.tenant.val p.va).access p.va true true with
  | .ok q =>
    if q.space != 0 || p.va % n != 0 || s.headerHit p.tenant.val p.va n then (1, [], s)
    else if isPoisoned s.poisonG q.pa n then (2, [], s)
    else
      let old := memNat s.mem q.pa n
      let r := f old
      (0, leBytes n old, if r.2 then s.putPart none false (.global, q.pa, leBytes n r.1) else s)
  | .poisoned => (2, [], s.peerWalk p (.denied p.va true))
  | _ => (1, [], s.peerWalk p (.denied p.va false))

/-- The operation that a peer names performs here: a status (0 done, 1 denied, 2 poisoned) and the bytes it returns (notes/assumptions/35.md). -/
def State.peerPerform (s : State) (p : PeerPacket) : Nat × List Byte × State :=
  let inGlobal := fun (rs : List (Place × Nat)) => rs.all (·.1.space == 0)
  match p.op with
  | .read _ => match s.peerRuns p with
    | .ok rs => if !inGlobal rs then (1, [], s)
      else if rs.any fun r => isPoisoned s.poisonG r.1.pa r.2 then (2, [], s)
      else (0, rs.flatMap fun r => s.readGlobal r.1.pa r.2, s)
    | .error x => (1, [], s.peerWalk p x)
  | .write data => match s.peerRuns p with
    | .ok rs => if !inGlobal rs then (1, [], s)
      else (0, [], (cutRuns rs data).foldl (fun s x => s.putPart none false x) s)
    | .error x => (1, [], s.peerWalk p x)
  | .amo op w32 a b =>
    let n := if w32 then 4 else 8
    s.peerAtomic p n fun old =>
      let r := amoNew op.val (8 * n) old (a.toNat % 2 ^ (8 * n)) (b.toNat % 2 ^ (8 * n))
      (r.1, op.val != 0 && !r.2)
  | .red op w32 a =>
    let n := if w32 then 4 else 8
    s.peerAtomic p n fun old => (redNew op.val (8 * n) old (a.toNat % 2 ^ (8 * n)), true)

/-- A reply leaves, or waits until the device has its number (R388, R404). -/
def State.reply (s : State) (r : List Byte) : State :=
  if s.platform.dlock then { s with peerReply := [r] } else { s with peerHeld := s.peerHeld ++ [r] }

end Sys2Proof.Machine
end

