-- ==== Sys2Proof/Machine/Sha384.lean ====
section
/-! DEFINITION. The hash SHA-384 that R407 and R409 name, as FIPS 180-4 defines it (notes/assumptions/19.md). -/

namespace Sys2Proof.Machine

/-- The primes up to 409, which are the first 80: a number there that is not prime has a divisor below 21. -/
def shaPrimes : List Nat :=
  (List.range 410).filter fun n => decide (1 < n) && (List.range 21).all fun d => decide (d < 2) || d == n || n % d != 0

/-- The largest number `r + i` with `i` below `2 ^ k` whose `e`-th power is at most `n`, where that of `r` is: bit by bit. -/
def rootFrom (e n : Nat) : Nat → Nat → Nat
  | 0, r => r
  | k + 1, r => rootFrom e n k (if (r + 2 ^ k) ^ e ≤ n then r + 2 ^ k else r)

/-- The first 64 bits of the fraction of the `e`-th root of `p`, a root below 8. -/
def rootFraction (e p : Nat) : Word := BitVec.ofNat 64 (rootFrom e (p * 2 ^ (64 * e)) 67 0)

/-- The 80 round constants: fractions of the cube roots of the first 80 primes. -/
def shaKeys : List Word := shaPrimes.map (rootFraction 3)

/-- The eight working words of the hash. -/
structure ShaRegs where
  a : Word
  b : Word
  c : Word
  d : Word
  e : Word
  f : Word
  g : Word
  h : Word
  deriving DecidableEq, Repr

/-- The initial hash value: fractions of the square roots of the ninth to the sixteenth prime. -/
def ShaRegs.start : ShaRegs :=
  let w := fun i => rootFraction 2 (shaPrimes.getD (8 + i) 0)
  { a := w 0, b := w 1, c := w 2, d := w 3, e := w 4, f := w 5, g := w 6, h := w 7 }

def ShaRegs.add (x y : ShaRegs) : ShaRegs :=
  { a := x.a + y.a, b := x.b + y.b, c := x.c + y.c, d := x.d + y.d, e := x.e + y.e, f := x.f + y.f, g := x.g + y.g, h := x.h + y.h }

/-- One round with constant `k` and message word `w`. -/
def ShaRegs.round (x : ShaRegs) (k w : Word) : ShaRegs :=
  let t1 := x.h + (x.e.rotateRight 14 ^^^ x.e.rotateRight 18 ^^^ x.e.rotateRight 41) + ((x.e &&& x.f) ^^^ (~~~x.e &&& x.g)) + k + w
  let t2 := (x.a.rotateRight 28 ^^^ x.a.rotateRight 34 ^^^ x.a.rotateRight 39) + ((x.a &&& x.b) ^^^ (x.a &&& x.c) ^^^ (x.b &&& x.c))
  { a := t1 + t2, b := x.a, c := x.b, d := x.c, e := x.d + t1, f := x.e, g := x.f, h := x.g }

/-- The message word that follows the sixteen of `ws`. -/
def shaNext (ws : List Word) : Word :=
  let x := ws.getD 1 0
  let y := ws.getD 14 0
  (y.rotateRight 19 ^^^ y.rotateRight 61 ^^^ (y >>> 6)) + ws.getD 9 0 +
    (x.rotateRight 1 ^^^ x.rotateRight 8 ^^^ (x >>> 7)) + ws.getD 0 0

/-- The rounds of one block, each with the next sixteen message words. -/
def shaRounds : List Word → List Word → ShaRegs → ShaRegs
  | [], _, x => x
  | k :: ks, ws, x => shaRounds ks (ws.drop 1 ++ [shaNext ws]) (x.round k (ws.getD 0 0))

/-- The word that eight bytes make, the highest first. -/
def shaWord (bs : List Byte) : Word := BitVec.ofNat 64 (bs.foldl (fun n b => n * 256 + b.toNat) 0)

/-- The sixteen words of the block that begins `bs`. -/
def shaWords (bs : List Byte) : List Word := (List.range 16).map fun i => shaWord ((bs.drop (8 * i)).take 8)

/-- The message with its padding: a one bit, zeros up to 16 bytes short of a block, and the length in bits. -/
def shaPadded (m : List Byte) : List Byte :=
  m ++ 0x80 :: List.replicate ((239 - m.length % 128) % 128) 0 ++
    (List.range 16).map fun i => BitVec.ofNat 8 (8 * m.length / 256 ^ (15 - i))

/-- `n` blocks of `bs` taken into the hash. -/
def shaBlocks : Nat → List Byte → ShaRegs → ShaRegs
  | 0, _, x => x
  | n + 1, bs, x => shaBlocks n (bs.drop 128) (x.add (shaRounds shaKeys (shaWords bs) x))

/-- SHA-384 of a byte string, its first byte the highest (R407, R409). -/
def sha384 (m : List Byte) : BitVec 384 :=
  let bs := shaPadded m
  let x := shaBlocks (bs.length / 128) bs ShaRegs.start
  x.a ++ x.b ++ x.c ++ x.d ++ x.e ++ x.f

end Sys2Proof.Machine
end

