-- ==== Sys2Proof/Machine/Platform.lean ====
section
/-! DEFINITION. The platform page: readiness, platform control, power, firmware, identity, attestation
(spec/23_platform.md R402-R409); links and device reset (spec/21_host.md R372, R389). -/

namespace Sys2Proof.Machine

def State.modPlatform (s : State) (f : Platform → Platform) : State := { s with platform := f s.platform }

/-! ## What the page reads as -/

/-- pctl (R404). -/
def Platform.pctl (p : Platform) : Nat := p.devno % 2 ^ 12 + p.plim % 2 ^ 12 * 2 ^ 16 + p.dlock.toNat * 2 ^ 31 + p.pport.val * 2 ^ 32

/-- pst (R405). -/
def State.pst (s : State) : Nat :=
  (s.die 0).slow.toNat + (s.die 1).slow.toNat * 2 + s.platform.sags * 2 ^ 2 + s.platform.thr * 2 ^ 20 + s.platform.pw * 2 ^ 33

/-- actl (R409). -/
def Platform.actl (p : Platform) : Nat := p.req.toNat + p.busy.toNat * 2 + p.done.toNat * 4

/-- The identity certificate: at most 2048 bytes of an unknown value (R408). -/
def identityCert : List Byte := Config.identityCert.take 2048

/-- A byte of the page; bytes that no register covers read as 0. -/
def State.platformByte (s : State) (off : Nat) : Byte :=
  let p := s.platform
  let of_ := fun (bs : List Byte) (base : Nat) => bs.getD (off - base) 0
  if off < 0x08 then of_ (leBytes 8 p.brs.toNat) 0
  else if off < 0x10 then of_ (leBytes 8 p.pctl) 0x08
  else if off < 0x18 then of_ (leBytes 8 s.pst) 0x10
  else if off < 0x20 then 0
  else if off < 0x28 then of_ (leBytes 8 p.actl) 0x20
  else if off < 0x40 then 0
  else if off < 0x70 then of_ (leBytes 48 p.nonce.toNat) 0x40
  else if off < 0x80 then 0
  else if off < 0x1C0 then of_ p.report 0x80
  else if off < 0x1C8 then of_ (leBytes 8 identityCert.length) 0x1C0
  else if off < 0x800 then 0
  else of_ identityCert 0x800

/-! ## Attestation (R409) -/

/-- Raw counts since device reset (R384). -/
def State.rawCount (s : State) : Nat := s.rawAcc / 17

/-- A write of req captures the nonce, where no report is in progress and the identity key is ready. The report is due within
20 ms, which are 20 000 000 raw counts (notes/assumptions/40.md). -/
def State.attest (s : State) : State :=
  let p := s.platform
  if p.busy || !bitAt p.brs.toNat 44 then s
  else
    let (d, s) := s.delay
    s.modPlatform fun p => { p with
      req := true, busy := true, captNonce := p.nonce, captBrs := p.brs, attDue := s.rawCount + 1 + d % 19999990 }

/-- The `n` bytes of `x`, highest first. -/
def beBytes (n x : Nat) : List Byte := (leBytes n x).reverse

/-- Bytes 0x080-0x15F of a report: what is signed. -/
def Platform.signedBytes (p : Platform) : List Byte :=
  leBytes 8 (1 + p.devno % 2 ^ 12 * 2 ^ 8 + (p.reports + 1) % 2 ^ 32 * 2 ^ 32) ++ leBytes 8 0 ++ beBytes 48 p.measurement.toNat ++
  leBytes 48 p.captNonce.toNat ++ leBytes 8 p.captBrs.toNat ++ leBytes 8 0 ++ beBytes 96 Config.identityPublic.toNat

/-- Firmware writes the report, sets done and clears busy; the request is over (notes/assumptions/40.md). -/
def Platform.reported (p : Platform) : Platform :=
  { p with
    report := p.signedBytes ++ beBytes 96 (Config.identitySign (sha384 p.signedBytes)).toNat
    reports := p.reports + 1, req := false, busy := false, done := true }

/-! ## Writes (R404, R409) -/

/-- A privileged write of pctl: a power limit in range, and once the device number. -/
def Platform.writePctl (p : Platform) (v : Nat) : Platform :=
  let w := fld v 16 12
  { p with
    plim := if 600 ≤ w ∧ w ≤ 1500 then w else p.plim
    devno := if p.dlock then p.devno else fld v 0 12
    dlock := true }

/-- A byte written to the page at `off`, pctl apart: actl and the nonce take it, everything else ignores it. -/
def State.writePlatformByte (s : State) (off : Nat) (b : Byte) : State :=
  if off == 0x20 then
    let s := if b.getLsbD 2 then s.modPlatform fun p => { p with done := false } else s
    if b.getLsbD 0 then s.attest else s
  else if 0x40 ≤ off ∧ off < 0x70 ∧ s.platform.busy = false then
    s.modPlatform fun p =>
      let k := 8 * (off - 0x40)
      { p with nonce := (p.nonce &&& ~~~(255#384 <<< k)) ||| (b.setWidth 384 <<< k) }
  else s

/-- Bytes that a host write carries to the page, in rising order. -/
def State.platformBytes (s : State) (off : Nat) (bs : List Byte) : State :=
  bs.zipIdx.foldl (fun s x => s.writePlatformByte (off + x.2) x.1) s

/-- A doubleword written to the page at `off`. -/
def State.writePlatform (s : State) (off : Nat) (v : Word) : State := s.platformBytes off (leBytes 8 v.toNat)

/-! ## Readiness (R402, R407, R408) -/

/-- Bits that a function may set once firmware is verified: not fw, idk or fwfail, and no reserved one. -/
def readyBit (b : Nat) : Bool := (1 ≤ b && b ≤ 11) || (14 ≤ b && b ≤ 43)

def State.setBrs (s : State) (b : Nat) : State := s.modPlatform fun p => { p with brs := p.brs ||| BitVec.ofNat 64 (2 ^ b) }

/-- A function becomes ready; a trained link is up. -/
def State.becomeReady (s : State) (b : Nat) : State :=
  if !bitAt s.platform.brs.toNat 0 || !readyBit b || bitAt s.platform.brs.toNat b then s
  else
    let s := s.setBrs b
    if 32 ≤ b then { s with links := vset s.links (b - 32) { up := true, last := s.now } } else s

/-- Boot ROM judges the firmware image, once (R407). -/
def State.verifyFirmware (s : State) (image : List Byte) : State :=
  if bitAt s.platform.brs.toNat 0 || s.dead then s
  else if Config.firmwareSigned image && decide (Config.fusedMinVersion ≤ Config.firmwareVersion image) then
    (s.setBrs 0).modPlatform fun p => { p with measurement := sha384 image }
  else s.setBrs 63

/-! ## Links (R389) -/

/-- No flit has arrived on the link for 2^20 cycles. -/
def State.linkLost (s : State) (l : Nat) : Bool := let k := vget s.links l {}; k.up && decide (k.last + 2 ^ 20 ≤ s.now)

/-- A link goes down; packets that need it go by another link of their mask. -/
def State.dropLink (s : State) (l : Nat) : State :=
  ({ s with links := vset s.links l { vget s.links l {} with up := false } } : State).raiseEvent (l / 6)
    { kind := 6, status := 0, die := l / 6, a := l, b := 0 }

/-! ## Device reset (R372) -/

/-- The device after a reset: what stands outside it stays, and so do the bytes of its memories
(notes/assumptions/37.md). -/
def State.afterReset (s : State) : State :=
  { State.reset with
    now := s.now, coreNum := s.coreNum, mem := s.mem, phNreg := s.phNreg, spad := s.spad, spad0 := s.spad, poisonG := s.poisonG, poisonS := s.poisonS
    poisonS0 := s.poisonS
    hostMem := s.hostMem, peerMem := s.peerMem, poisonP := s.poisonP, inputs := s.inputs, free := s.free
    nextId := s.nextId, storeSeq := s.storeSeq, resultSeq := s.resultSeq
    msgMasks := (Vector.replicate 4 0).set s.platform.pport.val 0xFFFF
    platform := { pport := s.platform.pport } }

/-! ## The events -/

/-- PCTL_WRITE (R404): the first one fixes the device number, and the replies that waited for it leave. -/
def execPctlWrite (port : Fin 4) (v : Word) (s : State) : Host.Outcome State Fault Refusal :=
  .next (if !s.dead && port == s.platform.pport
    then { s.modPlatform fun p => p.writePctl v.toNat with
      peerReply := if s.peerHeld.isEmpty then s.peerReply else s.peerHeld
      peerHeld := [] }
    else s)

/-- PLATFORM_REGISTER_WRITE (R409). -/
def execPlatformRegisterWrite (off : Nat) (v : Word) (s : State) : Host.Outcome State Fault Refusal :=
  .next (if s.dead then s else s.writePlatform off v)

/-- SUPPLY_SAG (R405). -/
def execSupplySag (d : Fin 2) (s : State) : Host.Outcome State Fault Refusal :=
  .next ((s.modDie d.val fun x => { x with slow := true, sagAt := s.rawCount }).modPlatform fun p => { p with sags := min (2 ^ 18 - 1) (p.sags + 1) })

/-- CLOCK_RESTORE (R405): no sooner than 1024 raw counts after the last sag. -/
def execClockRestore (d : Fin 2) (s : State) : Host.Outcome State Fault Refusal :=
  .next (if (s.die d.val).sagAt + 1024 ≤ s.rawCount then s.modDie d.val fun x => { x with slow := false } else s)

/-- An interval of 1000 raw counts has ended (R406). -/
def State.powerDue (s : State) : Bool := decide (s.platform.pwNext ≤ s.rawCount)

/-- A power reading that no input gives is free (notes/assumptions/16.md). -/
def State.powerReading (s : State) : BitVec 16 := BitVec.ofNat 16 s.choice.1

/-- POWER_INTERVAL (R406): a reading counts where an interval ends. -/
def execPowerInterval (pw : BitVec 16) (s : State) : Host.Outcome State Fault Refusal :=
  .next (if s.powerDue then s.choice.2.modPlatform fun p => { p with
      pw := pw.toNat, thr := if p.plim < pw.toNat then min 4096 (p.thr + 64) else p.thr - 64, pwNext := p.pwNext + 1000 }
    else s)

/-- FIRMWARE_VERIFY (R407). -/
def execFirmwareVerify (image : List Byte) (s : State) : Host.Outcome State Fault Refusal := .next (s.verifyFirmware image)

/-- FUNCTION_READY (R402). -/
def execFunctionReady (b : Fin 64) (s : State) : Host.Outcome State Fault Refusal := .next (s.becomeReady b.val)

/-- IDENTITY_KEY_READY (R408). -/
def execIdentityKeyReady (s : State) : Host.Outcome State Fault Refusal :=
  .next (if bitAt s.platform.brs.toNat 0 then s.setBrs 44 else s)

/-- ATTESTATION_REQUEST (R409) (notes/assumptions/40.md). -/
def execAttestationRequest (s : State) : Host.Outcome State Fault Refusal := .next (if s.dead then s else s.attest)

/-- A report in progress that firmware may complete now. -/
def State.reportDue (s : State) : Bool := s.platform.busy && decide (s.platform.attDue ≤ s.rawCount)

/-- ATTESTATION_COMPLETE (R409). -/
def execAttestationComplete (s : State) : Host.Outcome State Fault Refusal :=
  .next (if s.reportDue then s.modPlatform Platform.reported else s)

/-- DEVICE_RESET (R372). -/
def execDeviceReset (s : State) : Host.Outcome State Fault Refusal := .next s.afterReset

end Sys2Proof.Machine
end

