-- ==== Sys2Proof/Machine/HostEvents.lean ====
section
/-! DEFINITION. The events of the host link and the peer fabric (spec/21_host.md R368-R389; spec/07_traps.md R204-R211;
spec/14_translation.md R293, R298, R301). -/

namespace Sys2Proof.Machine

/-! ## Messages -/

/-- REPLAY_MESSAGE (R376). -/
def execReplayMessage (port : Fin 4) (m : HostMsg) (s : State) : Host.Outcome State Fault Refusal :=
  if m.type != 1 || !s.hears then .next s
  else if !m.shaped 0x1FFFFFFFFFFFFC0#64 || !s.portMay port m then .next (s.msgDone m 2)
  else if !s.graphReady m then .next (s.deferInput (.replayMessage port m))
  else .next (s.acceptReplay m)

/-- TENANT_MESSAGE (R371). -/
def execTenantMessage (port : Fin 4) (m : HostMsg) (s : State) : Host.Outcome State Fault Refusal :=
  s.plainMessage port m 2 (m.shaped 0xFFFFFFFFFF001#64 0x1FFFFFFFFFFF000#64 0xFFFFFFFFFFFFFFC0#64) (setsTenant m)

/-- CORE_MESSAGE (R382). -/
def execCoreMessage (port : Fin 4) (m : HostMsg) (s : State) : Host.Outcome State Fault Refusal :=
  if m.type != 3 || !s.hears then .next s
  else if !m.shaped 0xFFFFF3FF#64 || !coreOk m || !s.portMay port m then .next (s.msgDone m 2)
  else
    let r := s.startPartition m
    .next (if r.2.2 then r.2.1.msgDone m r.1 else r.2.1)

/-- PHASER_AREA_MESSAGE (R324). -/
def execPhaserAreaMessage (port : Fin 4) (m : HostMsg) (s : State) : Host.Outcome State Fault Refusal :=
  if s.areaWaits port m then .next (s.deferInput (.phaserAreaMessage port m))
  else s.plainMessage port m 4 m.areaShaped (setsPhasers m)

/-- CONTEXT_PREEMPT (R204). -/
def execContextPreempt (port : Fin 4) (m : HostMsg) (s : State) : Host.Outcome State Fault Refusal :=
  s.ctxMessage port m 0 fun s c => .ok (0, s.requestPreempt c)

/-- CONTEXT_SLICE_END (R208). -/
def execContextSliceEnd (port : Fin 4) (m : HostMsg) (s : State) : Host.Outcome State Fault Refusal :=
  s.ctxMessage port m 1 fun s c => .ok (s.sliceEnd c (fld m.w1.toNat 16 32))

/-- CONTEXT_RESUME (R203, R207). -/
def execContextResume (port : Fin 4) (m : HostMsg) (s : State) : Host.Outcome State Fault Refusal :=
  s.ctxMessage port m 2 fun s c => .ok (s.resumeTask c)

/-- CONTEXT_END (R383). -/
def execContextEnd (port : Fin 4) (m : HostMsg) (s : State) : Host.Outcome State Fault Refusal :=
  if s.endWaits port m then .next (s.deferInput (.contextEnd port m))
  else s.ctxMessage port m 3 State.endStopped

/-- CONTEXT_EVICT (R209): the event comes when the image has been saved. -/
def execContextEvict (port : Fin 4) (m : HostMsg) (s : State) : Host.Outcome State Fault Refusal :=
  if m.type != 5 || m.action != 4 || !s.hears then .next s
  else if !m.ctxShaped || !s.portMay port m then .next (s.msgDone m 2)
  else if !s.groupReady m.core then .next (s.msgDone m 1)
  else if m.core != s.coreNum.toNat then (let (c, s) := s.choice; .next (s.msgDone m (c % 3)))
  else match s.startEvict m.context m with
    | .error f => .fault f
    | .ok none => .next (s.msgDone m 1)
    | .ok (some s) => .next s

/-- CONTEXT_RESTORE (R209); it waits until the homes of the image are ready (R403). -/
def execContextRestore (port : Fin 4) (m : HostMsg) (s : State) : Host.Outcome State Fault Refusal :=
  if s.restoreWaits port m then .next (s.deferInput (.contextRestore port m))
  else s.ctxMessage port m 5 fun s c => .ok (s.restoreCtx c m.w2.toNat)

/-- CONTEXT_CXID (R383). -/
def execContextCxid (port : Fin 4) (m : HostMsg) (s : State) : Host.Outcome State Fault Refusal :=
  s.ctxMessage port m 6 fun s c => .ok (s.setCxid c (m.w2.setWidth 8))

/-- INVALIDATE_MESSAGE (R293): it completes later. -/
def execInvalidateMessage (port : Fin 4) (m : HostMsg) (s : State) : Host.Outcome State Fault Refusal :=
  if m.type != 6 || !s.hears then .next s
  else if !m.shaped 0x1FFFFFFFFFFF000#64 1#64 || !s.portMay port m then .next (s.msgDone m 2)
  else
    let (d, s) := s.delay
    .next { s with slow := s.slow ++ [{ zeroing := false, due := s.now + 1 + d, msg := m }] }

/-- PAGE_DONE_MESSAGE (R298). -/
def execPageDoneMessage (port : Fin 4) (m : HostMsg) (s : State) : Host.Outcome State Fault Refusal :=
  s.plainMessage port m 7 (m.shaped 0x1FF#64 0xFFFFFFFF#64 1#64) (pageDone m)

/-- VIRTUAL_TIME_MESSAGE (R386). -/
def execVirtualTimeMessage (port : Fin 4) (m : HostMsg) (s : State) : Host.Outcome State Fault Refusal :=
  s.plainMessage port m 8 (m.shaped (-1#64) 0xFFFFFFFF#64 (-1#64) (-1#64)) (setsTime m)

/-- A record count of an event area: a power of two from 256 to 65 536 (R371). -/
def areaCountOk (n : Nat) : Bool := (List.range 9).any fun k => n == 2 ^ (8 + k)

/-- EVENT_AREA_MESSAGE (R379). -/
def execEventAreaMessage (port : Fin 4) (m : HostMsg) (s : State) : Host.Outcome State Fault Refusal :=
  s.plainMessage port m 9 (m.shaped 1#64 0xFFFFFFFFFFFFF000#64 0x1FFFF#64 0xFFFFFFFFFFFFFFF8#64 && areaCountOk m.w3.toNat) (setsArea m)

/-- CONSUMED_MESSAGE (R379). -/
def execConsumedMessage (port : Fin 4) (m : HostMsg) (s : State) : Host.Outcome State Fault Refusal :=
  s.plainMessage port m 10 (m.shaped 1#64 (-1#64)) (setsConsumed m)

/-- ROUTE_MESSAGE (R389). -/
def execRouteMessage (port : Fin 4) (m : HostMsg) (s : State) : Host.Outcome State Fault Refusal :=
  s.plainMessage port m 11 (m.shaped 0xFFF#64 0xFFF#64) (setsRoute m)

/-- PORT_MESSAGE (R373). -/
def execPortMessage (port : Fin 4) (m : HostMsg) (s : State) : Host.Outcome State Fault Refusal :=
  s.plainMessage port m 12 (m.shaped 3#64 0xFFFF#64) (setsPort m)

/-- UNLISTED_MESSAGE_TYPE (R370), and actions of a context message that R383 does not list. -/
def execUnlistedMessageType (_port : Fin 4) (m : HostMsg) (s : State) : Host.Outcome State Fault Refusal :=
  .next (if s.hears && (!listedType m.type || (m.type == 5 && decide (6 < m.action))) then s.msgDone m 2 else s)

/-! ## Host accesses (R368) -/

/-- HOST_WRITE: global memory at its home, or registers of the platform page (notes/assumptions/25.md). -/
def execHostWrite (pa : Nat) (data : List Byte) (s : State) : Host.Outcome State Fault Refusal :=
  if s.dead then .next s
  else if pa + data.length ≤ Config.hbmEnd then
    .next (if s.spanReady pa data.length then s.writeGlobal pa data none else s.deferInput (.hostWrite pa data))
  else if platformPage ≤ pa ∧ pa + data.length ≤ platformPage + 4096 then .next (s.platformBytes (pa - platformPage) data)
  else .fault .noSuchAddress

/-- HOST_READ: the bytes are returned to the host. -/
def execHostRead (pa n : Nat) (s : State) : Host.Outcome State Fault Refusal :=
  if platformPage ≤ pa ∧ pa + n ≤ platformPage + 4096 then
    .next { s with hostRead := (List.range n).map fun i => s.platformByte (pa - platformPage + i) }
  else if s.dead then .next s
  else if pa + n ≤ Config.hbmEnd then
    .next (if s.spanReady pa n then (let r := s.hostBytes pa n; { r.2 with hostRead := r.1 }) else s.deferInput (.hostRead pa n))
  else .fault .noSuchAddress

/-! ## Peers and links (R388, R389) -/

/-- PEER_PACKET_RECEIVE: translated here, performed at its home, acknowledged. -/
def execPeerPacketReceive (p : PeerPacket) (s : State) : Host.Outcome State Fault Refusal :=
  if s.dead then .next s
  else if !s.peerReady p then .next (s.deferInput (.peerPacketReceive p))
  else
    let r := (s.flit p.link.val).peerPerform p
    .next (r.2.2.reply (BitVec.ofNat 8 r.1 :: r.2.1))

/-- LINK_DOWN: no flit for 2^20 cycles. -/
def execLinkDown (l : Fin 12) (s : State) : Host.Outcome State Fault Refusal :=
  .next (if s.linkLost l.val then s.dropLink l.val else s)

/-- LINK_UP. -/
def execLinkUp (l : Fin 12) (s : State) : Host.Outcome State Fault Refusal := .next (s.flit l.val)

/-- KEEP_ALIVE: a flit like any other, so that an idle link is not taken as down, and one that was down is up again. -/
def execKeepAlive (l : Fin 12) (s : State) : Host.Outcome State Fault Refusal := .next (s.flit l.val)

/-- FLIT_CRC_FAILURE (R388): the flit is sent again on the same link; nothing of it arrives before. -/
def execFlitCrcFailure (_l : Fin 12) (s : State) : Host.Outcome State Fault Refusal := .next s

/-! ## Events, errors, slow messages -/

/-- EVENT_APPEND (R379). -/
def execEventAppend (d : Fin 2) (s : State) : Host.Outcome State Fault Refusal :=
  .next (if s.appendDue d.val then s.appendEvent d.val else s)

/-- MEMORY_ERROR (R301). -/
def execMemoryError (e : MemError) (s : State) : Host.Outcome State Fault Refusal := .next (s.memoryError e)

/-- The first slow message of a kind that is over. -/
def State.slowDue (s : State) (zeroing : Bool) : Option SlowMsg := s.slow.find? fun x => x.zeroing == zeroing && decide (x.due ≤ s.now)

/-- PARTITION_ZEROING_COMPLETE (R382). -/
def execPartitionZeroingComplete (s : State) : Host.Outcome State Fault Refusal :=
  .next (match s.slowDue true with
    | some x => ({ s with slow := s.slow.erase x } : State).finishPartition x.msg x.lcores
    | none => s)

/-- TRANSLATION_INVALIDATION_COMPLETE (R293). -/
def execTranslationInvalidationComplete (s : State) : Host.Outcome State Fault Refusal :=
  .next (match s.slowDue false with
    | some x => ({ s with slow := s.slow.erase x } : State).finishInvalidation x.msg
    | none => s)

/-- An eviction of the context whose engine operations, fills and parked compares are over (R209), to homes that are ready (R403). -/
def State.saveDue (s : State) (c : Nat) : Bool :=
  match (s.ctx c).run with
  | .evicting a _ _ _ _ _ _ => (s.ctx c).quiescent && s.spanReady a (imageSize (((s.boundTask c).map (·.width)).getD 1))
  | _ => false

/-- CONTEXT_IMAGE_SAVE (R209). -/
def execContextImageSave (c : Fin 8) (s : State) : Host.Outcome State Fault Refusal :=
  .next (match (s.ctx c.val).run with
    | .evicting a m held f pat inner waiting =>
      if s.saveDue c.val then (s.saveImage c.val a held f pat inner waiting).msgDone m 0 else s
    | _ => s)

end Sys2Proof.Machine
end

