-- ==== Sys2Proof/Machine/Graph.lean ====
section
/-! DEFINITION. Command graphs and launches (spec/21_host.md R374-R376; spec/05_tasks.md R130-R133; spec/03_bundles.md R64). -/

namespace Sys2Proof.Machine

/-! ## Nodes -/

def Node.kind (n : Node) : Nat := fld (n.words.getD 0 0) 0 4

def Node.mask (n : Node) : Nat := fld (n.words.getD 0 0) 8 2

def Node.word (n : Node) (i : Nat) : Nat := n.words.getD i 0

/-- Predecessors of node `j`. -/
def Replay.preds (r : Replay) (j : Nat) : List Node :=
  (r.nodes.zipIdx.filter fun p => decide (p.2 < j) && bitAt ((r.nodes[j]?.map (·.word 7)).getD 0) p.2).map (·.1)

/-- A node that is over. -/
def Node.over (n : Node) : Bool := n.st == .done || n.st == .skipped

/-- A predecessor whose dependents are skipped (R376). -/
def Node.skips (n : Node) : Bool := n.st == .skipped || (n.kind == 3 && n.st == .done && n.outcome == 3)

/-! ## Launches (R64, R130-R132) -/

/-- The width of the widest logical core open to the tenant, on any core; none where no core is open to it. -/
def State.widestOpen (s : State) (tenant : Nat) : Option Nat :=
  let here := if (List.range (lcoreCount s.mode.toNat)).any fun h => vget s.lcores h {} == { tenant := tenant, assigned := true }
    then [lcoreWidth s.mode.toNat] else []
  (here ++ (s.otherCores.filter fun a => a.tens.contains (some tenant)).map (lcoreWidth ·.mode)).foldl
    (fun b w => some (max w (b.getD 0))) none

/-- Field values of the `k`-th task in ascending work identifier: field 0 varies fastest (R131). -/
def fieldValues : List Nat → Nat → List Nat
  | [], _ => []
  | n :: ns, k => k % n :: fieldValues ns (k / n)

/-- The work identifier of field values (R129). -/
def widOf : List Nat → List Nat → Nat
  | v :: vs, w :: ws => v + widOf vs ws * 2 ^ w
  | _, _ => 0

/-- A launch node starts: its kernel is read, or the launch is bad (R64) (notes/assumptions/30.md). -/
def State.startLaunch (s : State) (tenant : Nat) (n : Node) : Node :=
  let bad := { n with st := .skipped, outcome := 5 }
  match s.parseKernel tenant (fld (n.word 0) 13 51 * 64) with
  | none => bad
  | some k =>
    let ext := (List.range 6).map fun i => n.word (1 + i)
    let ns := (ext.take k.nfld).map (· + 1)
    let fits := match s.widestOpen tenant with | some w => decide (k.width ≤ w) | none => false
    if n.mask == 0 || !fits || (ext.drop k.nfld).any (· != 0) || (ns.zip k.fw).any fun p => decide (2 ^ p.2 < p.1) then bad
    else { n with st := .running, made := 0, total := ns.foldl (· * ·) 1, live := 0, extents := ns, width := k.width,
                  fsize := k.frameSize, fw := k.fw }

/-! ## Copy nodes (R375) -/

/-- The transfer block of a copy node. -/
inductive NodeBlock where
  | got (b : Nat)
  | bad
  | absent
  /-- The block cannot be read: the poisoned bytes that kept it from that, if it was they (R303). -/
  | failed (grain : Option (Nat × Nat))
  deriving DecidableEq, Repr

def State.nodeBlock (s : State) (tenant va : Nat) : NodeBlock :=
  match (s.translate tenant va).access va true false with
  | .absent => .absent
  | .denied => .failed none
  | .poisoned => .failed none
  | .ok p =>
    let n := max 8 (16 * fld (memNat s.mem p.pa 8) 8 8)
    if p.space != 0 then .failed none
    else if isPoisoned s.poisonG p.pa n then .failed (some (p.pa, if isPoisoned s.poisonG p.pa 8 then 8 else n))
    else match blockOf (memNat s.mem p.pa) va 1 48 with
      | some b => .got b
      | none => .bad

/-- The command of a copy node, where no check of R308, R314 or R375 fails. -/
def State.nodeCopy (s : State) (r j b tenant : Nat) (n : Node) : Option CpCmd :=
  let base : CpCmd :=
    { op := .xfer, ctx := 8, num := 0, c := s.now, wb := 0, pieces := 0, src := n.word 2, dst := n.word 3, rem := false, dcore := 0,
      arr := false, awa := 0, rel := false, scope := 0, node := some (r, j), tenant := tenant, notBefore := s.now + 2 }
  match transferOf b false base with
  | none => none
  | some m =>
    let a := min (2 ^ m.esz) 16
    let low := (List.range m.pieces).any fun k => let p := m.piece k
      let low := fun (a n : Nat) => decide (a < windowEnd) || decide (2 ^ 57 < a + n)
      low p.src p.n || low p.dst (m.dstSpan p)
    if m.xf || low || m.src % a != 0 || m.dst % a != 0 || (m.ss ++ m.ds).any fun x => x % (Int.ofNat a) != 0 then none else some m

/-! ## Starting nodes (R376) -/

/-- The units that a node's reading needs are ready (R403): a launch's kernel image, a copy's block, a wait's doubleword. -/
def State.nodeReady (s : State) (tenant : Nat) (n : Node) : Bool :=
  let at_ := fun (va size : Nat) => s.mayTranslate tenant va && (match (s.translate tenant va).access va true false with
    | .ok p => p.space != 0 || s.spanReady p.pa size
    | _ => true)
  match n.kind with
  | 1 => s.readsReady tenant (s.kernelReads tenant (fld (n.word 0) 13 51 * 64))
  | 3 => at_ (n.word 1) 8
  | _ => at_ (n.word 1) (256 - n.word 1 % 256)

/-- A node whose predecessors are over and that may act in this cycle. -/
def State.mayStart (s : State) (r : Replay) (j : Nat) (n : Node) : Bool :=
  n.st == .waiting && (r.preds j).all Node.over && decide (n.poll ≤ s.now) &&
  (match n.fut with | some f => s.futureReady f | none => true) && (n.kind == 3 || s.nodeReady r.tenant n)

/-- A launch all of whose tasks are over (R133). -/
def Node.finished (n : Node) : Bool := n.kind == 1 && n.st == .running && n.made == n.total && n.live == 0

/-- Start node `j` of replay `r`. -/
def State.startNode (s : State) (r : Replay) (j : Nat) (n : Node) : State :=
  let put := fun (s : State) (f : Node → Node) => s.modNode (r.id * 64 + j) f
  let failed := fun (s : State) => put s fun n => { n with st := .done, outcome := 3 }
  match n.kind with
  | 1 =>
    let img := fld (n.word 0) 13 51 * 64
    let t := if (s.parseKernel r.tenant img).isNone then s.logReads r.tenant (s.kernelReads r.tenant img) else s
    put t (s.startLaunch r.tenant)
  | 3 => put s fun n => { n with st := .running, poll := s.now, fut := none }
  | _ =>
    if (match n.fut with | some f => s.futureDenied f | none => false) then failed s
    else match s.nodeBlock r.tenant (n.word 1) with
      | .failed (some (pa, k)) => failed (s.logPoisonBy s.poisonG none pa k 0)
      | .failed none => failed (s.logWalk (s.translate r.tenant (n.word 1)) none)
      | .bad => put s fun n => { n with st := .skipped, outcome := 5 }
      | .absent =>
        let (f, s) := s.requestPage (n.mask - 1) r.tenant (n.word 1) false true
        put s fun n => { n with fut := f, poll := s.now + 1 }
      | .got b => match s.nodeCopy r.id j b r.tenant n with
        | none => put s fun n => { n with st := .skipped, outcome := 5 }
        | some m =>
          let (c, s) := s.choice
          put ({ s with chans := vmod s.chans (if n.mask == s.dieNo + 1 then c % 4 else 4) fun h => { h with cmds := h.cmds ++ [m] } } : State)
            fun n => { n with st := .running }

/-- What the graphs do next: a replay begins, a launch completes, a node is skipped or starts. -/
inductive GraphAct where
  | begin_ (r : Nat)
  | finish (l : Nat)
  | skip (l : Nat)
  | start (r : Replay) (j : Nat) (n : Node)
  deriving DecidableEq, Repr

def State.nodeAct (s : State) (r : Replay) (p : Node × Nat) : Option GraphAct :=
  let (n, j) := p
  if n.finished then some (.finish (r.id * 64 + j))
  else if n.st == .waiting && (r.preds j).any Node.skips then some (.skip (r.id * 64 + j))
  else if s.mayStart r j n then some (.start r j n)
  else none

/-- An earlier replay of the same graph. -/
def State.behind (s : State) (r : Replay) : Bool :=
  s.replays.any fun o => o.tenant == r.tenant && o.gaddr == r.gaddr && decide (o.id < r.id)

def State.graphNext (s : State) : Option GraphAct :=
  s.replays.findSome? fun r =>
    if r.started then r.nodes.zipIdx.findSome? (s.nodeAct r)
    else if s.behind r then none else some (.begin_ r.id)

def State.graphStep (s : State) : State :=
  match s.graphNext with
  | none => s
  | some (.begin_ i) => { s with replays := s.replays.map fun (r : Replay) => if r.id == i then { r with started := true } else r }
  | some (.finish l) => s.modNode l fun n => { n with st := .done }
  | some (.skip l) => s.modNode l fun n => { n with st := .skipped }
  | some (.start r j n) => s.startNode r j n

/-! ## Expansion (R131, R132) -/

/-- Launches that still have tasks to create, with replay and node index. -/
def State.expanding (s : State) : List (Replay × Nat × Node) :=
  s.replays.flatMap fun r => (r.nodes.zipIdx.filter fun p => p.1.kind == 1 && p.1.st == .running && decide (p.1.made < p.1.total)).map
    fun p => (r, p.2, p.1)

/-- The launch to expand: the first of its tenant, where a frame can be allocated whose homes are ready (R403). -/
def State.expandNext (s : State) : Option (Replay × Nat × Node) :=
  s.expanding.find? fun x =>
    ((s.expanding.find? fun y => y.1.tenant == x.1.tenant).map fun y => (y.1.id, y.2.1)) == some (x.1.id, x.2.1) &&
    (s.allocFrame x.1.tenant x.2.2.fsize).1.any fun fra => virtReady s x.1.tenant (x.2.2.fsize / 64 + 2) fra x.2.2.fsize

/-- The die of a launch's task (R132). -/
def Node.dieOf (n : Node) (vs : List Nat) : Nat :=
  match n.mask with
  | 1 => 0
  | 2 => 1
  | _ => vs.getLastD 0 % 2

/-- One task is created and queued (R130-R133). -/
def State.expand (s : State) : Except Fault State :=
  match s.expandNext with
  | none => .ok s
  | some (r, j, n) =>
    let (fra, s) := s.allocFrame r.tenant n.fsize
    match fra with
    | none => .ok s
    | some fra =>
      let vs := fieldValues n.extents n.made
      let t : Task :=
        { id := s.nextId, fra := fra, fsize := n.fsize, tenant := r.tenant, kimg := fld (n.word 0) 13 51 * 64, width := n.width,
          wid := BitVec.ofNat 64 (widOf vs n.fw), seg := 0, pri := fld (n.word 0) 6 2, die := n.dieOf vs,
          launch := r.id * 64 + j, lnch := (r.gaddr + 64 + 64 * j) % 2 ^ 57, par := none, parFra := 0, nkid := 0, st := .queued,
          wait := .none, wsel := 0, ctx := none, readyAt := s.now, aged := false, fresh := true, restore := false, inval := 0,
          cores := BitVec.allOnes 256, owes := [], joined := [], begun := false }
      let s := ({ s with tasks := s.tasks ++ [t], nextId := s.nextId + 1 } : State).modNode (r.id * 64 + j) fun n =>
        { n with made := n.made + 1, live := n.live + 1 }
      (s.headerLoose none (s.writeHeader t.id)).map fun s => s.enqueue t.id s.now

/-! ## Wait nodes (R375) -/

/-- A wait node whose doubleword is to be read now. -/
def State.pollNext (s : State) : Option (Replay × Nat × Node) :=
  s.replays.findSome? fun r => (r.nodes.zipIdx.find? fun p =>
    p.1.kind == 3 && p.1.st == .running && decide (p.1.poll ≤ s.now) && (match p.1.fut with | some f => s.futureReady f | none => true) &&
    s.nodeReady r.tenant p.1).map fun p => (r, p.2, p.1)

/-- One read of a wait node's doubleword. -/
def State.pollNode (s : State) : State :=
  match s.pollNext with
  | none => s
  | some (r, j, n) =>
    let put := fun (s : State) (f : Node → Node) => s.modNode (r.id * 64 + j) f
    let failed := fun (s : State) => put s fun n => { n with st := .done, outcome := 3 }
    let (d, s) := s.delay
    let next := s.now + 1 + d % 4095
    let va := n.word 1
    if (match n.fut with | some f => s.futureDenied f | none => false) then failed s
    else match (s.translate r.tenant va).access va true false with
      | .absent =>
        if s.pageOver.any fun q => q.1 == 0 && q.2.1 == r.tenant && fld q.2.2.1 12 45 == fld va 12 45 then
          put s fun n => { n with poll := s.now + 1, fut := none }
        else
          let (f, s) := s.requestPage 0 r.tenant va false true
          put s fun n => { n with fut := f, poll := s.now + 1 }
      | .denied => failed (s.logWalk (s.translate r.tenant va) none)
      | .poisoned => failed (s.logWalk (s.translate r.tenant va) none)
      | .ok p =>
        if p.space != 0 then failed s
        else if isPoisoned s.poisonG p.pa 8 then failed (s.logPoisonBy s.poisonG none p.pa 8 0)
        else if n.word 2 ≤ memNat s.mem p.pa 8 then put s fun n => { n with st := .done }
        else put s fun n => { n with poll := next, fut := none }

/-! ## Completion (R376, R378) -/

def State.replayOver (s : State) : Option Replay := s.replays.find? fun r => r.started && r.nodes.all Node.over

/-- Status of the first node whose outcome is not ok, and that node; or 0xFF. -/
def Replay.verdict (r : Replay) : Nat × Nat :=
  match r.nodes.zipIdx.find? fun p => p.1.outcome != 0 with
  | some p => (p.1.outcome, p.2)
  | none => (0, 0xFF)

def State.endReplay (s : State) : State :=
  match s.replayOver with
  | none => s
  | some r =>
    ({ s with replays := s.replays.filter (·.id != r.id) } : State).raiseEvent 0
      { kind := 2, status := r.verdict.1, die := 0, tnt := r.tenant, tag := r.tag, a := r.gaddr, b := r.verdict.2 }

/-! ## The events -/

/-- GRAPH_NODE_START (R376). -/
def execGraphNodeStart (s : State) : Host.Outcome State Fault Refusal := .next s.graphStep

/-- LAUNCH_EXPANSION (R132). -/
def execLaunchExpansion (s : State) : Host.Outcome State Fault Refusal := outcome s.expand

/-- WAIT_NODE_POLL (R375). -/
def execWaitNodePoll (s : State) : Host.Outcome State Fault Refusal := .next s.pollNode

/-- REPLAY_COMPLETE (R376). -/
def execReplayComplete (s : State) : Host.Outcome State Fault Refusal := .next s.endReplay

end Sys2Proof.Machine
end

