-- ==== Sys2Proof/Machine/TimeEvents.lean ====
section
/-! DEFINITION. The passing of cycles: the window, the booking search, compaction, ageing, code loads, walks, time waits
(spec/05_tasks.md R149-R163; spec/14_translation.md R292; spec/21_host.md R384, R385). -/

namespace Sys2Proof.Machine

/-! ## A cycle passes (R149, R20, R384) -/

/-- What a cycle's end does to a context: flags of a resolution land, the counts of the cycle start anew (R41, R42, R387). -/
def Ctx.nextCycle (x : Ctx) (owns : Bool) : Ctx :=
  let y := { x with nst := nstRaise x.nst x.nextFlags, nowFlags := x.nextFlags, nextFlags := 0, perfNow := Vector.replicate 8 0 }
  if owns then y.count 0 else y

/-- Raw counts in a cycle, in units of 1/17: 20 at 850 MHz, twice that at half clock (R20, R384). -/
def State.rawStep (s : State) : Nat := if (s.die s.dieNo).slow then 40 else 20

/-- What a channel of the other die has done in the cycle, for the graph copy nodes that name that die (R375): a piece leaves,
parked pieces leave, pieces land, commands complete. -/
def State.farChannel (s : State) : State :=
  if (vget s.chans 4 noChan).cmds.isEmpty then s
  else
    let s := (s.cpEmit 4).cpRetry 4
    Nat.repeat (fun s => s.cpLand 4) (s.landings.length + 1) s

/-- Stores that wait in store queues: cxid, sequence number, and whether their context has released them. -/
def State.queuedNow (s : State) : List (Nat × Nat × Bool) :=
  s.ctxs.toList.flatMap fun x => x.cols.toList.flatMap fun k => k.storeQ.map fun e => (e.cxid, e.seq, decide (e.seq < x.relBarrier))

/-- The next cycle begins; the contexts and engines find it. -/
def State.tick (s : State) : State :=
  let s := s.farChannel
  let s := ({ s with
    now := s.now + 1
    rawAcc := s.rawAcc + s.rawStep
    spad0 := s.spad
    poisonS0 := s.poisonS
    queued0 := s.queuedNow
    searched := false
    compactDue := s.compactDue || s.released
    released := false } : State).advanceWindow
  let s := { s with ctxs := vgen 8 fun c => (s.ctx c).nextCycle (s.hasColumn c s.now) }
  s.mtxCycle.selCycle.cpCycle.ckpCycle.synCycle

/-! ## The search (R153, R403) -/

/-- The booking search of the cycle; a core whose group is not ready books nothing. -/
def State.searchOnce (s : State) : Except Fault State :=
  if s.searched then .ok s
  else if !s.groupReady s.coreNum.toNat then .ok { s with searched := true }
  else s.search

/-! ## Ageing (R163) -/

def State.ageNext (s : State) : Option Task :=
  s.tasks.find? fun t => t.st == .queued && !t.aged && decide (t.readyAt + Config.agedAfter ≤ s.now)

/-! ## Code loads (R154) -/

def Kernel.bytes (k : Kernel) : Nat := 6 * k.width * k.ncode

/-- No task of the kernel is booked, bound or pinned on the core. -/
def State.evictable (s : State) (k : Kernel) : Bool :=
  !s.tasks.any fun t => t.tenant == k.tenant && t.kimg == k.kimg &&
    (t.st == .bound || t.st == .ready || (t.st == .waiting && t.wait.pinned))

/-- The least recently booked kernel that may go. -/
def State.victim (s : State) : Option Kernel :=
  (s.icache.filter s.evictable).foldl (fun b k => match b with
    | none => some k
    | some v => if k.used < v.used then some k else some v) none

/-- Kernels leave until `n` bytes fit; none where they cannot. -/
def State.icacheRoom (n : Nat) : Nat → State → Option State
  | 0, _ => none
  | fuel + 1, s =>
    if (s.icache.map Kernel.bytes).foldl (· + ·) n ≤ 196608 then some s
    else match s.victim with
      | none => none
      | some k => State.icacheRoom n fuel { s with icache := s.icache.filter fun x => !(x.tenant == k.tenant && x.kimg == k.kimg) }

def State.loadDue (s : State) : Option ILoad := s.iload.find? fun l => decide (l.due ≤ s.now)

/-- A kernel's code becomes resident, or waits for room; a load whose image could not be read is over. Until it is booked a kernel
stands among the others by the cycle in which its load ended (notes/assumptions/88.md). -/
def State.loadCode (s : State) : State :=
  match s.loadDue with
  | none => s
  | some l =>
    if !l.ok then { s with iload := s.iload.erase l }
    else match State.icacheRoom l.kernel.bytes (s.icache.length + 1) s with
    | some t => { t with iload := t.iload.erase l, icache := t.icache ++ [{ l.kernel with used := t.now }] }
    | none =>
      let (d, s) := s.delay
      { s with iload := s.iload.map fun x => if x == l then { x with due := s.now + 1 + d } else x }

/-! ## Walks (R292) -/

/-- A walk that ends now. -/
def State.walkDue (s : State) : Option Walk :=
  s.walks.find? fun w => decide (w.due ≤ s.now) && s.walkReady w.tenant w.va

/-- A walk ends: a page enters the cache; what else it found is known to its bundle alone, and never cached. -/
def State.endWalk (s : State) : State :=
  match s.walkDue with
  | none => s
  | some w =>
    let r := s.walk w.tenant w.va
    let s := ({ s with walks := s.walks.filter (·.id != w.id) } : State).logWalk r (some (w.ctx, w.tenant))
    match r with
    | .page e => { s with tcache := e :: s.tcache.filter fun o => !o.hits w.tenant w.va }
    | _ => s.modCtx w.ctx fun x => { x with walked := (w.va / 4096 * 2) :: x.walked }

/-! ## Time waits (R385) -/

/-- A time wait to test now; a task's `readyAt` is the cycle of its next test. -/
def State.timeNext (s : State) : Option (Task × Nat) :=
  s.tasks.findSome? fun t => match t.st, t.wait with
    | .waiting, .time v => if t.readyAt ≤ s.now then some (t, v) else none
    | _, _ => none

/-- One test: a read of vts. -/
def State.testTime (s : State) : State :=
  match s.timeNext with
  | none => s
  | some (t, v) =>
    let now := s.vts t.tenant
    let (d, s) := (s.readVts t.tenant).delay
    s.modTask t.id fun u => if v ≤ now.toNat then { u with wait := .none } else { u with readyAt := s.now + 1 + d % 400 }

/-! ## The events -/

/-- CALENDAR_WINDOW_ADVANCE (R149). -/
def execCalendarWindowAdvance (s : State) : Host.Outcome State Fault Refusal := .next s.tick

/-- BOOKING_SEARCH (R153). -/
def execBookingSearch (s : State) : Host.Outcome State Fault Refusal := outcome s.searchOnce

/-- Compaction comes before the search of the cycle after a release (R160). -/
def State.compactNow (s : State) : Bool := s.compactDue && !s.searched

/-- COMPACTION (R160). -/
def execCompaction (s : State) : Host.Outcome State Fault Refusal := .next (if s.compactNow then s.compact else s)

/-- TASK_AGED (R163). -/
def execTaskAged (s : State) : Host.Outcome State Fault Refusal :=
  .next (match s.ageNext with
    | some t => s.modTask t.id fun u => { u with aged := true }
    | none => s)

/-- ICACHE_LOAD_COMPLETE (R154). -/
def execIcacheLoadComplete (s : State) : Host.Outcome State Fault Refusal := .next s.loadCode

/-- TRANSLATION_WALK_COMPLETE (R292). -/
def execTranslationWalkComplete (s : State) : Host.Outcome State Fault Refusal := .next s.endWalk

/-- TIME_WAIT_TEST (R385). -/
def execTimeWaitTest (s : State) : Host.Outcome State Fault Refusal := .next s.testTime

end Sys2Proof.Machine
end

