-- ==== Sys2Proof/Machine/Dispatch.lean ====
section
/-! DEFINITION. The one step of each row of the table: one arm for each constructor. -/

namespace Sys2Proof.Machine

def exec (i : Instr) (s : State) : Host.Outcome State Fault Refusal :=
  match i with
  | .move h d => Sys2Proof.Machine.execMove h d s
  | .immediate v => Sys2Proof.Machine.execImmediate v s
  | .iaAdd h => Sys2Proof.Machine.execIaAdd h s
  | .iaSub h => Sys2Proof.Machine.execIaSub h s
  | .iaMul h => Sys2Proof.Machine.execIaMul h s
  | .iaMulhI64 h => Sys2Proof.Machine.execIaMulhI64 h s
  | .iaAnd h => Sys2Proof.Machine.execIaAnd h s
  | .iaOr h => Sys2Proof.Machine.execIaOr h s
  | .iaXor h => Sys2Proof.Machine.execIaXor h s
  | .iaShl h => Sys2Proof.Machine.execIaShl h s
  | .iaShrN64 h => Sys2Proof.Machine.execIaShrN64 h s
  | .iaShrI64 h => Sys2Proof.Machine.execIaShrI64 h s
  | .iaMinI64 h => Sys2Proof.Machine.execIaMinI64 h s
  | .iaMaxI64 h => Sys2Proof.Machine.execIaMaxI64 h s
  | .iaAddsI64 h => Sys2Proof.Machine.execIaAddsI64 h s
  | .iaSubsI64 h => Sys2Proof.Machine.execIaSubsI64 h s
  | .iaEq h => Sys2Proof.Machine.execIaEq h s
  | .iaLtI64 h => Sys2Proof.Machine.execIaLtI64 h s
  | .iaLtN64 h => Sys2Proof.Machine.execIaLtN64 h s
  | .iaCqEq h => Sys2Proof.Machine.execIaCqEq h s
  | .iaCqLtI64 h => Sys2Proof.Machine.execIaCqLtI64 h s
  | .iaCqLtN64 h => Sys2Proof.Machine.execIaCqLtN64 h s
  | .iaCgEq h => Sys2Proof.Machine.execIaCgEq h s
  | .iaCgLtI64 h => Sys2Proof.Machine.execIaCgLtI64 h s
  | .iaCgLtN64 h => Sys2Proof.Machine.execIaCgLtN64 h s
  | .iaSrd h => Sys2Proof.Machine.execIaSrd h s
  | .iaSwr h => Sys2Proof.Machine.execIaSwr h s
  | .iaPopc h => Sys2Proof.Machine.execIaPopc h s
  | .vaAddF32 h => Sys2Proof.Machine.execVaAddF32 h s
  | .vaAddH16 h => Sys2Proof.Machine.execVaAddH16 h s
  | .vaAddB16 h => Sys2Proof.Machine.execVaAddB16 h s
  | .vaSubF32 h => Sys2Proof.Machine.execVaSubF32 h s
  | .vaSubH16 h => Sys2Proof.Machine.execVaSubH16 h s
  | .vaSubB16 h => Sys2Proof.Machine.execVaSubB16 h s
  | .vaMulF32 h => Sys2Proof.Machine.execVaMulF32 h s
  | .vaMulH16 h => Sys2Proof.Machine.execVaMulH16 h s
  | .vaMulB16 h => Sys2Proof.Machine.execVaMulB16 h s
  | .vaFmaF32 h => Sys2Proof.Machine.execVaFmaF32 h s
  | .vaFmaH16 h => Sys2Proof.Machine.execVaFmaH16 h s
  | .vaFmaB16 h => Sys2Proof.Machine.execVaFmaB16 h s
  | .vaMinF32 h => Sys2Proof.Machine.execVaMinF32 h s
  | .vaMinH16 h => Sys2Proof.Machine.execVaMinH16 h s
  | .vaMinB16 h => Sys2Proof.Machine.execVaMinB16 h s
  | .vaMaxF32 h => Sys2Proof.Machine.execVaMaxF32 h s
  | .vaMaxH16 h => Sys2Proof.Machine.execVaMaxH16 h s
  | .vaMaxB16 h => Sys2Proof.Machine.execVaMaxB16 h s
  | .vaLtF32 h => Sys2Proof.Machine.execVaLtF32 h s
  | .vaLeF32 h => Sys2Proof.Machine.execVaLeF32 h s
  | .vaEqF32 h => Sys2Proof.Machine.execVaEqF32 h s
  | .vaAddI32 h => Sys2Proof.Machine.execVaAddI32 h s
  | .vaSubI32 h => Sys2Proof.Machine.execVaSubI32 h s
  | .vaMulI32 h => Sys2Proof.Machine.execVaMulI32 h s
  | .vaAddsI32 h => Sys2Proof.Machine.execVaAddsI32 h s
  | .vaMinI32 h => Sys2Proof.Machine.execVaMinI32 h s
  | .vaMaxI32 h => Sys2Proof.Machine.execVaMaxI32 h s
  | .vaMinN32 h => Sys2Proof.Machine.execVaMinN32 h s
  | .vaMaxN32 h => Sys2Proof.Machine.execVaMaxN32 h s
  | .vaAnd h => Sys2Proof.Machine.execVaAnd h s
  | .vaOr h => Sys2Proof.Machine.execVaOr h s
  | .vaXor h => Sys2Proof.Machine.execVaXor h s
  | .vaShl h => Sys2Proof.Machine.execVaShl h s
  | .vaShrN32 h => Sys2Proof.Machine.execVaShrN32 h s
  | .vaShrI32 h => Sys2Proof.Machine.execVaShrI32 h s
  | .vaLtI32 h => Sys2Proof.Machine.execVaLtI32 h s
  | .vaEqI32 h => Sys2Proof.Machine.execVaEqI32 h s
  | .vaAbs h => Sys2Proof.Machine.execVaAbs h s
  | .vaNeg h => Sys2Proof.Machine.execVaNeg h s
  | .vaCsgn h => Sys2Proof.Machine.execVaCsgn h s
  | .vaCvtF32I32 h => Sys2Proof.Machine.execVaCvtF32I32 h s
  | .vaCvtI32F32 h => Sys2Proof.Machine.execVaCvtI32F32 h s
  | .vaCvtH16F32 h => Sys2Proof.Machine.execVaCvtH16F32 h s
  | .vaCvtB16F32 h => Sys2Proof.Machine.execVaCvtB16F32 h s
  | .vaCvtF32H16 h => Sys2Proof.Machine.execVaCvtF32H16 h s
  | .vaCvtF32B16 h => Sys2Proof.Machine.execVaCvtF32B16 h s
  | .vaCvtE43F32 h => Sys2Proof.Machine.execVaCvtE43F32 h s
  | .vaCvtE52F32 h => Sys2Proof.Machine.execVaCvtE52F32 h s
  | .vaCvtF32E43 h => Sys2Proof.Machine.execVaCvtF32E43 h s
  | .vaCvtF32E52 h => Sys2Proof.Machine.execVaCvtF32E52 h s
  | .vaPkSx4 h => Sys2Proof.Machine.execVaPkSx4 h s
  | .vaPkSx6 h => Sys2Proof.Machine.execVaPkSx6 h s
  | .vaPkSx8 h => Sys2Proof.Machine.execVaPkSx8 h s
  | .vaPkSx16 h => Sys2Proof.Machine.execVaPkSx16 h s
  | .vaUpk h => Sys2Proof.Machine.execVaUpk h s
  | .vaImgF32 h => Sys2Proof.Machine.execVaImgF32 h s
  | .vaUimgF32 h => Sys2Proof.Machine.execVaUimgF32 h s
  | .vaPln h => Sys2Proof.Machine.execVaPln h s
  | .vaUpln h => Sys2Proof.Machine.execVaUpln h s
  | .vaPerm h => Sys2Proof.Machine.execVaPerm h s
  | .vaBcast h => Sys2Proof.Machine.execVaBcast h s
  | .vaCmpr h => Sys2Proof.Machine.execVaCmpr h s
  | .vaExpd h => Sys2Proof.Machine.execVaExpd h s
  | .vaSel h => Sys2Proof.Machine.execVaSel h s
  | .sfDivF32 h => Sys2Proof.Machine.execSfDivF32 h s
  | .sfSqrtF32 h => Sys2Proof.Machine.execSfSqrtF32 h s
  | .sfRsqrtF32 h => Sys2Proof.Machine.execSfRsqrtF32 h s
  | .sfExp2F32 h => Sys2Proof.Machine.execSfExp2F32 h s
  | .sfLog2F32 h => Sys2Proof.Machine.execSfLog2F32 h s
  | .lsLdN8 h => Sys2Proof.Machine.execLsLdN8 h s
  | .lsLdN16 h => Sys2Proof.Machine.execLsLdN16 h s
  | .lsLdN32 h => Sys2Proof.Machine.execLsLdN32 h s
  | .lsLdI32 h => Sys2Proof.Machine.execLsLdI32 h s
  | .lsLd64 h => Sys2Proof.Machine.execLsLd64 h s
  | .lsLdQ h => Sys2Proof.Machine.execLsLdQ h s
  | .lsLdV h => Sys2Proof.Machine.execLsLdV h s
  | .lsSt8 h => Sys2Proof.Machine.execLsSt8 h s
  | .lsSt16 h => Sys2Proof.Machine.execLsSt16 h s
  | .lsSt32 h => Sys2Proof.Machine.execLsSt32 h s
  | .lsSt64 h => Sys2Proof.Machine.execLsSt64 h s
  | .lsStQ h => Sys2Proof.Machine.execLsStQ h s
  | .lsStV h => Sys2Proof.Machine.execLsStV h s
  | .rdSumF32 h => Sys2Proof.Machine.execRdSumF32 h s
  | .rdSumI32 h => Sys2Proof.Machine.execRdSumI32 h s
  | .rdMaxF32 h => Sys2Proof.Machine.execRdMaxF32 h s
  | .rdMinF32 h => Sys2Proof.Machine.execRdMinF32 h s
  | .rdMaxI32 h => Sys2Proof.Machine.execRdMaxI32 h s
  | .rdMinI32 h => Sys2Proof.Machine.execRdMinI32 h s
  | .rdAmaxF32 h => Sys2Proof.Machine.execRdAmaxF32 h s
  | .rdAminF32 h => Sys2Proof.Machine.execRdAminF32 h s
  | .rdSet h => Sys2Proof.Machine.execRdSet h s
  | .mxStep h p => Sys2Proof.Machine.execMxStep h p s
  | .mxRun h p => Sys2Proof.Machine.execMxRun h p s
  | .mxZero h p => Sys2Proof.Machine.execMxZero h p s
  | .mxLdb h p => Sys2Proof.Machine.execMxLdb h p s
  | .mxSt h p => Sys2Proof.Machine.execMxSt h p s
  | .cpXfer h => Sys2Proof.Machine.execCpXfer h s
  | .cpTile h p => Sys2Proof.Machine.execCpTile h p s
  | .cpTsa h p => Sys2Proof.Machine.execCpTsa h p s
  | .cpFill h => Sys2Proof.Machine.execCpFill h s
  | .slRank h => Sys2Proof.Machine.execSlRank h s
  | .slWqnt h => Sys2Proof.Machine.execSlWqnt h s
  | .slThr h => Sys2Proof.Machine.execSlThr h s
  | .ckSnap h => Sys2Proof.Machine.execCkSnap h s
  | .ckLoad h => Sys2Proof.Machine.execCkLoad h s
  | .ckCommit h => Sys2Proof.Machine.execCkCommit h s
  | .ckDrop h => Sys2Proof.Machine.execCkDrop h s
  | .syReg h p => Sys2Proof.Machine.execSyReg h p s
  | .syDrop h => Sys2Proof.Machine.execSyDrop h s
  | .sySig h => Sys2Proof.Machine.execSySig h s
  | .syNext h => Sys2Proof.Machine.execSyNext h s
  | .syBase h => Sys2Proof.Machine.execSyBase h s
  | .syAmoLd h => Sys2Proof.Machine.execSyAmoLd h s
  | .syAmoSwap h => Sys2Proof.Machine.execSyAmoSwap h s
  | .syAmoCas h => Sys2Proof.Machine.execSyAmoCas h s
  | .syAmoAdd h => Sys2Proof.Machine.execSyAmoAdd h s
  | .syAmoAnd h => Sys2Proof.Machine.execSyAmoAnd h s
  | .syAmoOr h => Sys2Proof.Machine.execSyAmoOr h s
  | .syAmoXor h => Sys2Proof.Machine.execSyAmoXor h s
  | .syAmoMax h => Sys2Proof.Machine.execSyAmoMax h s
  | .syAmoMin h => Sys2Proof.Machine.execSyAmoMin h s
  | .syRedAdd h => Sys2Proof.Machine.execSyRedAdd h s
  | .syRedAddF32 h => Sys2Proof.Machine.execSyRedAddF32 h s
  | .syRedMaxF32 h => Sys2Proof.Machine.execSyRedMaxF32 h s
  | .syRedMinF32 h => Sys2Proof.Machine.execSyRedMinF32 h s
  | .scopeSet h p => Sys2Proof.Machine.execScopeSet h p s
  | .scopeClr h p => Sys2Proof.Machine.execScopeClr h p s
  | .br imm g o => Sys2Proof.Machine.execBr imm g o s
  | .brq o => Sys2Proof.Machine.execBrq o s
  | .brqF o => Sys2Proof.Machine.execBrqF o s
  | .brx imm g => Sys2Proof.Machine.execBrx imm g s
  | .call o => Sys2Proof.Machine.execCall o s
  | .loop l => Sys2Proof.Machine.execLoop l s
  | .ploop st l => Sys2Proof.Machine.execPloop st l s
  | .yieldTl c q => Sys2Proof.Machine.execYieldTl c q s
  | .yieldArr c q => Sys2Proof.Machine.execYieldArr c q s
  | .yieldPh c q => Sys2Proof.Machine.execYieldPh c q s
  | .yieldGrd c q => Sys2Proof.Machine.execYieldGrd c q s
  | .yieldCq q => Sys2Proof.Machine.execYieldCq q s
  | .yieldPg q => Sys2Proof.Machine.execYieldPg q s
  | .yieldTime q => Sys2Proof.Machine.execYieldTime q s
  | .fork q => Sys2Proof.Machine.execFork q s
  | .syncc q => Sys2Proof.Machine.execSyncc q s
  | .trap c => Sys2Proof.Machine.execTrap c s
  | .gopen k => Sys2Proof.Machine.execGopen k s
  | .fenceAcq p c => Sys2Proof.Machine.execFenceAcq p c s
  | .fenceRel p c => Sys2Proof.Machine.execFenceRel p c s
  | .fenceAr p c => Sys2Proof.Machine.execFenceAr p c s
  | .drain p => Sys2Proof.Machine.execDrain p s
  | .bkrel r => Sys2Proof.Machine.execBkrel r s
  | .parkedCompareResolve c => Sys2Proof.Machine.execParkedCompareResolve c s
  | .resultLanding c => Sys2Proof.Machine.execResultLanding c s
  | .heldStorePerform c => Sys2Proof.Machine.execHeldStorePerform c s
  | .l1Fill c => Sys2Proof.Machine.execL1Fill c s
  | .storePerform c j => Sys2Proof.Machine.execStorePerform c j s
  | .trapDelivery c => Sys2Proof.Machine.execTrapDelivery c s
  | .preemption c => Sys2Proof.Machine.execPreemption c s
  | .sliceEndGraceExpiry c => Sys2Proof.Machine.execSliceEndGraceExpiry c s
  | .contextImageSave c => Sys2Proof.Machine.execContextImageSave c s
  | .overrunAfterLastCell c => Sys2Proof.Machine.execOverrunAfterLastCell c s
  | .taskReady f => Sys2Proof.Machine.execTaskReady f s
  | .contextFree c => Sys2Proof.Machine.execContextFree c s
  | .mtxLoadPhaseComplete j => Sys2Proof.Machine.execMtxLoadPhaseComplete j s
  | .arrayStepComplete j => Sys2Proof.Machine.execArrayStepComplete j s
  | .mxStRowWrite j => Sys2Proof.Machine.execMxStRowWrite j s
  | .mtxCommandComplete j => Sys2Proof.Machine.execMtxCommandComplete j s
  | .cpyPieceEmit j => Sys2Proof.Machine.execCpyPieceEmit j s
  | .cpyPieceLand j => Sys2Proof.Machine.execCpyPieceLand j s
  | .cpyRetryEmit j => Sys2Proof.Machine.execCpyRetryEmit j s
  | .tileDrainRow j => Sys2Proof.Machine.execTileDrainRow j s
  | .rowRecordFold j => Sys2Proof.Machine.execRowRecordFold j s
  | .synSignalSend c => Sys2Proof.Machine.execSynSignalSend c s
  | .eventAppend d => Sys2Proof.Machine.execEventAppend d s
  | .memoryError e => Sys2Proof.Machine.execMemoryError e s
  | .replayMessage port m => Sys2Proof.Machine.execReplayMessage port m s
  | .tenantMessage port m => Sys2Proof.Machine.execTenantMessage port m s
  | .coreMessage port m => Sys2Proof.Machine.execCoreMessage port m s
  | .phaserAreaMessage port m => Sys2Proof.Machine.execPhaserAreaMessage port m s
  | .contextPreempt port m => Sys2Proof.Machine.execContextPreempt port m s
  | .contextSliceEnd port m => Sys2Proof.Machine.execContextSliceEnd port m s
  | .contextResume port m => Sys2Proof.Machine.execContextResume port m s
  | .contextEnd port m => Sys2Proof.Machine.execContextEnd port m s
  | .contextEvict port m => Sys2Proof.Machine.execContextEvict port m s
  | .contextRestore port m => Sys2Proof.Machine.execContextRestore port m s
  | .contextCxid port m => Sys2Proof.Machine.execContextCxid port m s
  | .invalidateMessage port m => Sys2Proof.Machine.execInvalidateMessage port m s
  | .pageDoneMessage port m => Sys2Proof.Machine.execPageDoneMessage port m s
  | .virtualTimeMessage port m => Sys2Proof.Machine.execVirtualTimeMessage port m s
  | .eventAreaMessage port m => Sys2Proof.Machine.execEventAreaMessage port m s
  | .consumedMessage port m => Sys2Proof.Machine.execConsumedMessage port m s
  | .routeMessage port m => Sys2Proof.Machine.execRouteMessage port m s
  | .portMessage port m => Sys2Proof.Machine.execPortMessage port m s
  | .hostWrite pa data => Sys2Proof.Machine.execHostWrite pa data s
  | .hostRead pa n => Sys2Proof.Machine.execHostRead pa n s
  | .peerPacketReceive p => Sys2Proof.Machine.execPeerPacketReceive p s
  | .linkDown l => Sys2Proof.Machine.execLinkDown l s
  | .linkUp l => Sys2Proof.Machine.execLinkUp l s
  | .keepAlive l => Sys2Proof.Machine.execKeepAlive l s
  | .pctlWrite port v => Sys2Proof.Machine.execPctlWrite port v s
  | .platformRegisterWrite off v => Sys2Proof.Machine.execPlatformRegisterWrite off v s
  | .supplySag d => Sys2Proof.Machine.execSupplySag d s
  | .clockRestore d => Sys2Proof.Machine.execClockRestore d s
  | .powerInterval pw => Sys2Proof.Machine.execPowerInterval pw s
  | .firmwareVerify image => Sys2Proof.Machine.execFirmwareVerify image s
  | .functionReady b => Sys2Proof.Machine.execFunctionReady b s
  | .unassignedEncoding r => Sys2Proof.Machine.execUnassignedEncoding r s
  | .unlistedMessageType port m => Sys2Proof.Machine.execUnlistedMessageType port m s
  | .flitCrcFailure l => Sys2Proof.Machine.execFlitCrcFailure l s
  | .nop => Sys2Proof.Machine.execNop s
  | .callx => Sys2Proof.Machine.execCallx s
  | .ret => Sys2Proof.Machine.execRet s
  | .done => Sys2Proof.Machine.execDone s
  | .tret => Sys2Proof.Machine.execTret s
  | .translationWalkComplete => Sys2Proof.Machine.execTranslationWalkComplete s
  | .calendarWindowAdvance => Sys2Proof.Machine.execCalendarWindowAdvance s
  | .bookingSearch => Sys2Proof.Machine.execBookingSearch s
  | .compaction => Sys2Proof.Machine.execCompaction s
  | .taskAged => Sys2Proof.Machine.execTaskAged s
  | .launchExpansion => Sys2Proof.Machine.execLaunchExpansion s
  | .icacheLoadComplete => Sys2Proof.Machine.execIcacheLoadComplete s
  | .selRecordWrite => Sys2Proof.Machine.execSelRecordWrite s
  | .ckpChunkCopy => Sys2Proof.Machine.execCkpChunkCopy s
  | .ckpCommitPublish => Sys2Proof.Machine.execCkpCommitPublish s
  | .ckpComplete => Sys2Proof.Machine.execCkpComplete s
  | .scopeUpdateComplete => Sys2Proof.Machine.execScopeUpdateComplete s
  | .synApply => Sys2Proof.Machine.execSynApply s
  | .phaserWaitArrival => Sys2Proof.Machine.execPhaserWaitArrival s
  | .timeWaitTest => Sys2Proof.Machine.execTimeWaitTest s
  | .graphNodeStart => Sys2Proof.Machine.execGraphNodeStart s
  | .waitNodePoll => Sys2Proof.Machine.execWaitNodePoll s
  | .replayComplete => Sys2Proof.Machine.execReplayComplete s
  | .packetRouteTimeout => Sys2Proof.Machine.execPacketRouteTimeout s
  | .attestationRequest => Sys2Proof.Machine.execAttestationRequest s
  | .attestationComplete => Sys2Proof.Machine.execAttestationComplete s
  | .deviceReset => Sys2Proof.Machine.execDeviceReset s
  | .identityKeyReady => Sys2Proof.Machine.execIdentityKeyReady s
  | .partitionZeroingComplete => Sys2Proof.Machine.execPartitionZeroingComplete s
  | .translationInvalidationComplete => Sys2Proof.Machine.execTranslationInvalidationComplete s

end Sys2Proof.Machine
end

