-- ==== Sys2Proof/Machine/Cycle.lean ====
section
/-! DEFINITION. What happens next: the order of the events and bundles of a cycle, and the fetch of a bundle
(spec/03_bundles.md R62, R85; spec/05_tasks.md R153, R160, R164; spec/13_consistency.md R271; spec/24_ordering.md R412). -/

namespace Sys2Proof.Machine

/-! ## Outside events -/

/-- What the host sends, in order (R369). -/
def Instr.hostSent : Instr → Bool
  | .hostWrite _ _ => true
  | .hostRead _ _ => true
  | .pctlWrite _ _ => true
  | .platformRegisterWrite _ _ => true
  | .attestationRequest => true
  | .replayMessage _ _ => true
  | .tenantMessage _ _ => true
  | .coreMessage _ _ => true
  | .phaserAreaMessage _ _ => true
  | .contextPreempt _ _ => true
  | .contextSliceEnd _ _ => true
  | .contextResume _ _ => true
  | .contextEnd _ _ => true
  | .contextEvict _ _ => true
  | .contextRestore _ _ => true
  | .contextCxid _ _ => true
  | .invalidateMessage _ _ => true
  | .pageDoneMessage _ _ => true
  | .virtualTimeMessage _ _ => true
  | .eventAreaMessage _ _ => true
  | .consumedMessage _ _ => true
  | .routeMessage _ _ => true
  | .portMessage _ _ => true
  | .unlistedMessageType _ _ => true
  | _ => false

/-- A message, which is discarded where it is sent before it can be heard, whatever waits before it (R403). -/
def Instr.isMessage : Instr → Bool
  | .hostWrite _ _ => false
  | .hostRead _ _ => false
  | .pctlWrite _ _ => false
  | .platformRegisterWrite _ _ => false
  | .attestationRequest => false
  | i => Instr.hostSent i

/-- An access whose home is not ready waits (R403). -/
def State.mustWait (s : State) : Instr → Bool
  | .hostWrite pa data => decide (pa + data.length ≤ Config.hbmEnd) && !s.dead && !s.spanReady pa data.length
  | .hostRead pa n => decide (pa + n ≤ Config.hbmEnd) && !s.dead && !s.spanReady pa n
  | .peerPacketReceive p => !s.dead && !s.peerReady p
  | .replayMessage port m => s.replayHeard port m && !s.graphReady m
  | .contextRestore port m => s.restoreWaits port m
  | .contextEnd port m => s.endWaits port m
  | .phaserAreaMessage port m => s.areaWaits port m
  | _ => false

/-- Accesses of the host and of peers at homes rank above those of the device's own contexts (R271): they come last in a cycle. -/
def Instr.late : Instr → Bool
  | .hostWrite pa data => decide (pa + data.length ≤ Config.hbmEnd)
  | .hostRead pa n => decide (pa + n ≤ Config.hbmEnd)
  | .peerPacketReceive _ => true
  | _ => false

/-- The first outside event that takes place now, before the rest of the cycle, and those that stay; `held`: host traffic before it
waits (notes/assumptions/12.md), and keeps back all but a message that is not heard (R369, R403). -/
def State.takeInput (s : State) (held : Bool) : List (Nat × Instr) → Option (Instr × List (Nat × Instr))
  | [] => none
  | (t, i) :: rest =>
    let host := Instr.hostSent i
    let now := decide (t ≤ s.now) && !Instr.late i && !s.mustWait i && !(host && held && (s.hears || !Instr.isMessage i))
    if now then some (i, rest)
    else (s.takeInput (held || host) rest).map fun r => (r.1, (t, i) :: r.2)

/-- The device that sent a packet. -/
def Instr.sender : Instr → Option Nat
  | .peerPacketReceive p => some p.dev
  | _ => none

/-- The access of a peer, of the lowest device number first, or of the host, in the order sent, that performs at the end of the
cycle (R271). -/
def State.lateInput (s : State) : Option (Nat × Instr) :=
  let may := fun (x : Nat × Instr) => decide (x.1 ≤ s.now) && !s.mustWait x.2
  let peers := s.inputs.filter fun x => (Instr.sender x.2).isSome && may x
  match (sortBy (fun (a b : Nat × Instr) => decide ((Instr.sender a.2).getD 0 ≤ (Instr.sender b.2).getD 0)) peers).head? with
  | some x => some x
  | none => (s.inputs.find? fun x => Instr.hostSent x.2).filter fun x => Instr.late x.2 && may x

/-! ## Events of the cycle -/

/-- For each of the eight contexts, an event where `p` holds. -/
def forCtxs (p : Nat → Bool) (i : Fin 8 → Instr) : List (Bool × Instr) := (List.finRange 8).map fun c => (p c.val, i c)

/-- For each of four columns, strips or channels. -/
def forCols (p : Nat → Bool) (i : Fin 4 → Instr) : List (Bool × Instr) := (List.finRange 4).map fun j => (p j.val, i j)

/-- The first event that is due. -/
def firstDue (l : List (Bool × Instr)) : Option Instr := (l.find? (·.1)).map (·.2)

/-- What comes before the bundles of the cycle: CAL, results of engines, pre-emptions (R205), landings, deliveries of traps. -/
def State.dueBefore (s : State) : List (Bool × Instr) :=
  [(s.compactNow, .compaction), (!s.searched, .bookingSearch)] ++
  forCols (fun j => (s.mtxFind j (·.loadDue s.now)).isSome) .mtxLoadPhaseComplete ++
  forCols (fun j => (s.mtxFind j (·.stepDue s.now)).isSome) .arrayStepComplete ++
  forCols (fun j => (s.mtxFind j (·.doneDue s.now)).isSome) .mtxCommandComplete ++
  [((s.selIn .complete).isSome, .selRecordWrite)] ++
  forCtxs s.preemptDue .preemption ++
  forCtxs s.landingsDue .resultLanding ++
  forCtxs (fun c => (s.fillDue c).isSome) .l1Fill ++
  forCtxs (fun c => !((s.ctx c).parksDue s.now).isEmpty) .parkedCompareResolve ++
  forCtxs (fun c => (s.heldPage c).isSome || s.heldDue c) .heldStorePerform ++
  forCtxs (fun c => (s.drainOver c).isSome || s.trapDue c) .trapDelivery

/-- The rank of a write to global memory (R271): context, source, number. -/
abbrev Rank := Nat × Nat × Nat

def Rank.below (a b : Rank) : Bool :=
  decide (a.1 < b.1) || (a.1 == b.1 && (decide (a.2.1 < b.2.1) || (a.2.1 == b.2.1 && decide (a.2.2 < b.2.2))))

/-- The writes that can perform at home slices in this cycle. -/
def State.globalWrites (s : State) : List (Rank × Instr) :=
  ((List.finRange 8).flatMap fun c => (List.finRange 4).filterMap fun j =>
    (s.storeDue c.val j.val).map fun _ => ((c.val, 0, 0), Instr.storePerform c j)) ++
  ((List.finRange 4).filterMap fun j => (s.landNext j.val).map fun l => ((l.ctx, 1 + l.counter, l.num), Instr.cpyPieceLand j)) ++
  ((s.ckLandNext.map fun l => ((l.ctx, 10, l.num), Instr.ckpChunkCopy)).toList) ++
  ((s.ckPubNext.map fun m => ((m.ctx, 10, m.num), Instr.ckpCommitPublish)).toList) ++
  ((s.synNext.map fun m => ((m.ctx, 11, m.num), Instr.synApply)).toList)

/-- The write of the lowest rank, the first of equal ones. -/
def lowestRank : List (Rank × Instr) → Option (Rank × Instr)
  | [] => none
  | x :: xs => match lowestRank xs with
    | none => some x
    | some y => if Rank.below y.1 x.1 then some y else some x

/-- A landing of channel `j` in a scratchpad, from the core itself or through network port `p`. -/
def State.padLanding (s : State) (p : Option Nat) (j : Nat) : Bool := (s.padNext j p).isSome

/-- What comes after the bundles: scratchpad writes of the engines in the order of R412, then writes by rank (R271). -/
def State.dueWrites (s : State) : List (Bool × Instr) :=
  forCols (fun j => (s.mtxFind j s.rowMay).isSome) .mxStRowWrite ++
  forCols (fun j => (s.cpDue j false).isSome) .cpyPieceEmit ++
  forCols (fun j => (s.cpDue j true).isSome) .tileDrainRow ++
  [((s.selIn .writing).isSome, .selRecordWrite)] ++
  ((List.finRange 4).flatMap fun j =>
    [(s.padLanding none j.val, Instr.cpyPieceLand j), ((s.foldDue j.val).isSome, Instr.rowRecordFold j)]) ++
  [(s.ckNext.isSome && (s.ckLandNext.all fun l => match l.part.1 with | .scratch _ => true | _ => false), .ckpChunkCopy),
   (s.synRecordNext.isSome, .synApply)] ++
  forCols (s.padLanding (some 0)) .cpyPieceLand ++ forCols (s.padLanding (some 1)) .cpyPieceLand ++
  (match lowestRank s.globalWrites with
    | some w => [(true, w.2)]
    | none => [])

/-- Completions, the port of SYN, and what the front end and the device do by themselves. -/
def State.dueAfter (s : State) : List (Bool × Instr) :=
  forCols (fun j => (s.cpFinished j).isSome) .cpyPieceLand ++
  forCols (fun j => (s.retryNext j).isSome) .cpyRetryEmit ++
  [((s.ckp.find? CkCmd.finished).isSome, .ckpComplete)] ++
  forCtxs (fun c => (s.signalReady c).isSome) .synSignalSend ++
  [(s.phArrivalDue.isSome, .phaserWaitArrival), (s.scopeDue.isSome, .scopeUpdateComplete),
   (s.walkDue.isSome, .translationWalkComplete), (s.loadDue.isSome, .icacheLoadComplete)] ++
  (match s.readyNext with
    | some f => [(true, .taskReady f)]
    | none => []) ++
  forCtxs s.freeable .contextFree ++ forCtxs s.graceOver .sliceEndGraceExpiry ++ forCtxs s.lastCellGone .overrunAfterLastCell ++
  forCtxs s.saveDue .contextImageSave ++
  [(s.timeNext.isSome, .timeWaitTest), (s.ageNext.isSome, .taskAged), (s.expandNext.isSome, .launchExpansion),
   (s.graphNext.isSome, .graphNodeStart), (s.pollNext.isSome, .waitNodePoll), (s.replayOver.isSome, .replayComplete),
   (s.routeTimedOut, .packetRouteTimeout), ((s.slowDue true).isSome, .partitionZeroingComplete),
   ((s.slowDue false).isSome, .translationInvalidationComplete), (s.reportDue, .attestationComplete),
   (s.powerDue, .powerInterval s.powerReading),
   (s.appendDue 0, .eventAppend 0), (s.appendDue 1, .eventAppend 1)] ++
  (List.finRange 12).map fun l => (s.linkLost l.val, .linkDown l)

/-! ## Bundles (R62, R164) -/

/-- The context whose bundle issues next. -/
def State.issuer (s : State) : Option (Fin 8) := (List.finRange 8).find? fun c => s.issues c.val

/-- The instructions of the bundle of context `c`. -/
def State.bundleOf (s : State) (c : Nat) : List Instr :=
  match (s.boundTask c).bind s.kernelOf with
  | some k => (k.bundle (s.ctx c).pc).map decodeTotal
  | none => []

/-- The bundle of context `c` goes to issue: its first instruction is executed, with the others after it. -/
def State.fetch (s : State) (c : Fin 8) : Option (Instr × State) :=
  match s.bundleOf c.val with
  | [] => none
  | i :: rest =>
    some (i, ({ s with issue := { ctx := c, before := [], after := rest } } : State).modCtx c.val fun x => { x with issuedAt := some s.now })

/-! ## What happens next -/

/-- The next instruction or event, and the state it finds. -/
def State.next (s : State) : Instr × State :=
  match s.takeInput false s.inputs with
  | some (i, rest) => (i, { s with inputs := rest })
  | none =>
    match firstDue s.dueBefore with
    | some i => (i, s)
    | none =>
      match s.issuer.bind s.fetch with
      | some r => r
      | none =>
        match firstDue s.dueWrites with
        | some i => (i, s)
        | none =>
          match s.lateInput with
          | some x => (x.2, { s with inputs := s.inputs.erase x })
          | none =>
            match firstDue s.dueAfter with
            | some i => (i, s)
            | none => (.calendarWindowAdvance, s)

/-! ## A state about to run one slot (notes/assumptions/36.md) -/

/-- A kernel of width 1 whose first bundle has the bytes of one slot before a nop; every later bundle is two nops. -/
def oneSlotKernel (bs : List Byte) : Kernel :=
  { tenant := 0, kimg := 0, width := 1, smode := false, strict := false, nfld := 0, fw := [0, 0, 0, 0, 0, 0], ncode := 64, kdat := 0,
    fxb := 0, segs := List.replicate 512 { entry := 0, fp0 := 0, fpn := 1, cs := 0 }, carry := [List.replicate 4 (0, 0)],
    fps := [{ std := true, creg := false, rep := 0, per := 0, len := 0, off := 0, res := 0 }],
    code := bs ++ List.replicate 381 0xFF, used := 0 }

/-- Its task, which runs on context 0. -/
def oneSlotTask (id : Nat) : Task :=
  { id := id, fra := 0, fsize := 704, tenant := 0, kimg := 0, width := 1, wid := 0, seg := 0, pri := 0, die := 0, launch := 0, lnch := 0,
    par := none, parFra := 0, nkid := 0, st := .bound, wait := .none, wsel := 0, ctx := some 0, readyAt := 0, aged := false,
    fresh := false, restore := false, inval := 0, cores := BitVec.allOnes 256, owes := [], joined := [], begun := true }

/-- Context 0 runs that kernel from its first bundle, and owns column 0 in every cycle; nothing else of the cycle is left to
do before it issues. -/
def State.withSlot (s : State) (bs : List Byte) : State :=
  { s with
    icache := oneSlotKernel bs :: s.icache
    tasks := oneSlotTask s.nextId :: s.tasks
    nextId := s.nextId + 1
    cal := { ctx := 0, res := 0, start := s.now, len := 1, per := 1, count := 0, std := true } :: s.cal
    ctxs := vset s.ctxs 0 { Ctx.init with run := .run s.now, task := some s.nextId }
    searched := true }

end Sys2Proof.Machine
end

