-- ==== Sys2Proof/Machine/Step.lean ====
section
/-! DEFINITION. One step: the next instruction or event takes place. -/

namespace Sys2Proof.Machine

/-- The machine's step. -/
def step (s : State) : Host.Outcome State Fault Refusal := let r := s.next; exec r.1 r.2

/-- The state in which the very next step runs the instruction with the bits `w` (notes/assumptions/36.md). -/
def State.withFetchWord (s : State) (_nbits w : Nat) : State := s.withSlot (bytesOfSlot (BitVec.ofNat 24 w))

end Sys2Proof.Machine
end

