-- ==== Sys2Proof/Safety.lean ====
section
/-! DEFINITION. What the statements speak of: a bundle that holds one instruction, what every bundle does as it commits,
results sent on their way, ports consumed, and the invariant of the machine. -/

namespace Sys2Proof.Machine

/-- Context `c` stands at a bundle boundary and issues a bundle of its kernel `k` with one instruction in slot `n`, `pre` in the slots
just below it, `post` in those just above it, and no-ops in the others (R61, R62); no held store keeps it at the boundary (R120, R265),
and the vector pools hold what their registers hold (R114). -/
structure Issues (s : State) (c n : Nat) (k : Kernel) (pre post : List Instr) : Prop where
  ctx : s.issue.ctx.val = c
  before : s.issue.before = List.replicate (n - pre.length) .nop ++ pre
  after : ∃ m, s.issue.after = post ++ List.replicate m .nop
  kernel : (s.boundTask c).bind s.kernelOf = some k
  bar : s.boundaryBar c = none
  pools : ∀ j, j < 4 → poolUse (vget (s.ctx c).clusters j Cluster.init) ≤ 16

/-- The instruction is alone in its bundle. -/
abbrev Alone (s : State) (c n : Nat) (k : Kernel) : Prop := Issues s c n k [] []

/-- The bundle that follows, through the ends of loops (R181), is a bundle of the kernel (R176). -/
def Ctx.GoesOn (x : Ctx) (k : Kernel) : Prop := (endIteration x.pc 5 x).1 < k.ncode

/-- The slot's guard is resolved and satisfied (R65). -/
def Ctx.Satisfied (x : Ctx) (inv : Bool) (g : Fin 16) : Prop := x.gstate inv g.val = .yes

/-- What every bundle does to its context as it commits, beside the effects of its slots: parked compares see the registers
(R109), the bundle is counted (R387), rnc moves by its `rs` stochastic roundings (R53), the pc moves on through the ends of loops
(R176, R181). -/
def Ctx.advance (x : Ctx) (now : Nat) (rs : Nat := 0) : Ctx :=
  let y := x.committed now rs none false
  let r := endIteration y.pc 5 y
  r.2.goTo r.1

/-- The machine after the bundle of context `c`. -/
def State.retired (s : State) (c : Nat) (rs : Nat := 0) : State := { s.modCtx c (·.advance s.now rs) with issue := {} }

/-- Reading vts raises the tenant's high-water mark (R385); no other source changes anything. -/
def State.readBy (s : State) (c : Nat) : Source → State
  | .vts => s.readVts (s.tenantOf c)
  | _ => s

/-- The source of a slot in kernel column `col` is full (R66) and supplies `as`, fitted to 2048 or 64 bits (R68). -/
def State.Supplies (s : State) (c : Nat) (k : Kernel) (col : Nat) (src : Source) (wide : Bool) (as : List (Alt 2048)) : Prop :=
  let r := s.source c k col none src
  r.empty = none ∧ fitAlts r.wide wide r.alts = as

/-- One unconditional value: no term, no grey mark (R111). -/
def IsValue (v : Vec) (as : List (Alt 2048)) : Prop :=
  ∃ a : Alt 2048, as = [a] ∧ a.val = v ∧ a.void = false ∧ a.term = [] ∧ a.grey = none

/-- A trigger reads one unconditional value from the operand port: the port holds it, or is empty and reads as it (R72). -/
def Ctx.PortIs (x : Ctx) (j : Nat) (p : Port) (v : Vec) : Prop :=
  IsValue v (x.alts (.port j p)) ∨ (x.alts (.port j p) = [] ∧ emptyPort p = some v)

/-- A source supplies one unconditional value, fitted. -/
def State.SourceIs (s : State) (c : Nat) (k : Kernel) (col : Nat) (src : Source) (wide : Bool) (v : Vec) : Prop :=
  ∃ as, s.Supplies c k col src wide as ∧ IsValue v as

/-- A 64-bit value in a place of 2048 bits (R68). -/
def ofWord (x : Word) : Vec := x.setWidth 2048

/-- Ports of column `j` of context `c` that a trigger with a satisfied guard reads are consumed: unheld values go (R72). -/
def State.consumed (s : State) (c j : Nat) (ps : List Port) : State :=
  s.modCtx c fun x => x.consumed j .yes ps

/-- No result in flight lands in the same place in the same cycle. -/
def State.LandsAlone (s : State) (c : Nat) (dest : Loc) (lat : Nat) : Prop :=
  ∀ f ∈ (s.ctx c).flight, ¬ (f.land = s.now + lat ∧ f.dest = dest)

/-- A result of the trigger in slot `n` is sent on its way: its alternatives land in `dest` after `lat` cycles (R10, R113). -/
def State.sends (s : State) (c n : Nat) (dest : Loc) (lat rank : Nat) (as : List (Alt 2048)) (flags : Flags := 0)
    (spill : Option (Loc × Vec) := none) (red : Option RedStep := none) : State :=
  { s.modCtx c fun x => { x with flight := x.flight ++
      [{ land := s.now + lat, seq := s.resultSeq, slot := n, pc := x.pc, rank := rank, dest := dest, alts := as,
         flags := flags, spill := spill, red := red }] } with
    resultSeq := s.resultSeq + 1 }

/-- The same for one unconditional value. -/
abbrev State.sent (s : State) (c n : Nat) (dest : Loc) (lat rank : Nat) (v : Vec) (flags : Flags := 0)
    (spill : Option (Loc × Vec) := none) (red : Option RedStep := none) : State :=
  s.sends c n dest lat rank [{ val := v }] flags spill red

/-! ## Triggers on single values -/

/-- A trigger stands in slot `n`, alone but for `pre` and `post`, under a satisfied guard, or one in the state `gs`; its ports and its
source, fitted to the width of t, supply single values. -/
structure Reads (s : State) (c n : Nat) (k : Kernel) (h : MoveHead) (ports : List (Port × Vec)) (wide : Bool) (t : Vec)
    (pre post : List Instr := []) (gs : GState := .yes) : Prop where
  alone : Issues s c n k pre post
  guard : (s.ctx c).gstate h.inv h.g.val = gs
  goesOn : (s.ctx c).GoesOn k
  ports : ∀ p ∈ ports, (s.ctx c).PortIs (n / 2) p.1 p.2
  source : s.SourceIs c k (n / 2) h.src wide t

/-- And its result lands in `dest` after `lat` cycles with no other. -/
structure Fires (s : State) (c n : Nat) (k : Kernel) (h : MoveHead) (ports : List (Port × Vec)) (wide : Bool) (t : Vec)
    (dest : Loc) (lat : Nat) (pre post : List Instr := []) (gs : GState := .yes) : Prop extends
    Reads s c n k h ports wide t pre post gs where
  lands : s.LandsAlone c dest lat

/-- The machine after such a bundle: the source read, the ports consumed, the result on its way, and nothing else but what
every bundle does. -/
def State.firedAs (s : State) (c n : Nat) (h : MoveHead) (ports : List Port) (dest : Loc) (lat rank : Nat) (as : List (Alt 2048))
    (flags : Flags := 0) (spill : Option (Loc × Vec) := none) (red : Option RedStep := none) (rs : Nat := 0) : State :=
  (((s.readBy c h.src).consumed c (n / 2) ports).sends c n dest lat rank as flags spill red).retired c rs

/-- That machine where the result is one unconditional value. -/
def State.fired (s : State) (c n : Nat) (h : MoveHead) (ports : List Port) (dest : Loc) (lat rank : Nat) (v : Vec)
    (flags : Flags := 0) (spill : Option (Loc × Vec) := none) (red : Option RedStep := none) (rs : Nat := 0) : State :=
  s.firedAs c n h ports dest lat rank [{ val := v }] flags spill red rs

/-- The move `#code -> rm` (R74). -/
def rmMove (code : Fin 5) : Instr :=
  .move { hold := false, trapEmpty := false, inv := false, g := 0, src := .small ⟨8 + code.val, by omega⟩ } .rm

/-- The rounding code of slot `n` of a bundle of kernel `k`: nearest, or what the other slot of its column word moves to rm (R74), a
destination that a kernel with columns has (R68). -/
inductive RoundsIn (k : Kernel) (n : Nat) : List Instr → List Instr → Nat → Prop
  | nearest : RoundsIn k n [] [] 0
  | above (m : Fin 5) : n % 2 = 0 → 0 < k.width → RoundsIn k n [] [rmMove m] m.val
  | below (m : Fin 5) : n % 2 = 1 → 0 < k.width → RoundsIn k n [rmMove m] [] m.val

/-- The rounding of an operation of context `c` under that code: stochastic rounding takes the context's key and counter (R52, R53). -/
def State.rnd (s : State) (c code : Nat) : Rnd := { code := code, rnk := (s.ctx c).rnk.toNat, rnc := (s.ctx c).rnc.toNat }

/-- By how much an operation that rounds under the code moves rnc (R53). -/
def drawn (code : Nat) : Nat := if code = 4 then 1 else 0

/-- The operations of R167 without flags, on the 64-bit values of ia.a and t. -/
def iaWordOps : List ((MoveHead → Instr) × (Word → Word → Word)) :=
  [(.iaAdd, fun a t => a + t), (.iaSub, fun a t => a - t), (.iaMul, fun a t => a * t),
   (.iaMulhI64, fun a t => ((a.signExtend 128 * t.signExtend 128) >>> 64).setWidth 64),
   (.iaAnd, fun a t => a &&& t), (.iaOr, fun a t => a ||| t), (.iaXor, fun a t => a ^^^ t),
   (.iaShl, fun a t => a <<< (t.toNat % 64)), (.iaShrN64, fun a t => a >>> (t.toNat % 64)),
   (.iaShrI64, fun a t => a.sshiftRight (t.toNat % 64)),
   (.iaMinI64, fun a t => if t.slt a then t else a), (.iaMaxI64, fun a t => if a.slt t then t else a),
   (.iaEq, fun a t => if a = t then 1 else 0), (.iaLtI64, fun a t => if a.slt t then 1 else 0),
   (.iaLtN64, fun a t => if a.ult t then 1 else 0)]

/-- The saturating operations of R167: the exact result. -/
def iaSatOps : List ((MoveHead → Instr) × (Int → Int → Int)) := [(.iaAddsI64, fun a t => a + t), (.iaSubsI64, fun a t => a - t)]

/-- A number clamped to the signed 64-bit range. -/
def clamp64 (x : Int) : Int := max (-(2 ^ 63)) (min (2 ^ 63 - 1) x)

/-! ## Vectors element by element -/

/-- Lane `i` of a vector as a word of 32 bits. -/
def laneW (v : Vec) (i : Nat) : BitVec 32 := v.extractLsb' (32 * i) 32

/-- The result `r` and the flags of an operation that works element by element under the mask `m`: an inactive element keeps
t, and the flags are those of the active ones (R215, R216). -/
structure ByElement (w : Nat) (m t : Vec) (f : Nat → Nat × Flags) (r : Vec) (fl : Flags) : Prop where
  value : ∀ e, e < 2048 / w → elem w r e = if active w m e then (f e).1 % 2 ^ w else elem w t e
  flags : ∀ b, fl.getLsbD b = true ↔ ∃ e, e < 2048 / w ∧ active w m e = true ∧ (f e).2.getLsbD b = true

/-- The integer and bitwise operations of R218, and va.csgn (R219), on lanes of va.a and t. -/
def vaWordOps : List ((MoveHead → Instr) × (BitVec 32 → BitVec 32 → BitVec 32)) :=
  [(.vaAddI32, fun a t => a + t), (.vaSubI32, fun a t => a - t), (.vaMulI32, fun a t => a * t),
   (.vaMinI32, fun a t => if t.slt a then t else a), (.vaMaxI32, fun a t => if a.slt t then t else a),
   (.vaMinN32, fun a t => if t.ult a then t else a), (.vaMaxN32, fun a t => if a.ult t then t else a),
   (.vaAnd, fun a t => a &&& t), (.vaOr, fun a t => a ||| t), (.vaXor, fun a t => a ^^^ t),
   (.vaShl, fun a t => a <<< (t.toNat % 32)), (.vaShrN32, fun a t => a >>> (t.toNat % 32)),
   (.vaShrI32, fun a t => a.sshiftRight (t.toNat % 32)),
   (.vaCsgn, fun a t => (t &&& 0x7FFFFFFF#32) ||| (a &&& 0x80000000#32))]

/-- Each instruction carries its port code in bits [8:0] of its slot, with every move head (R67). -/
def Codes (ops : List (MoveHead → Instr)) (codes : List (BitVec 9)) : Prop :=
  ops.length = codes.length ∧ ∀ p ∈ ops.zip codes, ∀ h, (encode (p.1 h)).setWidth 9 = p.2

/-- The operations of R219 on lanes of t alone. -/
def vaSignOps : List ((MoveHead → Instr) × (BitVec 32 → BitVec 32)) :=
  [(.vaAbs, fun t => t &&& 0x7FFFFFFF#32), (.vaNeg, fun t => t ^^^ 0x80000000#32)]

/-- The images of R225: every lane of t, without a mask. -/
def vaImageOps : List ((MoveHead → Instr) × (BitVec 32 → BitVec 32)) :=
  [(.vaImgF32, fun t => if t.msb then ~~~t else t ^^^ 0x80000000#32),
   (.vaUimgF32, fun t => if t.msb then t ^^^ 0x80000000#32 else ~~~t)]

/-- The operations of R216 with two operands that round: format and what they do to an element of va.a and of t. -/
def vaFloatOps : List ((MoveHead → Instr) × Fmt × (Fmt → RMode → Nat → Nat → FRes)) :=
  [(.vaAddF32, f32, fAdd), (.vaAddH16, h16, fAdd), (.vaAddB16, b16, fAdd), (.vaSubF32, f32, fSub), (.vaSubH16, h16, fSub),
   (.vaSubB16, b16, fSub), (.vaMulF32, f32, fMul), (.vaMulH16, h16, fMul), (.vaMulB16, b16, fMul)]

/-- Those that select, and ignore rm. -/
def vaSelectOps : List ((MoveHead → Instr) × Fmt × Bool) :=
  [(.vaMinF32, f32, false), (.vaMinH16, h16, false), (.vaMinB16, b16, false),
   (.vaMaxF32, f32, true), (.vaMaxH16, h16, true), (.vaMaxB16, b16, true)]

/-- va.fma in its three formats. -/
def vaFmaOps : List ((MoveHead → Instr) × Fmt) := [(.vaFmaF32, f32), (.vaFmaH16, h16), (.vaFmaB16, b16)]

/-- The compares of R217 and R218 to a lane mask. -/
def vaCompareOps : List ((MoveHead → Instr) × (BitVec 32 → BitVec 32 → Bool × Flags)) :=
  [(.vaLtF32, fun a t => fCmp f32 .lt a.toNat t.toNat), (.vaLeF32, fun a t => fCmp f32 .le a.toNat t.toNat),
   (.vaEqF32, fun a t => fCmp f32 .eq a.toNat t.toNat), (.vaLtI32, fun a t => (a.slt t, 0)), (.vaEqI32, fun a t => (a == t, 0))]

/-- The conversions of R222 lane by lane. -/
def vaLaneConversions : List ((MoveHead → Instr) × (RMode → Nat → FRes)) := [(.vaCvtF32I32, i32ToF), (.vaCvtI32F32, fToI32)]

/-- The narrowing conversions of R222. -/
def vaNarrowings : List ((MoveHead → Instr) × Fmt) :=
  [(.vaCvtH16F32, h16), (.vaCvtB16F32, b16), (.vaCvtE43F32, e43), (.vaCvtE52F32, e52)]

/-- The widening conversions of R222. -/
def vaWidenings : List ((MoveHead → Instr) × Fmt) :=
  [(.vaCvtF32H16, h16), (.vaCvtF32B16, b16), (.vaCvtF32E43, e43), (.vaCvtF32E52, e52)]

/-- The packings of R223 and their width codes. -/
def vaPackings : List ((MoveHead → Instr) × Nat) := [(.vaPkSx4, 0), (.vaPkSx6, 1), (.vaPkSx8, 2), (.vaPkSx16, 3)]

/-- The special functions of R229 on t alone, with their latencies. -/
def sfnOps : List ((MoveHead → Instr) × Nat × (RMode → Nat → FRes)) :=
  [(.sfSqrtF32, 14, fSqrt), (.sfRsqrtF32, 10, fRsqrt), (.sfExp2F32, 8, fExp2), (.sfLog2F32, 8, fLog2)]

/-- Every trigger of the table. -/
def triggers : List (MoveHead → Instr) :=
  [.iaAdd, .iaSub, .iaMul, .iaMulhI64, .iaAnd, .iaOr, .iaXor, .iaShl, .iaShrN64, .iaShrI64, .iaMinI64, .iaMaxI64,
   .iaAddsI64, .iaSubsI64, .iaEq, .iaLtI64, .iaLtN64, .iaCqEq, .iaCqLtI64, .iaCqLtN64, .iaCgEq, .iaCgLtI64, .iaCgLtN64,
   .iaSrd, .iaSwr, .iaPopc, .vaAddF32, .vaAddH16, .vaAddB16, .vaSubF32, .vaSubH16, .vaSubB16, .vaMulF32, .vaMulH16,
   .vaMulB16, .vaFmaF32, .vaFmaH16, .vaFmaB16, .vaMinF32, .vaMinH16, .vaMinB16, .vaMaxF32, .vaMaxH16, .vaMaxB16,
   .vaLtF32, .vaLeF32, .vaEqF32, .vaAddI32, .vaSubI32, .vaMulI32, .vaAddsI32, .vaMinI32, .vaMaxI32, .vaMinN32, .vaMaxN32,
   .vaAnd, .vaOr, .vaXor, .vaShl, .vaShrN32, .vaShrI32, .vaLtI32, .vaEqI32, .vaAbs, .vaNeg, .vaCsgn, .vaCvtF32I32,
   .vaCvtI32F32, .vaCvtH16F32, .vaCvtB16F32, .vaCvtF32H16, .vaCvtF32B16, .vaCvtE43F32, .vaCvtE52F32, .vaCvtF32E43,
   .vaCvtF32E52, .vaPkSx4, .vaPkSx6, .vaPkSx8, .vaPkSx16, .vaUpk, .vaImgF32, .vaUimgF32, .vaPln, .vaUpln, .vaPerm,
   .vaBcast, .vaCmpr, .vaExpd, .vaSel, .sfDivF32, .sfSqrtF32, .sfRsqrtF32, .sfExp2F32, .sfLog2F32, .lsLdN8, .lsLdN16,
   .lsLdN32, .lsLdI32, .lsLd64, .lsLdQ, .lsLdV, .lsSt8, .lsSt16, .lsSt32, .lsSt64, .lsStQ, .lsStV, .rdSumF32, .rdSumI32,
   .rdMaxF32, .rdMinF32, .rdMaxI32, .rdMinI32, .rdAmaxF32, .rdAminF32, .rdSet]

/-! ## Compares, reductions, control words -/

/-- The relations of the compares to cq and to guards (R108, R174). -/
def wordRelations : List ((MoveHead → Instr) × (MoveHead → Instr) × (Word → Word → Bool)) :=
  [(.iaCqEq, .iaCgEq, fun a t => a == t), (.iaCqLtI64, .iaCgLtI64, fun a t => a.slt t), (.iaCqLtN64, .iaCgLtN64, fun a t => a.ult t)]

/-- One bit as a word. -/
def ofBit (b : Bool) : Word := if b then 1 else 0

/-- The machine as the bundle of context `c` traps at its boundary: nothing of it takes effect (R193, R196, R200). -/
def State.trapped (s : State) (c slot : Nat) (cause : Cause) (info : Nat := 0) : State :=
  { s.issueTrap c slot cause info with issue := {} }

/-- The machine after a collapse in slot `n` that guard `g` blocks: in shade mode it traps, with a compare parked on the guard it waits, and
without one it traps (R116-R118). -/
def State.collapsing (s : State) (c n : Nat) (k : Kernel) (g : Nat) : State :=
  let t := s.modCtx c (·.count 3)
  if k.smode then t.trapped c n cShadeMode
  else if (s.ctx c).hasPark g then { t.forceYield c (.guard g n) with issue := {} } else t.trapped c n cNoResolver

/-- The machine after a bundle of context `c` that commits with the context `y`: its pc moves on through the ends of loops (R181). -/
def State.flows (s : State) (c : Nat) (y : Ctx) : State :=
  { s.modCtx c fun _ => (endIteration y.pc 5 y).2.goTo (endIteration y.pc 5 y).1 with issue := {} }

/-- An alternative of value `v` under the term `t`, without a grey mark (R110, R111). -/
def Alt.IsUnder (a : Alt 2048) (v : Vec) (t : Term) : Prop := a.val = v ∧ a.term = t ∧ a.void = false ∧ a.grey = none

/-- A void alternative under the term `t` (R111). -/
def Alt.IsVoid (a : Alt 2048) (t : Term) : Prop := a.term = t ∧ a.void = true

/-- The active lanes of a mask, ascending. -/
def lanesOf (m : Word) : List Nat := (List.range 64).filter fun i => m.getLsbD i

/-- A float fold (R233): it starts at the low 32 bits of the latch; the flags of its steps are ORed; `op` is told the lane. -/
def floatFold (op : Nat → Nat → Nat → FRes) (m v : Word) (t : Vec) : Word × Flags :=
  let r := (lanesOf m).foldl (fun (a : FRes) i => let r := op i a.1 (lane t i); (r.1, a.2 ||| r.2)) (v.toNat % 2 ^ 32, 0)
  (BitVec.ofNat 64 r.1, r.2)

/-- The folds of R232 and R233 that do not round, over the active lanes of t, from what the latch held; the latch's new 64 bits and the
flags. -/
def redFolds : List ((MoveHead → Instr) × (Word → Word → Vec → Word × Flags)) :=
  [(.rdSumI32, fun m v t => ((lanesOf m).foldl (fun a i => a + (laneW t i).signExtend 64) v, 0)),
   (.rdMaxI32, fun m v t => (((lanesOf m).foldl (fun a i => if a.slt (laneW t i) then laneW t i else a) (v.setWidth 32)).signExtend 64, 0)),
   (.rdMinI32, fun m v t => (((lanesOf m).foldl (fun a i => if (laneW t i).slt a then laneW t i else a) (v.setWidth 32)).signExtend 64, 0)),
   (.rdMaxF32, floatFold fun _ => fMinMax f32 true), (.rdMinF32, floatFold fun _ => fMinMax f32 false)]

/-- rd.amax.f32 and rd.amin.f32: the latch holds value, index and chunk number; the index of a lane is 64 × chunk + lane (R233). -/
def redArgs : List ((MoveHead → Instr) × (Nat → Nat → Bool)) :=
  [(.rdAmaxF32, fun old new => decide (old < new)), (.rdAminF32, fun old new => decide (new < old))]

/-- A lane better than the best so far replaces value and index. -/
def argFold (better : Nat → Nat → Bool) (chunk : BitVec 16) (t : Vec) (ls : List Nat) (best : BitVec 32 × BitVec 16) :
    BitVec 32 × BitVec 16 :=
  ls.foldl (fun a i => if better (image f32 a.1.toNat) (image f32 (lane t i)) then (laneW t i, chunk * 64 + BitVec.ofNat 16 i) else a) best

/-- The RED cell is owned, and the latch `q` will hold the one value `v` when earlier RED triggers have landed (R231-R234). -/
structure RedReady (s : State) (c : Nat) (q : Word) (v : Word) : Prop where
  owns : s.owns c 13 s.now = true
  latch : q.toNat < 4
  held : IsValue (ofWord v) ((s.ctx c).chained q.toNat)

/-- What a result keeps of its fold computes `fold` from the one value of its latch (R232). -/
def RedStep.Folds (r : RedStep) (fold : Word → Word × Flags) : Prop :=
  ∀ (v : Word) as, IsValue (ofWord v) as →
    (r.formed as).alts = [{ val := ofWord (fold v).1 }] ∧ (r.formed as).flags = (fold v).2

/-- The spill register that the control word `b` names, in column `j` (R220, R221). -/
def Ctx.spill (x : Ctx) (j : Nat) (b : Vec) : Loc := .v j (physV x.rb ((laneW b 0).toNat % 16))

/-- The control word is legal and its spill register full. -/
def Ctx.SpillReady (x : Ctx) (j : Nat) (b : Vec) : Prop := (laneW b 0).toNat < 128 ∧ x.isFull (x.spill j b) = true

/-- The register that a destination names (R70, R183). -/
def Ctx.registerOf (x : Ctx) : Dest → Option Loc
  | .s cl r => some (.s cl.val (physS x.rb r.val))
  | .v cl r => some (.v cl.val (physV x.rb r.val))
  | .m cl r => some (.m cl.val r.val)
  | _ => none

/-! ## Loads and stores -/

/-- The loads: kind, bytes and what the bytes give (R263). -/
def loads : List ((MoveHead → Instr) × LdKind × Nat × (List Byte → Vec)) :=
  [(.lsLdN8, .n8, 1, fun bs => BitVec.ofNat 2048 (ofLeBytes bs)), (.lsLdN16, .n16, 2, fun bs => BitVec.ofNat 2048 (ofLeBytes bs)),
   (.lsLdN32, .n32, 4, fun bs => BitVec.ofNat 2048 (ofLeBytes bs)),
   (.lsLdI32, .i32, 4, fun bs => ofWord ((BitVec.ofNat 32 (ofLeBytes bs)).signExtend 64)),
   (.lsLd64, .d64, 8, fun bs => BitVec.ofNat 2048 (ofLeBytes bs)), (.lsLdQ, .q, 16, fun bs => BitVec.ofNat 2048 (ofLeBytes bs)),
   (.lsLdV, .v, 256, fun bs => BitVec.ofNat 2048 (ofLeBytes bs))]

/-- The stores: bytes, and whether t is a vector (R264). -/
def stores : List ((MoveHead → Instr) × Nat × Bool) :=
  [(.lsSt8, 1, false), (.lsSt16, 2, false), (.lsSt32, 4, false), (.lsSt64, 8, false), (.lsStQ, 16, true), (.lsStV, 256, true)]

/-- Where a load lands: ls.o, or the register that bits 62-57 of ls.a name under bit 63 (R250, R259). -/
inductive LoadsTo (x : Ctx) (j : Nat) (a : Word) : Loc → Prop
  | latch : a.getLsbD 63 = false → LoadsTo x j a (.lsO j)
  | scalar : a.getLsbD 63 = true → fld a.toNat 57 6 < 32 → LoadsTo x j a (.s j (physS x.rb (fld a.toNat 57 6)))
  | vector : a.getLsbD 63 = true → 32 ≤ fld a.toNat 57 6 → fld a.toNat 57 6 < 48 →
      LoadsTo x j a (.v j (physV x.rb (fld a.toNat 57 6 - 32)))

/-- A value as its place holds it: 64 bits in a scalar register. -/
def Loc.fits (l : Loc) (v : Vec) : Vec := match l with | .s _ _ => v &&& ofWord (BitVec.allOnes 64) | _ => v

/-- A value as its place holds it: 64 bits where it is no vector place (R68). -/
def Loc.holds (l : Loc) (v : Vec) : Vec := if l.isVec then v else (v.setWidth 64).setWidth 2048

/-- The window byte `ea` lies in the columns of the kernel, aligned to `n` bytes, in a bank that the context owns and may use in
this cycle (R251-R253). -/
structure InWindow (s : State) (c : Nat) (k : Kernel) (ea n : Nat) : Prop where
  inside : ea < 8 * k.width * 65536
  core : ea < columnBytes * lcoreWidth s.mode.toNat
  window : ea < windowEnd
  aligned : ea % n = 0
  owned : s.owns c (bankRes (s.ctx c).base ea) s.now = true
  idle : s.occupied (bankRes (s.ctx c).base ea) s.now = false

/-- The global byte `ea` is translated to the HBM address `pa` for such an access (R291, R292, R262). -/
structure InGlobal (s : State) (c ea n : Nat) (wr : Bool) (p : Place) : Prop where
  outside : windowEnd ≤ ea
  aligned : ea % n = 0
  page : s.pageOf c ea (!wr) wr = some (.ok p)
  space : p.space = 0
  header : wr = true → s.headerHit (s.tenantOf c) ea n = false

/-- Byte `a` of the scratchpad is one that the held store writes. -/
def HeldStore.writes (h : HeldStore) (a : Nat) : Bool := h.scratch && decide (h.pa ≤ a) && decide (a < h.pa + h.size)

/-- Byte `a` of the scratchpad, which reads as `b`, under held stores, the youngest of which stands last (R121). -/
def heldOver (held : List HeldStore) (a : Nat) (b : Byte) : Byte :=
  held.foldl (fun b h => if h.writes a then h.data.extractLsb' (8 * (a - h.pa)) 8 else b) b

/-- No held store may write one of the `n` bytes of global memory at `pa`, which the program names `va` (R119, R121): addresses of global
memory are compared by `va` where the store has no translation (notes/assumptions/28.md). -/
def Ctx.NoneHeld (x : Ctx) (pa va n : Nat) : Prop :=
  ∀ h ∈ x.held, h.scratch = false →
    if h.placed then h.pa + h.size ≤ pa ∨ pa + n ≤ h.pa else h.va + h.size ≤ va ∨ va + n ≤ h.va

/-- No held store writes one of the `n` bytes of the scratchpad at `key`. -/
def Ctx.NoneHeldIn (x : Ctx) (key n : Nat) : Prop := ∀ h ∈ x.held, ∀ i, i < n → h.writes (key + i) = false

/-- An access of `n` bytes at `ea` that the instruction may not make: its cause and tinf. An address beyond the scratchpad of the logical
core is refused before its alignment is checked (notes/assumptions/47.md); a bank's cell goes before the alignment too (R196). -/
inductive Refused (s : State) (c : Nat) (k : Kernel) (ea n : Nat) (wr : Bool) : Cause → Nat → Prop
  | beyond : ea < windowEnd → columnBytes * lcoreWidth s.mode.toNat ≤ ea → Refused s c k ea n wr cPermission ea
  | column : ea < windowEnd → ea < columnBytes * lcoreWidth s.mode.toNat → 8 * k.width * 65536 ≤ ea →
      Refused s c k ea n wr cOverrun (15 + ea / 65536)
  | bank : ea < windowEnd → ea < columnBytes * lcoreWidth s.mode.toNat → ea < 8 * k.width * 65536 → (s.ctx c).base + k.width ≤ 4 →
      (s.owns c (bankRes (s.ctx c).base ea) s.now = false ∨ s.occupied (bankRes (s.ctx c).base ea) s.now = true) →
      Refused s c k ea n wr cOverrun (15 + ea / 65536)
  | unaligned : ea < windowEnd → ea < columnBytes * lcoreWidth s.mode.toNat → ea < 8 * k.width * 65536 →
      s.owns c (bankRes (s.ctx c).base ea) s.now = true → s.occupied (bankRes (s.ctx c).base ea) s.now = false → ea % n ≠ 0 →
      Refused s c k ea n wr cAlignment ea
  | misaligned : windowEnd ≤ ea → ea % n ≠ 0 → Refused s c k ea n wr cAlignment ea
  | denied : windowEnd ≤ ea → ea % n = 0 → s.pageOf c ea (!wr) wr = some .denied → Refused s c k ea n wr cPermission ea
  | poisoned : windowEnd ≤ ea → ea % n = 0 → s.pageOf c ea (!wr) wr = some .poisoned → Refused s c k ea n wr cPoison ea
  | space (p : Place) : windowEnd ≤ ea → ea % n = 0 → s.pageOf c ea (!wr) wr = some (.ok p) → p.space ≠ 0 →
      Refused s c k ea n wr cPermission ea
  | header (p : Place) : wr = true → windowEnd ≤ ea → ea % n = 0 → s.pageOf c ea (!wr) wr = some (.ok p) →
      s.headerHit (s.tenantOf c) ea n = true → Refused s c k ea n wr cPermission ea

/-- The bytes stored. -/
def storedBytes (n : Nat) (t : Vec) : List Byte := (List.range n).map fun i => t.extractLsb' (8 * i) 8

/-! ## Engine commands -/

/-- An engine command stands alone in slot `n`; its column's engines exist. -/
structure Commands (s : State) (c n : Nat) (k : Kernel) (h : EngHead) : Prop where
  alone : Alone s c n k
  goesOn : (s.ctx c).GoesOn k
  place : (s.ctx c).base + n / 2 < 4

/-- What the slot gives the command (R79): staging words of its set. -/
def State.engEnv (s : State) (c n : Nat) (h : EngHead) : EngEnv :=
  let word := fun i => (vget ((s.ctx c).col (n / 2)).sg (4 * h.set.val + i) 0).toNat
  { slot := n, col := n / 2, w0 := word 0, w1 := word 1, w2 := word 2, w3 := word 3 }

/-- The bundle before its slots are examined. -/
def State.work (s : State) (c : Nat) (k : Kernel) : Work := { c := c, k := k, s0 := s, s := s }

/-- No check of the command keeps it from issuing (R80, R196). -/
def Work.Accepted (w : Work) : Prop := w.empties = [] ∧ w.collapses = [] ∧ w.stops = []

/-- What an engine command leaves as it was at its issue: registers, latches, ports, guards, flags and memories. -/
def Issued (s t : State) (c : Nat) : Prop :=
  (t.ctx c).clusters = (s.ctx c).clusters ∧ (t.ctx c).cols = (s.ctx c).cols ∧ (t.ctx c).rd = (s.ctx c).rd ∧
  (t.ctx c).guards = (s.ctx c).guards ∧ (t.ctx c).nst = (s.ctx c).nst ∧ (t.ctx c).cq = (s.ctx c).cq ∧
  t.mem = s.mem ∧ t.spad = s.spad ∧ t.hostMem = s.hostMem

/-- The matrix commands, with what examines each (R243-R248). -/
def matrixCommands (p : Fin 16) : List ((EngHead → Instr) × MOp × (Work → EngEnv → Work)) :=
  [(fun h => .mxStep h p, .step, fun w e => w.mxStep e p.val), (fun h => .mxRun h p, .run, fun w e => w.mxRun e p.val),
   (fun h => .mxZero h p, .zero, fun w e => w.mxZero e p.val), (fun h => .mxLdb h p, .ldb, fun w e => w.mxLdb e p.val),
   (fun h => .mxSt h p, .st, fun w e => w.mxSt e p.val)]

/-- The copy commands (R317-R321). -/
def copyCommands (p : Fin 16) : List ((EngHead → Instr) × CpOp × (Work → EngEnv → Work)) :=
  [(.cpXfer, .xfer, fun w e => w.cpXfer e false), (fun h => .cpTile h p, .tile, fun w e => w.cpDrain e p.val false),
   (fun h => .cpTsa h p, .tsa, fun w e => w.cpDrain e p.val true), (.cpFill, .fill, fun w e => w.cpXfer e true)]

/-- The selection commands (R345-R352). -/
def selectCommands : List ((EngHead → Instr) × SelOp × (Work → EngEnv → Work)) :=
  [(.slRank, .rank, fun w e => w.selIssue e .rank), (.slWqnt, .wqnt, fun w e => w.selIssue e .wqnt),
   (.slThr, .thr, fun w e => w.selIssue e .thr)]

/-- The checkpoint commands (R358, R359). -/
def checkpointCommands : List ((EngHead → Instr) × CkOp × (Work → EngEnv → Work)) :=
  [(.ckSnap, .snap, fun w e => w.ckpIssue e .snap), (.ckLoad, .load, fun w e => w.ckpIssue e .load),
   (.ckCommit, .commit, fun w e => w.ckpIssue e .commit), (.ckDrop, .drop, fun w e => w.ckpIssue e .drop)]

/-- The synchronisation commands: operation and its number among the atomics and reductions (R330-R333). -/
def syncCommands (p : Fin 16) : List ((EngHead → Instr) × SyOp × Nat) :=
  [(fun h => .syReg h p, .reg, p.val), (.syDrop, .drop, 0), (.sySig, .sig, 0), (.syNext, .next, 0), (.syBase, .base, 0),
   (.syAmoLd, .amo, 0), (.syAmoSwap, .amo, 1), (.syAmoCas, .amo, 2), (.syAmoAdd, .amo, 3), (.syAmoAnd, .amo, 4), (.syAmoOr, .amo, 5),
   (.syAmoXor, .amo, 6), (.syAmoMax, .amo, 7), (.syAmoMin, .amo, 8), (.syRedAdd, .red, 0), (.syRedAddF32, .red, 1),
   (.syRedMaxF32, .red, 2), (.syRedMinF32, .red, 3)]

/-- Every engine command with its timeline counter in column `j` (R24, R78). -/
def engineCommands (p : Fin 16) (j : Nat) : List ((EngHead → Instr) × Nat) :=
  (matrixCommands p).map (fun x => (x.1, j)) ++ (copyCommands p).map (fun x => (x.1, 4 + j)) ++
  selectCommands.map (fun x => (x.1, 8)) ++ checkpointCommands.map (fun x => (x.1, 9)) ++
  (syncCommands p).map (fun x => (x.1, 10)) ++ [(fun h => .scopeSet h p, 11), (fun h => .scopeClr h p, 11)]

/-! ## Control ops -/

/-- The machine after a bundle of context `c` whose control op goes on at bundle `t`, once `f` has changed the context. -/
def State.jumped (s : State) (c : Nat) (f : Ctx → Ctx) (t : Nat) : State :=
  { s.modCtx c fun x => (f (x.committed s.now 0 none false)).goTo t with issue := {} }

/-- What `i` does where it goes to the signed index `t`: the kernel's last bundle bounds it (R176). -/
def GoesTo (s : State) (c n : Nat) (k : Kernel) (i : Instr) (s' : State) (f : Ctx → Ctx) (t : Int) : Prop :=
  (0 ≤ t → t < k.ncode → exec i s = .next (s'.jumped c f t.toNat)) ∧
  (t < 0 ∨ (k.ncode : Int) ≤ t → exec i s = .next (s.trapped c n cBranchTarget))

/-- Nothing of the context is unresolved: no guard open, no compare parked, no store held (R116). -/
def Ctx.settled (x : Ctx) : Prop := x.lowestOpen = none ∧ x.parked = [] ∧ x.held = []

/-- The registers that segment `q` carries are full (R137). -/
def Ctx.Carries (x : Ctx) (k : Kernel) (q : Nat) : Prop :=
  ∀ j, j < k.width → (∀ r ∈ k.carriedS q j, x.isFull (.s j (physS x.rb r)) = true) ∧ ∀ r ∈ k.carriedV q j, x.isFull (.v j (physV x.rb r)) = true

/-- A task op stands alone: nothing unresolved, no loop or call open, no denial latched, the registers that segment `q` carries
full (R116, R137, R182, R315), and the homes of the memory it reads and writes ready (R403). -/
structure MayLeave (s : State) (c n : Nat) (k : Kernel) (t : Task) (q : Nat) : Prop where
  alone : Alone s c n k
  task : s.boundTask c = some t
  named : ∀ u ∈ s.tasks, u.id = t.id → u = t
  settled : (s.ctx c).settled
  loops : (s.ctx c).loops = []
  links : (s.ctx c).links = []
  latches : ∀ i, i < 12 → ((s.ctx c).timeline i).latch = none
  segment : q < k.nseg
  wide : k.width ≤ 4
  carried : (s.ctx c).Carries k q
  goesOn : s.cancelRead t = .ok false
  homes : s.readsReady t.tenant (s.leaveSpans t k) = true

/-- The yields and syncc with their waits (R25, R82, R137, R146), for the argument in ix and in a scalar register; a wait that the
operands do not allow traps instead, under the condition given. -/
inductive YieldsFor (s : State) (c n : Nat) (q : BitVec 9) : Instr → Wait → Prop where
  | timeline (i : Fin 16) : i.val ≤ 11 → ((s.ctx c).col (n / 2)).ix.toNat ≤ ((s.ctx c).timeline i.val).issued →
      YieldsFor s c n q (.yieldTl i q) (.timeline i.val ((s.ctx c).col (n / 2)).ix.toNat)
  | arrival (i : Fin 16) : YieldsFor s c n q (.yieldArr i q)
      (.arrival (s.windowKey (s.ctx c).base ((s.ctx c).sval (n / 2) i.val % 2 ^ 57)) (((s.ctx c).col (n / 2)).ix.toNat % 2 ^ 32))
  | guard (i : Fin 16) : i.val ≠ 0 → YieldsFor s c n q (.yieldGrd i q) .guard
  | queue : (s.ctx c).cq ≠ [] → YieldsFor s c n q (.yieldCq q) .cq
  | phaser (i : Fin 16) : badPhaser ((s.ctx c).col (n / 2)).ix.toNat = false → YieldsFor s c n q (.yieldPh i q)
      (.phaser (((s.ctx c).col (n / 2)).ix.toNat % 2 ^ 32) ((s.ctx c).sval (n / 2) i.val % 2 ^ 32))
  | pager : s.futureBad ((s.ctx c).col (n / 2)).ix.toNat = false → YieldsFor s c n q (.yieldPg q) (.pager ((s.ctx c).col (n / 2)).ix.toNat)
  | time : YieldsFor s c n q (.yieldTime q) (.time ((s.ctx c).col (n / 2)).ix.toNat)
  | children : YieldsFor s c n q (.syncc q) .children

/-! ## Events -/

/-- `i` happens without a stop, and leaves the memories and every context's registers as they are. -/
def Quietly (s : State) (i : Instr) (p : State → Prop) : Prop :=
  ∃ t, exec i s = .next t ∧ t.mem = s.mem ∧ t.spad = s.spad ∧ t.hostMem = s.hostMem ∧ t.now = s.now ∧
    (∀ c, c < 8 → (t.ctx c).clusters = (s.ctx c).clusters ∧ (t.ctx c).guards = (s.ctx c).guards ∧ (t.ctx c).pc = (s.ctx c).pc) ∧ p t

/-- Operation `num` of context `c` is over on counter `i` (R24). -/
def Over (t : State) (c i num : Nat) : Prop := num ∉ ((t.ctx c).timeline i).out

/-- One advance of a phaser (R327). -/
def Phaser.next (r : Phaser) : Phaser :=
  { r with phase := (r.phase + 1) % 2 ^ 32, nreg := r.nreg + r.dreg1, dreg1 := 0, narr := r.narr1, narr1 := 0 }

/-- The advance condition tested once. -/
def Phaser.tested (r : Phaser) : Phaser := if 1 ≤ r.nreg ∧ r.nreg ≤ r.narr then r.next else r

/-- A phaser command `m` stands at SYN, on a record that is resident or for which there is room, without waiters (R325, R330). -/
structure AtPhaser (s : State) (m : SynCmd) : Prop where
  turn : s.synRecordNext = none ∧ s.synNext = some m
  quiet : s.phWaits = []
  room : s.phasers.length + m.records.2.2 ≤ 4096

/-- The command gets status `st` and value `v`, and the record it names is `r`; nothing else of the memories changes. -/
def PhaserGets (s : State) (m : SynCmd) (st v : Nat) (r : Phaser) : Prop :=
  ∃ t, exec .synApply s = .next t ∧ t.mem = s.mem ∧ t.spad = s.spad ∧ t.phaser m.tenant m.names.1 m.names.2.1 = r ∧
    ∀ o ∈ t.syn, o.ctx = m.ctx → o.num = m.num → o.result = some (st, v)

/-- The record that the command names can be used: in its area, not poisoned, valid, and the core in its scope (R335). -/
structure UsablePhaser (s : State) (m : SynCmd) (r : Phaser) : Prop where
  at_ : AtPhaser s m
  area : m.names.2.1 < (s.phArea m.tenant m.names.1).2
  clean : s.phPoisoned m.tenant m.names.1 m.names.2.1 = false
  record : s.phaser m.tenant m.names.1 m.names.2.1 = r
  valid : r.val = true
  scope : r.cores.getLsbD s.coreNum.toNat = true

/-- Where results land by themselves: the latches (R96). -/
def Loc.isLatch : Loc → Prop
  | .iaO j => j < 4
  | .vaO j => j < 4
  | .sfO j => j < 4
  | .lsO j => j < 4
  | .rdP q => q < 4
  | _ => False

/-- Byte `o` of the registers of cluster `j` that segment `q` carries, as a carry image holds them: scalar ones from 0 on, vector ones
from 128 on, in ascending order (R134, R137). -/
def Ctx.imageByte (x : Ctx) (k : Kernel) (q j o : Nat) : Option Byte :=
  if o < 128 then ((k.carriedS q j).flatMap fun n => leBytes 8 (x.sval j n))[o]?
  else ((k.carriedV q j).flatMap fun n => leBytes 256 (x.vval j n))[o - 128]?

/-- Byte `o` of cluster `j` of the carry image in the frame at `fra` (R134). -/
def State.ImageAt (s : State) (tenant fra j o : Nat) (b : Byte) : Prop :=
  let va := fra + 64 + 640 * j + o / 64 * 64
  ∃ e, s.walk tenant va = .page e ∧ memGet s.mem (e.pa va + o % 64) = b

/-- No two of the 64-byte units of the frame at `fra` share a byte of global memory. -/
def State.Apart (s : State) (tenant fra n : Nat) : Prop :=
  ∀ i j e f, 64 * i < n → 64 * j < n → i ≠ j → s.walk tenant (fra + 64 * i) = .page e → s.walk tenant (fra + 64 * j) = .page f →
    e.pa (fra + 64 * i) + 64 ≤ f.pa (fra + 64 * j) ∨ f.pa (fra + 64 * j) + 64 ≤ e.pa (fra + 64 * i)

/-- Every 64 bytes of the `n` bytes at `fra` lie on a page of global memory. -/
def State.Mapped (s : State) (tenant fra n : Nat) : Prop := ∀ i, 64 * i < n → ∃ e, s.walk tenant (fra + 64 * i) = .page e ∧ e.space = 0

/-- The byte at `a` of global memory is none of the `n` bytes of the frame at `fra`. -/
def State.OffFrame (s : State) (tenant fra n a : Nat) : Prop :=
  ∀ i e, 64 * i < n → s.walk tenant (fra + 64 * i) = .page e → a < e.pa (fra + 64 * i) ∨ e.pa (fra + 64 * i) + 64 ≤ a

/-- Hardware can write the `n` bytes of the frame at `fra`: they lie on pages of global memory, and the tables that say so lie elsewhere
(R134, R287). -/
structure State.FrameOpen (s : State) (tenant fra n : Nat) : Prop where
  mapped : s.Mapped tenant fra n
  apart : ∀ t : State, (∀ i, (t.tenant i).troot = (s.tenant i).troot) → (∀ g ∈ t.poisonG, g ∈ s.poisonG) →
    (∀ a, s.OffFrame tenant fra n a → memGet t.mem a = memGet s.mem a) →
    ∀ i, 64 * i < n → t.walk tenant (fra + 64 * i) = s.walk tenant (fra + 64 * i)

/-- The frames that a booking may read or write are mapped (R134, R136), and the resident kernels carry no more than R90 allows. -/
structure State.FramesMapped (s : State) : Prop where
  carry : ∀ k ∈ s.icache, ∀ q j, (k.carriedS q j).length ≤ 16 ∧ (k.carriedV q j).length ≤ 2
  own : ∀ t ∈ s.tasks, s.Mapped t.tenant t.fra 64 ∧ ∀ k, s.kernelOf t = some k → s.Mapped t.tenant t.fra (64 + 640 * k.width)
  parent : ∀ t ∈ s.tasks, t.par ≠ none → s.Mapped t.tenant t.parFra 64

/-- A search that has one task to consider, queued on the core's own die, with its kernel resident and nothing to wait for (R142,
R153). -/
structure OneQueued (s : State) (t : Task) (k : Kernel) : Prop where
  open_ : s.searched = false ∧ s.groupReady s.coreNum.toNat = true
  alone : s.tasks = [t] ∧ s.replays = [] ∧ ∀ c, c < 8 → (s.ctx c).run = .free
  queued : t.st = .queued ∧ t.aged = false ∧ t.readyAt ≤ s.now ∧ t.owes = [] ∧ t.ctx = none
  here : t.die = s.dieNo ∧ t.pri < 4 ∧ t.cores.getLsbD s.coreNum.toNat = true
  code : s.kernelOf t = some k

/-- The carry image that a booking of the task restores: none for one that starts, else that of its frame, which hardware can read. -/
def State.Restores (s : State) (t : Task) (k : Kernel) (img : List (Nat × Nat × Nat) × List (Nat × Nat × Nat)) : Prop :=
  if t.restore then s.startImage k t.seg t.tenant t.fra = .ok (img, []) ∧ s.frameReady t true = true else img = ([], [])

/-- A search that has one task to consider, bound to context `c`, with the released pattern `pat` of cycle `f` to book again (R161). -/
structure OneRebooked (s : State) (t : Task) (c f : Nat) (pat : List Booking) : Prop where
  open_ : s.searched = false ∧ s.groupReady s.coreNum.toNat = true
  alone : s.tasks = [t] ∧ ∀ c', c' < 8 → c' ≠ c → (s.ctx c').run = .free
  bound : c < 8 ∧ t.st = .bound ∧ (s.ctx c).task = some t.id ∧ s.mayBook c t = true
  waits : pat ≠ [] ∧ ∃ since, (s.ctx c).run = .rebook f pat since ∧ since ≤ s.now

/-! ## The invariant -/

/-- Every memory is in its canonical form. -/
def State.MemoriesOk (s : State) : Prop :=
  s.mem.wf = true ∧ s.spad.wf = true ∧ s.spad0.wf = true ∧ s.hostMem.wf = true ∧ s.peerMem.wf = true

/-- The memories are canonical, the partition mode is one of R380, and so is that of every partition under way. -/
def State.Inv (s : State) : Prop :=
  s.MemoriesOk ∧ s.mode.toNat < 3 ∧ ∀ x ∈ s.slow, x.zeroing = true → x.msg.mode ≠ 3

end Sys2Proof.Machine
end

