-- ==== Sys2Proof/Certificates/Slice0/Obligations.lean ====
section
/-! DEFINITION. The statements for the provers. -/

open Sys2Proof Sys2Proof.Machine

/-! ## The integer/address unit -/

/-- R167: on single values each operation without flags reads ia.a and t, consumes ia.a unless it is held, and lands its
64-bit result in ia.o after 1 cycle; the saturating forms clamp to the signed 64-bit range and raise sat exactly when they clamp;
ia.popc counts the ones of t and reads no port. Nothing else changes but what every bundle does. -/
def Obligations.IntegerOperations : Prop :=
  (∀ p ∈ iaWordOps, ∀ (s : State) (c n : Nat) (k : Kernel) (h : MoveHead) (a t : Word),
    Fires s c n k h [(.iaA, ofWord a)] false (ofWord t) (.iaO (n / 2)) 1 →
    exec (p.1 h) s = .next (s.fired c n h [.iaA] (.iaO (n / 2)) 1 (n / 2 * 4) (ofWord (p.2 a t)))) ∧
  (∀ p ∈ iaSatOps, ∀ (s : State) (c n : Nat) (k : Kernel) (h : MoveHead) (a t : Word),
    Fires s c n k h [(.iaA, ofWord a)] false (ofWord t) (.iaO (n / 2)) 1 →
    exec (p.1 h) s = .next (s.fired c n h [.iaA] (.iaO (n / 2)) 1 (n / 2 * 4)
      (ofWord (BitVec.ofInt 64 (clamp64 (p.2 a.toInt t.toInt))))
      (if clamp64 (p.2 a.toInt t.toInt) = p.2 a.toInt t.toInt then 0 else Flags.sat))) ∧
  ∀ (s : State) (c n : Nat) (k : Kernel) (h : MoveHead) (t : Word),
    Fires s c n k h [] false (ofWord t) (.iaO (n / 2)) 1 →
    exec (.iaPopc h) s = .next (s.fired c n h [] (.iaO (n / 2)) 1 (n / 2 * 4)
      (ofWord (BitVec.ofNat 64 ((List.range 64).filter fun i => t.getLsbD i).length)))

/-! ## The vector unit -/

/-- R218, R219, R215: each integer or bitwise operation lands lane by lane, inactive lanes keep t, no flag is raised;
va.adds.i32 clamps each active lane to the signed 32-bit range and raises sat exactly when a lane is clamped; va.abs and va.neg
change bit 31 of active lanes alone. The port codes of all, and the word that R218 writes out. -/
def Obligations.VaIntegerOperations : Prop :=
  Codes (vaWordOps.map (·.1) ++ [.vaAddsI32] ++ vaSignOps.map (·.1)) [0x165, 0x166, 0x167, 0x169, 0x16A, 0x16B, 0x16C, 0x16D, 0x16E,
    0x16F, 0x170, 0x171, 0x172, 0x177, 0x168, 0x175, 0x176] ∧
  decodeSlot 0x004D6F#24 = .ok (.vaXor { hold := false, trapEmpty := false, inv := false, g := 0, src := .v 6 }) ∧
  (∀ p ∈ vaWordOps, ∀ (s : State) (c n : Nat) (k : Kernel) (h : MoveHead) (a t : Vec) (m : Word),
    Fires s c n k h [(.vaA, a), (.vaM, ofWord m)] true t (.vaO (n / 2)) 3 →
    ∃ r, exec (p.1 h) s = .next (s.fired c n h [.vaA, .vaM] (.vaO (n / 2)) 3 (n / 2 * 4 + 1) r) ∧
      ∀ i, i < 64 → laneW r i = if m.getLsbD i then p.2 (laneW a i) (laneW t i) else laneW t i) ∧
  (∀ (s : State) (c n : Nat) (k : Kernel) (h : MoveHead) (a t : Vec) (m : Word),
    Fires s c n k h [(.vaA, a), (.vaM, ofWord m)] true t (.vaO (n / 2)) 3 →
    let exact := fun i => (laneW a i).toInt + (laneW t i).toInt
    let clamped := fun i => max (-(2 ^ 31)) (min (2 ^ 31 - 1) (exact i))
    ∃ r fl, exec (.vaAddsI32 h) s = .next (s.fired c n h [.vaA, .vaM] (.vaO (n / 2)) 3 (n / 2 * 4 + 1) r fl) ∧
      (∀ i, i < 64 → (laneW r i).toInt = if m.getLsbD i then clamped i else (laneW t i).toInt) ∧
      (fl = Flags.sat ∧ (∃ i, i < 64 ∧ m.getLsbD i = true ∧ clamped i ≠ exact i) ∨
        fl = 0 ∧ ∀ i, i < 64 → m.getLsbD i = true → clamped i = exact i)) ∧
  ∀ p ∈ vaSignOps, ∀ (s : State) (c n : Nat) (k : Kernel) (h : MoveHead) (t : Vec) (m : Word),
    Fires s c n k h [(.vaM, ofWord m)] true t (.vaO (n / 2)) 3 →
    ∃ r, exec (p.1 h) s = .next (s.fired c n h [.vaM] (.vaO (n / 2)) 3 (n / 2 * 4 + 1) r) ∧
      ∀ i, i < 64 → laneW r i = if m.getLsbD i then p.2 (laneW t i) else laneW t i

/-- R216, R74, R53: the float operations work element by element under the mask and raise the flags of the active elements. They round to
nearest, or in the mode that the other slot of the column word moves to rm; stochastic rounding moves rnc by one. va.fma rounds a × b + t
once and lands after 4 cycles; minimum and maximum do not round. -/
def Obligations.VaFloatOperations : Prop :=
  (∀ (s : State) (c n : Nat) (k : Kernel) (h : MoveHead) (pre post : List Instr) (code : Nat), RoundsIn k n pre post code →
    (∀ p ∈ vaFloatOps, ∀ a t m : Vec,
      Fires s c n k h [(.vaA, a), (.vaM, m)] true t (.vaO (n / 2)) 3 pre post →
      ∃ r fl, exec (p.1 h) s =
          .next (s.fired c n h [.vaA, .vaM] (.vaO (n / 2)) 3 (n / 2 * 4 + 1) r fl (rs := drawn code)) ∧
        ByElement p.2.1.width m t (fun e => p.2.2 p.2.1 ((s.rnd c code).at e) (elem p.2.1.width a e) (elem p.2.1.width t e)) r fl) ∧
    ∀ p ∈ vaFmaOps, ∀ a b t m : Vec,
      Fires s c n k h [(.vaA, a), (.vaB, b), (.vaM, m)] true t (.vaO (n / 2)) 4 pre post →
      ∃ r fl, exec (p.1 h) s =
          .next (s.fired c n h [.vaA, .vaB, .vaM] (.vaO (n / 2)) 4 (n / 2 * 4 + 1) r fl (rs := drawn code)) ∧
        ByElement p.2.width m t
          (fun e => fFma p.2 ((s.rnd c code).at e) (elem p.2.width a e) (elem p.2.width b e) (elem p.2.width t e)) r fl) ∧
  ∀ p ∈ vaSelectOps, ∀ (s : State) (c n : Nat) (k : Kernel) (h : MoveHead) (a t m : Vec),
    Fires s c n k h [(.vaA, a), (.vaM, m)] true t (.vaO (n / 2)) 3 →
    ∃ r fl, exec (p.1 h) s = .next (s.fired c n h [.vaA, .vaM] (.vaO (n / 2)) 3 (n / 2 * 4 + 1) r fl) ∧
      ByElement p.2.1.width m t (fun e => fMinMax p.2.1 p.2.2 (elem p.2.1.width a e) (elem p.2.1.width t e)) r fl

/-- R217: the five compares land a mask in the low 64 bits of va.o, with 0 above; inactive lanes give 0; the float compares raise
the flags of R38, the integer compares none. Their port codes, and the two words that R217 writes out. -/
def Obligations.VaCompares : Prop :=
  Codes (vaCompareOps.map (·.1)) [0x162, 0x163, 0x164, 0x173, 0x174] ∧
  decodeSlot 0x004562#24 = .ok (.vaLtF32 { hold := false, trapEmpty := false, inv := false, g := 0, src := .v 2 }) ∧
  decodeSlot 0x009232#24 = .ok (.move { hold := false, trapEmpty := false, inv := false, g := 0, src := .vaO } (.m 0 2)) ∧
  ∀ p ∈ vaCompareOps, ∀ (s : State) (c n : Nat) (k : Kernel) (h : MoveHead) (a t : Vec) (m : Word),
    Fires s c n k h [(.vaA, a), (.vaM, ofWord m)] true t (.vaO (n / 2)) 3 →
    ∃ (r : Word) (fl : Flags), exec (p.1 h) s = .next (s.fired c n h [.vaA, .vaM] (.vaO (n / 2)) 3 (n / 2 * 4 + 1) (ofWord r) fl) ∧
      (∀ i, i < 64 → r.getLsbD i = (m.getLsbD i && (p.2 (laneW a i) (laneW t i)).1)) ∧
      ∀ b, fl.getLsbD b = true ↔ ∃ i, i < 64 ∧ m.getLsbD i = true ∧ (p.2 (laneW a i) (laneW t i)).2.getLsbD b = true

/-- R222, R225, R74: the lane conversions convert every lane of t in the mode of rm, without a mask; the narrowing conversions convert
128 inputs, the lanes of va.a and then those of t, and bits above them are 0; the images. -/
def Obligations.VaConversions : Prop :=
  (∀ (s : State) (c n : Nat) (k : Kernel) (h : MoveHead) (pre post : List Instr) (code : Nat), RoundsIn k n pre post code →
    (∀ p ∈ vaLaneConversions, ∀ t : Vec, Fires s c n k h [] true t (.vaO (n / 2)) 3 pre post →
      ∃ r fl, exec (p.1 h) s = .next (s.fired c n h [] (.vaO (n / 2)) 3 (n / 2 * 4 + 1) r fl (rs := drawn code)) ∧
        ByElement 32 (BitVec.allOnes 2048) t (fun e => p.2 ((s.rnd c code).at e) (lane t e)) r fl) ∧
    ∀ p ∈ vaNarrowings, ∀ a t : Vec, Fires s c n k h [(.vaA, a)] true t (.vaO (n / 2)) 3 pre post →
      let y := fun e => fCvt f32 p.2 ((s.rnd c code).at e) (if e < 64 then lane a e else lane t (e - 64))
      ∃ r fl, exec (p.1 h) s = .next (s.fired c n h [.vaA] (.vaO (n / 2)) 3 (n / 2 * 4 + 1) r fl (rs := drawn code)) ∧
        (∀ e, e < 2048 / p.2.width → elem p.2.width r e = if e < 128 then (y e).1 % 2 ^ p.2.width else 0) ∧
        ∀ b, fl.getLsbD b = true ↔ ∃ e, e < 128 ∧ (y e).2.getLsbD b = true) ∧
  ∀ p ∈ vaImageOps, ∀ (s : State) (c n : Nat) (k : Kernel) (h : MoveHead) (t : Vec),
    Fires s c n k h [] true t (.vaO (n / 2)) 3 →
    ∃ r, exec (p.1 h) s = .next (s.fired c n h [] (.vaO (n / 2)) 3 (n / 2 * 4 + 1) r) ∧
      ∀ i, i < 64 → laneW r i = p.2 (laneW t i)

/-- R226-R228: va.pln turns 64 lanes into 32 bit planes of 64 bits, va.upln turns them back; lanes are gathered, selected, compressed and
expanded under the mask; va.bcast gives every lane the lane of va.a that lane 0 of t names. Their port codes, and the words that R227 and
R228 write out. -/
def Obligations.VaLaneMovement : Prop :=
  Codes [.vaPln, .vaUpln, .vaPerm, .vaBcast, .vaCmpr, .vaExpd, .vaSel] [0x189, 0x18A, 0x18B, 0x18C, 0x18D, 0x18E, 0x18F] ∧
  decodeSlot 0x00098C#24 = .ok (.vaBcast { hold := false, trapEmpty := false, inv := false, g := 0, src := .s 4 }) ∧
  decodeSlot 0x004D8B#24 = .ok (.vaPerm { hold := false, trapEmpty := false, inv := false, g := 0, src := .v 6 }) ∧
  decodeSlot 0x004D8D#24 = .ok (.vaCmpr { hold := false, trapEmpty := false, inv := false, g := 0, src := .v 6 }) ∧
  (∀ (s : State) (c n : Nat) (k : Kernel) (h : MoveHead) (a t : Vec) (m : Word),
    Fires s c n k h [(.vaA, a), (.vaM, ofWord m)] true t (.vaO (n / 2)) 3 →
    let below := fun i => ((List.range i).filter fun j => m.getLsbD j).length
    let moved := fun (f : Nat → BitVec 32 → Prop) (o : MoveHead → Instr) =>
      ∃ r, exec (o h) s = .next (s.fired c n h [.vaA, .vaM] (.vaO (n / 2)) 3 (n / 2 * 4 + 1) r) ∧ ∀ i, i < 64 → f i (laneW r i)
    moved (fun i x => x = if m.getLsbD i then laneW a ((laneW t i).toNat % 64) else 0) .vaPerm ∧
    moved (fun i x => x = if m.getLsbD i then laneW a i else laneW t i) .vaSel ∧
    moved (fun i x => x = if m.getLsbD i then laneW a (below i) else laneW t i) .vaExpd ∧
    moved (fun i x => (∀ j, j < 64 → m.getLsbD j = true → below j = i → x = laneW a j) ∧ (below 64 ≤ i → x = laneW t i)) .vaCmpr) ∧
  (∀ (s : State) (c n : Nat) (k : Kernel) (h : MoveHead) (t : Vec),
    Fires s c n k h [] true t (.vaO (n / 2)) 3 →
    (∃ r, exec (.vaPln h) s = .next (s.fired c n h [] (.vaO (n / 2)) 3 (n / 2 * 4 + 1) r) ∧
      ∀ l j, l < 64 → j < 32 → r.getLsbD (64 * j + l) = t.getLsbD (32 * l + j)) ∧
    ∃ r, exec (.vaUpln h) s = .next (s.fired c n h [] (.vaO (n / 2)) 3 (n / 2 * 4 + 1) r) ∧
      ∀ l j, l < 64 → j < 32 → r.getLsbD (32 * l + j) = t.getLsbD (64 * j + l)) ∧
  ∀ (s : State) (c n : Nat) (k : Kernel) (h : MoveHead) (a t : Vec),
    Fires s c n k h [(.vaA, a)] true t (.vaO (n / 2)) 3 →
    ∃ r, exec (.vaBcast h) s = .next (s.fired c n h [.vaA] (.vaO (n / 2)) 3 (n / 2 * 4 + 1) r) ∧
      ∀ i, i < 64 → laneW r i = laneW a ((laneW t 0).toNat % 64)

/-! ## The special-function unit -/

/-- R229, R74: on t alone, lane by lane in the mode of rm, after the latency of each; sf.div divides sf.a by t. The results of sf.exp2 and
sf.log2 are those of the model's computation (notes/assumptions/20.md). -/
def Obligations.SpecialFunctions : Prop :=
  ∀ (s : State) (c n : Nat) (k : Kernel) (h : MoveHead) (pre post : List Instr) (code : Nat), RoundsIn k n pre post code →
    (∀ p ∈ sfnOps, ∀ t : Vec, Fires s c n k h [] true t (.sfO (n / 2)) p.2.1 pre post →
      ∃ r fl, exec (p.1 h) s = .next (s.fired c n h [] (.sfO (n / 2)) p.2.1 (n / 2 * 4 + 2) r fl (rs := drawn code)) ∧
        ByElement 32 (BitVec.allOnes 2048) t (fun e => p.2.2 ((s.rnd c code).at e) (lane t e)) r fl) ∧
    ∀ a t : Vec, Fires s c n k h [(.sfA, a)] true t (.sfO (n / 2)) 14 pre post →
      ∃ r fl, exec (.sfDivF32 h) s = .next (s.fired c n h [.sfA] (.sfO (n / 2)) 14 (n / 2 * 4 + 2) r fl (rs := drawn code)) ∧
        ByElement 32 (BitVec.allOnes 2048) t (fun e => fDiv ((s.rnd c code).at e) (lane a e) (lane t e)) r fl

/-! ## Multi-register forms -/

/-- R220-R222: a widening conversion lands elements 0 to 63 of its half of t in va.o and 64 to 127 in the spill register, together,
and raises the flags of all of them. -/
def Obligations.VaWidenings : Prop :=
  ∀ p ∈ vaWidenings, ∀ (s : State) (c n : Nat) (k : Kernel) (h : MoveHead) (b t : Vec),
    Fires s c n k h [(.vaB, b)] true t (.vaO (n / 2)) 3 → (s.ctx c).SpillReady (n / 2) b →
    let x := fun i => fCvt p.2 f32 .rne (elem p.2.width t ((if p.2.width = 8 ∧ (laneW b 0).getLsbD 4 then 128 else 0) + i))
    ∃ lo hi fl, exec (p.1 h) s =
        .next (s.fired c n h [.vaB] (.vaO (n / 2)) 3 (n / 2 * 4 + 1) lo fl (some ((s.ctx c).spill (n / 2) b, hi))) ∧
      (∀ i, i < 64 → (laneW lo i).toNat = (x i).1 % 2 ^ 32 ∧ (laneW hi i).toNat = (x (64 + i)).1 % 2 ^ 32) ∧
      ∀ j, fl.getLsbD j = true ↔ ∃ i, i < 128 ∧ (x i).2.getLsbD j = true

/-- R223, R74: va.pk packs, in the mode of rm, the lanes of va.a and t into blocks of 512 bits in va.o, with their husks in the spill register. An element of
value 0 takes selector 0, as the worked packings of R46 and R223 have it; its pseudocode would give 1 (notes/assumptions/68.md). -/
def Obligations.VaPackings : Prop :=
  ∀ p ∈ vaPackings, ∀ (s : State) (c n : Nat) (k : Kernel) (h : MoveHead) (a b t : Vec) (pre post : List Instr) (code : Nat),
    RoundsIn k n pre post code → Fires s c n k h [(.vaA, a), (.vaB, b)] true t (.vaO (n / 2)) 3 pre post →
    (s.ctx c).SpillReady (n / 2) b →
    let count := sxCount p.2
    let blocks := (128 + count - 1) / count
    let xs := (List.range 128).map fun i => if i < 64 then lane a i else lane t (i - 64)
    let block := fun i => sxPack (s.rnd c code) (p.2 * 4 + (laneW b 0).toNat / 32) ((xs.drop (i * count)).take count) (i * count)
    ∃ lo hi fl, exec (p.1 h) s =
        .next (s.fired c n h [.vaA, .vaB] (.vaO (n / 2)) 3 (n / 2 * 4 + 1) lo fl (some ((s.ctx c).spill (n / 2) b, hi))
          (rs := drawn code)) ∧
      (∀ i, i < 4 → elem 512 lo i = (if i < blocks then (block i).1 % 2 ^ 512 else 0) ∧
        elem 16 hi i = if i < blocks then (block i).2.1 % 2 ^ 16 else 0) ∧
      ∀ j, fl.getLsbD j = true ↔ ∃ i, i < blocks ∧ (block i).2.2.getLsbD j = true

/-- R224: va.upk reads husks from va.a and blocks from t; where every husk it needs is good, the 128 values land in va.o and the
spill register, and a bad husk traps, with tinf 0 as the model reads R195 (notes/assumptions/46.md). -/
def Obligations.VaUnpack : Prop :=
  ∀ (s : State) (c n : Nat) (k : Kernel) (h : MoveHead) (a b t : Vec),
    Fires s c n k h [(.vaA, a), (.vaB, b)] true t (.vaO (n / 2)) 3 → (s.ctx c).SpillReady (n / 2) b →
    match unpackFrom (a.toNat % 2 ^ 64) t.toNat 4 0 128 with
    | some ys => ∃ lo hi fl, exec (.vaUpk h) s =
          .next (s.fired c n h [.vaA, .vaB] (.vaO (n / 2)) 3 (n / 2 * 4 + 1) lo fl (some ((s.ctx c).spill (n / 2) b, hi))) ∧
        (∀ i, i < 64 → (laneW lo i).toNat = (ys.getD i (0, 0)).1 % 2 ^ 32 ∧ (laneW hi i).toNat = (ys.getD (64 + i) (0, 0)).1 % 2 ^ 32) ∧
        ∀ j, fl.getLsbD j = true ↔ ∃ y ∈ ys, y.2.getLsbD j = true
    | none => exec (.vaUpk h) s = .next (s.trapped c n cBadHusk)

/-! ## Reductions -/

/-- R231-R234: a fold reads rd.l, rd.m, the latch and t, starts from what earlier RED triggers leave in the latch, and lands after
6 cycles. Where an enabled flag may yet keep an earlier result from the latch (R41), the fold keeps its operands as well; a result that
keeps them is formed again, as it lands, from what its latch holds then. rd.sum.f32 rounds in the mode of rm (R74). -/
def Obligations.RedFolds : Prop :=
  (∀ (s : State) (c : Fin 8) (f : InFlight) (r : RedStep) (fold : Word → Word × Flags) (q : Nat) (v : Word),
    let x := s.ctx c.val
    x.flight = [f] → f.land ≤ s.now → f.dest = .rdP q → q < 4 → f.red = some r → r.Folds fold → f.spill = none → f.fill = none →
    f.late = [] → IsValue (ofWord v) (x.alts (.rdP q)) → (∀ i, i < 7 → ((fold v).2.getLsbD i && x.nst.getLsbD (8 + i)) = false) →
    ∃ t, exec (.resultLanding c) s = .next t ∧ (t.ctx c.val).alts (.rdP q) = [{ val := ofWord (fold v).1 }] ∧ t.mem = s.mem ∧
      t.spad = s.spad ∧ ∀ i, i < 64 → (t.ctx c.val).nst.getLsbD i = (x.nst.getLsbD i || (decide (i < 7) && (fold v).2.getLsbD i))) ∧
  (∀ p ∈ redFolds, ∀ (s : State) (c n : Nat) (k : Kernel) (h : MoveHead) (m q v : Word) (t : Vec),
    Fires s c n k h [(.rdL, ofWord q), (.rdM, ofWord m)] true t (.rdP q.toNat) 6 → RedReady s c q v →
    ∃ red, exec (p.1 h) s = .next (s.fired c n h [.rdL, .rdM] (.rdP q.toNat) 6 16 (ofWord (p.2 m v t).1) (p.2 m v t).2 none red) ∧
      if (s.ctx c).chainSure q.toNat then red = none else ∃ r, red = some r ∧ r.Folds fun v => p.2 m v t) ∧
  ∀ (s : State) (c n : Nat) (k : Kernel) (h : MoveHead) (m q v : Word) (t : Vec) (pre post : List Instr) (code : Nat),
    RoundsIn k n pre post code → Fires s c n k h [(.rdL, ofWord q), (.rdM, ofWord m)] true t (.rdP q.toNat) 6 pre post →
    RedReady s c q v →
    let fold := fun v => floatFold (fun i => fAdd f32 ((s.rnd c code).at i)) m v t
    ∃ red, exec (.rdSumF32 h) s =
        .next (s.fired c n h [.rdL, .rdM] (.rdP q.toNat) 6 16 (ofWord (fold v).1) (fold v).2 none red (drawn code)) ∧
      if (s.ctx c).chainSure q.toNat then red = none else ∃ r, red = some r ∧ r.Folds fold

/-- R233: rd.amax.f32 and rd.amin.f32 keep value, index and chunk number; rd.set reads no
mask and no latch (the latter by notes/assumptions/27.md) and writes lane 0. -/
def Obligations.RedArguments : Prop :=
  (∀ p ∈ redArgs, ∀ (s : State) (c n : Nat) (k : Kernel) (h : MoveHead) (m q v : Word) (t : Vec),
    Fires s c n k h [(.rdL, ofWord q), (.rdM, ofWord m)] true t (.rdP q.toNat) 6 → RedReady s c q v →
    let fold := fun (v : Word) =>
      let r := argFold p.2 (v.extractLsb' 48 16) t (lanesOf m) (v.extractLsb' 0 32, v.extractLsb' 32 16)
      ((v.extractLsb' 48 16 + 1) ++ r.2 ++ r.1, (0 : Flags))
    ∃ red, exec (p.1 h) s = .next (s.fired c n h [.rdL, .rdM] (.rdP q.toNat) 6 16 (ofWord (fold v).1) 0 none red) ∧
      if (s.ctx c).chainSure q.toNat then red = none else ∃ r, red = some r ∧ r.Folds fold) ∧
  ∀ (s : State) (c n : Nat) (k : Kernel) (h : MoveHead) (q : Word) (t : Vec),
    Fires s c n k h [(.rdL, ofWord q)] true t (.rdP q.toNat) 6 → s.owns c 13 s.now = true → q.toNat < 4 →
    exec (.rdSet h) s = .next (s.fired c n h [.rdL] (.rdP q.toNat) 6 16 (ofWord ((laneW t 0).setWidth 64)))

/-! ## Compares and system registers -/

/-- R170, R174: a compare to cq pushes its bit after 1 cycle where the queue has room, and a bundle that would overflow it
traps. R108, R105: a compare to a guard writes the guard that ia.g names after 1 cycle; a number out of range and, in a pipelined
loop, a gate guard trap. -/
def Obligations.Compares : Prop :=
  (∀ p ∈ wordRelations, ∀ (s : State) (c n : Nat) (k : Kernel) (h : MoveHead) (a t : Word),
    Fires s c n k h [(.iaA, ofWord a)] false (ofWord t) .cq 1 →
    exec (p.1 h) s = .next (if (s.ctx c).cq.length < 16 then
        s.fired c n h [.iaA] .cq 1 (n / 2 * 4) (ofWord (ofBit (p.2.2 a t)))
      else s.trapped c n cCqOverflow)) ∧
  ∀ p ∈ wordRelations, ∀ (s : State) (c n : Nat) (k : Kernel) (h : MoveHead) (a g t : Word),
    Fires s c n k h [(.iaA, ofWord a), (.iaG, ofWord g)] false (ofWord t) (.guard g.toNat) 1 →
    exec (p.2.1 h) s = .next (if g.toNat = 0 ∨ 15 < g.toNat then s.trapped c n cBadOperand
      else if 8 ≤ g.toNat ∧ (s.ctx c).pl then s.trapped c n cGuardState
      else s.fired c n h [.iaA, .iaG] (.guard g.toNat) 1 (n / 2 * 4) (ofWord (ofBit (p.2.2 a t))))

/-- R169: ia.srd lands the register that t numbers in ia.o; a number without a register traps. R168, R98, R99, R166, R171, R172: what
every register of the context reads as; the numbers that are not listed have none. -/
def Obligations.SystemRegisterReads : Prop :=
  (∀ (s : State) (c n : Nat) (k : Kernel) (h : MoveHead) (t : Word),
    Fires s c n k h [] false (ofWord t) (.iaO (n / 2)) 1 →
    exec (.iaSrd h) s = .next (match s.sysreg c k t.toNat with
      | some v => s.fired c n h [] (.iaO (n / 2)) 1 (n / 2 * 4) (ofWord (BitVec.ofNat 64 v))
      | none => s.trapped c n cBadOperand)) ∧
  ∀ (s : State) (c : Nat) (k : Kernel),
    let x := s.ctx c
    s.sysreg c k 0x000 = some x.nst.toNat ∧ s.sysreg c k 0x001 = some x.rnk.toNat ∧ s.sysreg c k 0x002 = some x.rnc.toNat ∧
    (∃ v, s.sysreg c k 0x003 = some v ∧ fld v 0 1 = x.wcol.toNat ∧ fld v 1 5 = x.held.length % 32 ∧ v < 2 ^ 26 ∧
      ∀ j, j < 4 → fld v (6 + 5 * j) 5 = 16 - poolUse (vget x.clusters j Cluster.init)) ∧
    (∃ v, s.sysreg c k 0x004 = some v ∧ v.testBit 0 = true ∧ ∀ n, 1 ≤ n → n < 16 → v.testBit n = (x.guard n == .resolved true) ∧
      v.testBit (16 + n) = (x.guard n == .opened) ∧ v.testBit (32 + n) = x.hasPark n) ∧
    (∃ v, s.sysreg c k 0x005 = some v ∧ fld v 0 32 = min (s.now - x.start - x.shift) 0xFFFFFFFF ∧ fld v 32 4 = 0 ∧
      v.testBit 36 = s.cal.any (fun b => b.ctx == c && b.extending s.now) ∧ v.testBit 37 = x.aged ∧
      fld v 38 2 = ((s.boundTask c).map (·.pri)).getD 0 % 4) ∧
    (∀ t, s.boundTask c = some t → s.sysreg c k 0x006 = some t.fra) ∧ s.sysreg c k 0x007 = some k.kdat ∧
    s.sysreg c k 0x008 = some (x.loops.length + (if x.pl then 8 else 0) + 16 * x.pst.toNat + (if x.fel then 128 else 0) +
      if x.fer then 256 else 0) ∧
    s.sysreg c k 0x009 = some (x.rem.toNat + 2 ^ 32 * x.strt.toNat) ∧ s.sysreg c k 0x00A = some x.links.length ∧ s.sysreg c k 0x00B = some x.cq.length ∧
    s.sysreg c k 0x040 = some x.tvec.toNat ∧ s.sysreg c k 0x041 = some x.tcs.toNat ∧ s.sysreg c k 0x042 = some x.tpc.toNat ∧
    s.sysreg c k 0x043 = some x.tres.toNat ∧ s.sysreg c k 0x044 = some x.tinf.toNat ∧ s.sysreg c k 0x045 = some x.tseg.toNat ∧
    (∀ i, i < 12 → s.sysreg c k (0x010 + i) = some (x.timeline i).issued ∧ s.sysreg c k (0x020 + i) = some (x.timeline i).done) ∧
    (∀ i, i < 8 → s.sysreg c k (0x060 + i) = some (vget x.perf i 0).toNat) ∧
    ∀ r, 0x00B < r ∧ r < 0x010 ∨ 0x01B < r ∧ r < 0x020 ∨ 0x02B < r ∧ r < 0x040 ∨ 0x045 < r ∧ r < 0x060 ∨ 0x067 < r →
      s.sysreg c k r = none

/-- R169: ia.swr writes the register that ia.a numbers; rnc takes the value as the bundle commits; a number without a
register, and a value that tvec or tseg refuses (R198), trap. R40, R98, R171, R198, R387: what a write of each writable register
changes; a write of any other register changes nothing. -/
def Obligations.SystemRegisterWrites : Prop :=
  (∀ (s : State) (c n : Nat) (k : Kernel) (h : MoveHead) (r v : Word),
    Reads s c n k h [(.iaA, ofWord r)] false (ofWord v) → ((s.ctx c).writeSys r.toNat v).GoesOn k →
    exec (.iaSwr h) s = .next (if s.sysreg c k r.toNat = none ∨ sysRefuses k r.toNat v = true then s.trapped c n cBadOperand
      else (((s.readBy c h.src).consumed c (n / 2) [.iaA]).modCtx c fun x =>
        if r = 2 then { x with rnc := v } else x.writeSys r.toNat v).retired c)) ∧
  ∀ (x : Ctx) (v : Word),
    (x.writeSys 0x000 v).nst = (v &&& 0x7F00#64) ||| (x.nst &&& 0x7F#64 &&& ~~~v) ||| x.nowFlags.setWidth 64 ∧
    x.writeSys 0x001 v = { x with rnk := v } ∧
    x.writeSys 0x003 v = { x with wcol := x.wcol && !v.getLsbD 0 } ∧
    x.writeSys 0x008 v = { x with fer := x.fer || (x.pl && v.getLsbD 8) } ∧
    x.writeSys 0x040 v = { x with tvec := v &&& 0x80000000000001FF#64 } ∧
    x.writeSys 0x043 v = { x with tres := v } ∧ x.writeSys 0x045 v = { x with tseg := v &&& 0x1FF#64 } ∧
    (∀ i, i < 8 → vget (x.writeSys (0x060 + i) v).perf i 0 = v + BitVec.ofNat 64 (vget x.perfNow i 0)) ∧
    ∀ r, r ∉ [0x000, 0x001, 0x003, 0x008, 0x040, 0x043, 0x045, 0x060, 0x061, 0x062, 0x063, 0x064, 0x065, 0x066, 0x067] →
      x.writeSys r v = x

/-! ## Guards, moves, immediates, no-ops -/

/-- R65: a slot whose guard is not satisfied has no effect at all: it reads no source, consumes no port, raises nothing.
R80: an engine command under one takes its number, completes at once, and does nothing else but hold the cells of its span, where its
operands give one; that no other check of it is made is the model's reading (notes/assumptions/55.md). -/
def Obligations.UnsatisfiedGuards : Prop :=
  (∀ (s : State) (c n : Nat) (k : Kernel) (h : MoveHead) (d : Dest),
    Alone s c n k → (s.ctx c).gstate h.inv h.g.val = .no → (s.ctx c).GoesOn k →
    (∀ i ∈ triggers, exec (i h) s = .next (s.retired c)) ∧
    (destCluster d < k.width → exec (.move h d) s = .next (s.retired c)) ∧
    (k.width ≤ destCluster d → exec (.move h d) s = .next (s.trapped c n cIllegalDestination))) ∧
  ∀ (p : Fin 16) (s : State) (c n : Nat) (k : Kernel) (h : EngHead),
    Commands s c n k h → (s.ctx c).gstate h.inv h.g.val = .no →
    (∀ i ∈ engineCommands p (n / 2), ∃ held : List (Nat × Nat × Nat × Nat), (∀ o ∈ held, o.1 = c) ∧ exec (i.1 h) s =
      .next (({ s.modCtx c fun x => { x with tl := vmod x.tl i.2 fun t => t.next.finish (t.issued + 1) } with
        occ := held ++ s.occ } : State).retired c)) ∧
    ∀ i ∈ matrixCommands p, (i.2.2 (s.work c k) (s.engEnv c n h)).Accepted →
      ∃ t, exec (i.1 h) s = .next t ∧ t.occupied (4 + (s.ctx c).base + n / 2) s.now = true

/-- R62, R69, R81-R84, R137, R182, R187, R196: a no-op does nothing; an immediate gives ix its sign-extended value; a slot without an
instruction takes its decode fault. A yield of kind 5 with a segment of the kernel is examined as a yield: with nothing unresolved and its
carried registers full it takes the link-stack fault inside a call, else the loop-state fault inside a loop, else an illegal wait. -/
def Obligations.NopImmediateUnassigned : Prop :=
  (∀ (s : State) (c n : Nat) (k : Kernel) (r : Reject), Alone s c n k → (s.ctx c).GoesOn k →
    (∀ cause, rejectCause k.nseg r = some cause → exec (.unassignedEncoding r) s = .next (s.trapped c n cause)) ∧
    (∀ q, r = .illegalWait q → rejectCause k.nseg r = none → (s.ctx c).settled → (s.ctx c).Carries k q.toNat →
      exec (.unassignedEncoding r) s = .next (s.trapped c n (if (s.ctx c).links ≠ [] then cLinkYield
        else if (s.ctx c).loops ≠ [] then cLoopState else cIllegalWait)))) ∧
  ∀ (s : State) (c n : Nat) (k : Kernel) (v : BitVec 21), Alone s c n k → (s.ctx c).GoesOn k →
    exec .nop s = .next (s.retired c) ∧
    exec (.immediate v) s =
      .next ((s.modCtx c fun x => x.modCol (n / 2) fun y => { y with ix := v.signExtend 64 }).retired c)

/-- R65, R70, R112: a move of one unconditional value to a register that holds one gives it the value, fitted, and changes no
other place. -/
def Obligations.MoveToRegister : Prop :=
  ∀ (s : State) (c n : Nat) (k : Kernel) (h : MoveHead) (d : Dest) (l : Loc) (u v : Vec),
    Alone s c n k → (s.ctx c).Satisfied h.inv h.g → (s.ctx c).GoesOn k → destCluster d < k.width →
    (s.ctx c).registerOf d = some l → s.SourceIs c k (n / 2) h.src l.isVec v →
    IsValue u ((s.ctx c).alts l) → (s.ctx c).isFull l = true →
    (∀ f ∈ (s.ctx c).flight, f.land = s.now + 1 → f.dest ≠ l ∧ f.spill.map (·.1) ≠ some l) →
    ∃ a, IsValue v [a] ∧ a.hold = false ∧
      exec (.move h d) s = .next (((s.readBy c h.src).modCtx c fun x => x.setAlts l [a]).retired c)

/-- R72, R83: a move to an operand port that is empty or holds one value gives it the value, held where the move says so; a value
out of the port's range traps. -/
def Obligations.MoveToPort : Prop :=
  ∀ (s : State) (c n : Nat) (k : Kernel) (h : MoveHead) (p : Port) (v : Vec),
    Alone s c n k → (s.ctx c).Satisfied h.inv h.g → (s.ctx c).GoesOn k → 0 < k.width →
    s.SourceIs c k (n / 2) h.src (Loc.port (n / 2) p).isVec v →
    ((s.ctx c).alts (.port (n / 2) p) = [] ∨ ∃ u, IsValue u ((s.ctx c).alts (.port (n / 2) p))) →
    (portRange p (v.toNat % 2 ^ 64) = true →
      ∃ a, IsValue v [a] ∧ a.hold = h.hold ∧
        exec (.move h (.port p)) s = .next (((s.readBy c h.src).modCtx c fun x => x.setAlts (.port (n / 2) p) [a]).retired c)) ∧
    (portRange p (v.toNat % 2 ^ 64) = false → exec (.move h (.port p)) s = .next (s.trapped c n cBadOperand))

/-- R69, R73, R104, R105, R170, R179, R183: moves of one value to staging, ix, lc, rb, cq and a guard; in a pipelined loop
a gate guard traps, and a full cq overflows; a move to a resolved guard sets it and touches no alternative. -/
def Obligations.MoveToControl : Prop :=
  (∀ (s : State) (c n : Nat) (k : Kernel) (h : MoveHead) (v : Word),
    Alone s c n k → (s.ctx c).Satisfied h.inv h.g → (s.ctx c).GoesOn k → 0 < k.width →
    s.SourceIs c k (n / 2) h.src false (ofWord v) →
    let does := fun (d : Dest) (f : Ctx → Ctx) => exec (.move h d) s = .next (((s.readBy c h.src).modCtx c f).retired c)
    (∀ i j, does (.sg i j) fun x => x.modCol (n / 2) fun y => { y with sg := vset y.sg (4 * i.val + j.val) v }) ∧
    does .ix (fun x => x.modCol (n / 2) fun y => { y with ix := v }) ∧
    (((s.ctx c).setLc (v.setWidth 32)).GoesOn k → does .lc fun x => x.setLc (v.setWidth 32)) ∧
    does .rb (fun x => { x with rb := v.setWidth 7 }) ∧
    ((s.ctx c).cq.length < 16 → does .cq fun x => { x with cq := x.cq ++ [v.getLsbD 0] }) ∧
    (16 ≤ (s.ctx c).cq.length → exec (.move h .cq) s = .next (s.trapped c n cCqOverflow)) ∧
    (∀ g, 7 ≤ g.val ∧ (s.ctx c).pl = true → exec (.move h (.k g)) s = .next (s.trapped c n cGuardState)) ∧
    (v.toNat ≤ 4 → exec (.move h .rm) s = .next ((s.readBy c h.src).retired c)) ∧
    (4 < v.toNat → exec (.move h .rm) s = .next (s.trapped c n cBadOperand))) ∧
  ∀ (s : State) (c n : Nat) (k : Kernel) (h : MoveHead) (v : Word) (g : Fin 15) (b : Bool),
    Alone s c n k → (s.ctx c).Satisfied h.inv h.g → (s.ctx c).GoesOn k → 0 < k.width →
    s.SourceIs c k (n / 2) h.src false (ofWord v) → ¬ (7 ≤ g.val ∧ (s.ctx c).pl = true) →
    (s.ctx c).guard (g.val + 1) = .resolved b → (s.ctx c).hasPark (g.val + 1) = false →
    s.LandsAlone c (.guard (g.val + 1)) 1 →
    exec (.move h (.k g)) s =
      .next (((s.readBy c h.src).modCtx c fun x => { x with guards := vset x.guards (g.val + 1) (.resolved (v.getLsbD 0)) }).retired c)

/-! ## Loads and stores -/

/-- R250-R253, R263: a load from the scratchpad window lands the bytes at the sum of ls.a and t, modulo 2^57, after 5 cycles in
ls.o or in the register that ls.a names; no byte of memory changes. No held store writes one of them: such a load is one of
HeldStores. -/
def Obligations.ScratchpadLoads : Prop :=
  ∀ p ∈ loads, ∀ (s : State) (c n : Nat) (k : Kernel) (h : MoveHead) (a t : Word) (dest : Loc),
    Fires s c n k h [(.lsA, ofWord a)] false (ofWord t) dest 5 → LoadsTo (s.ctx c) (n / 2) a dest →
    let ea := (a.toNat + t.toNat) % 2 ^ 57
    let key := s.windowKey (s.ctx c).base ea
    InWindow s c k ea p.2.2.1 → (s.ctx c).NoneHeldIn key p.2.2.1 → isPoisoned s.poisonS key p.2.2.1 = false →
    exec (p.1 h) s =
      .next (s.fired c n h [.lsA] dest 5 (n / 2 * 4 + 3) (dest.fits (p.2.2.2 (memRead s.spad key p.2.2.1))))

/-- R255-R257, R263: a load from global memory that hits the L1 lands its bytes after 8 cycles; bytes of queued stores among them are
observed, so that these stores go before the context's later accesses to what they write (notes/assumptions/85.md). No store of another
cxid that the load comes after waits there: such a load is one of GlobalLoadMisses. -/
def Obligations.GlobalLoadHits : Prop :=
  ∀ p ∈ loads, ∀ (s : State) (c n : Nat) (k : Kernel) (h : MoveHead) (a t : Word) (dest : Loc) (q : Place) (bs : List Byte),
    Fires s c n k h [(.lsA, ofWord a)] false (ofWord t) dest 8 → LoadsTo (s.ctx c) (n / 2) a dest →
    InGlobal s c ((a.toNat + t.toNat) % 2 ^ 57) p.2.2.1 false q →
    (s.ctx c).NoneHeld q.pa ((a.toNat + t.toNat) % 2 ^ 57) p.2.2.1 →
    s.l1Read (s.ctx c).cxid.toNat q.pa p.2.2.1 = some (bs, false) → s.foreignStores c q.pa p.2.2.1 = [] →
    let u := s.modCtx c fun x => x.saw (s.pendingStores x.cxid.toNat) q.pa p.2.2.1
    exec (p.1 h) s = .next (u.fired c n h [.lsA] dest 8 (n / 2 * 4 + 3) (dest.fits (p.2.2.2 bs)))

/-- R257, R258: a load that misses takes one of the column's sixteen outstanding misses, and its data arrives no earlier than 9 cycles
after the trigger; the data is what the core sees in the trigger's cycle, at the home or in a line that is present
(notes/assumptions/23.md, 61.md), with the stores of other cxids that the load comes after, for which its fill waits
(notes/assumptions/85.md). Registers and memory stay as they are until the miss lands; what its destination then holds until the
fill is a free value (notes/assumptions/60.md). -/
def Obligations.GlobalLoadMisses : Prop :=
  ∀ p ∈ loads, ∀ (s : State) (c n : Nat) (k : Kernel) (h : MoveHead) (a t : Word) (dest : Loc) (q : Place) (bs : List Byte),
    Fires s c n k h [(.lsA, ofWord a)] false (ofWord t) dest 8 → LoadsTo (s.ctx c) (n / 2) a dest →
    InGlobal s c ((a.toNat + t.toNat) % 2 ^ 57) p.2.2.1 false q →
    (s.ctx c).NoneHeld q.pa ((a.toNat + t.toNat) % 2 ^ 57) p.2.2.1 →
    let late := s.foreignStores c q.pa p.2.2.1
    (s.l1Read (s.ctx c).cxid.toNat q.pa p.2.2.1 = none ∨ late ≠ []) →
    s.missRead (s.ctx c).cxid.toNat q.pa p.2.2.1 late = (bs, false) →
    ((s.ctx c).fills.filter (·.col == n / 2)).length < 16 →
    ∃ t f, exec (p.1 h) s = .next t ∧ (t.ctx c).fills = (s.ctx c).fills ++ [f] ∧
      f.dest = dest ∧ f.kind = p.2.1 ∧ f.pa = q.pa ∧ f.col = n / 2 ∧ s.now + 9 ≤ f.due ∧
      f.data = bs ∧ f.behind = (if late.isEmpty then 0 else (s.ctx c).acqBound) ∧
      (late = [] → (∀ a ∈ linesOf q.pa p.2.2.1, s.l1Line (s.ctx c).cxid.toNat a = none) →
        bs = s.seenGlobal (s.ctx c).cxid.toNat q.pa p.2.2.1) ∧ f.marked = false ∧ f.dropped = false ∧
      t.mem = s.mem ∧ t.spad = s.spad ∧ (t.ctx c).clusters = (s.ctx c).clusters ∧ (t.ctx c).nst = (s.ctx c).nst

/-- R250-R253, R256, R264: a store of the low bytes of t at the address in ls.a, modulo 2^57. In the scratchpad window it writes them as
its bundle commits; no other byte and no register changes. A store to global memory enters the store queue of its column, with the next
sequence number of the core; it performs at its home later, so that no byte of memory changes now. It carries the number of the context's
last release (R279). No held store writes one of the bytes: such a store is one of HeldStores. -/
def Obligations.Stores : Prop :=
  (∀ p ∈ stores, ∀ (s : State) (c n : Nat) (k : Kernel) (h : MoveHead) (a : Word) (t : Vec),
    Reads s c n k h [(.lsA, ofWord a)] p.2.2 t → InWindow s c k (a.toNat % 2 ^ 57) p.2.1 →
    let key := s.windowKey (s.ctx c).base (a.toNat % 2 ^ 57)
    (s.ctx c).NoneHeldIn key p.2.1 →
    exec (p.1 h) s =
      .next ((((s.readBy c h.src).consumed c (n / 2) [.lsA]).writeSpad key (storedBytes p.2.1 t)).retired c)) ∧
  ∀ p ∈ stores, ∀ (s : State) (c n : Nat) (k : Kernel) (h : MoveHead) (a : Word) (t : Vec) (q : Place),
    Reads s c n k h [(.lsA, ofWord a)] p.2.2 t → InGlobal s c (a.toNat % 2 ^ 57) p.2.1 true q →
    (s.ctx c).NoneHeld q.pa (a.toNat % 2 ^ 57) p.2.1 → n / 2 < 4 → ((s.ctx c).col (n / 2)).storeQ.length < 32 →
    ∃ t' e, exec (p.1 h) s = .next t' ∧ ((t'.ctx c).col (n / 2)).storeQ = ((s.ctx c).col (n / 2)).storeQ ++ [e] ∧
      e.pa = q.pa ∧ e.data = storedBytes p.2.1 t ∧ e.cxid = (s.ctx c).cxid.toNat ∧ e.seq = s.storeSeq ∧ s.now < e.due ∧
      e.barrier = (s.ctx c).relBarrier ∧ t'.storeSeq = s.storeSeq + 1 ∧ t'.mem = s.mem ∧ t'.spad = s.spad ∧ (t'.ctx c).clusters = (s.ctx c).clusters

/-- R119, R121: under an open guard a store is held behind the stores that are held already, with the slot's literal as its term, grey
where it is misaligned (R123), and without a place in the buffer it collapses; a satisfied store to scratchpad bytes that a held store writes is held too. A load from the
scratchpad reads the bytes of held stores with the empty term, the youngest last. Of one held store with a literal as its term it forms an
alternative with its bytes under the literal and one without them under the opposite, in ls.o, and collapses where a register is named. -/
def Obligations.HeldStores : Prop :=
  (∀ p ∈ stores, ∀ (s : State) (c n : Nat) (k : Kernel) (h : MoveHead) (a : Word) (t : Vec) (b : Bool),
    Reads s c n k h [(.lsA, ofWord a)] p.2.2 t (gs := .opened h.g.val b) →
    let ea := a.toNat % 2 ^ 57
    let held := fun (e : HeldStore) => exec (p.1 h) s =
      .next ((((s.readBy c h.src).consumed c (n / 2) [.lsA]).modCtx c fun x => { x with held := x.held ++ [e] }).retired c)
    let entry : HeldStore :=
      { scratch := true, va := ea, pa := s.windowKey (s.ctx c).base ea, size := p.2.1, data := t, term := [(h.g.val, b)], col := n / 2,
        ready := s.now }
    ((s.ctx c).held.length < 16 → ea < windowEnd → ea < columnBytes * lcoreWidth s.mode.toNat → ea % p.2.1 = 0 → held entry) ∧
    ((s.ctx c).held.length < 16 → ea < windowEnd → ea < columnBytes * lcoreWidth s.mode.toNat → ea % p.2.1 ≠ 0 →
      held { entry with grey := some cAlignment }) ∧
    (∀ q, (s.ctx c).held.length < 16 → InGlobal s c ea p.2.1 true q → held { entry with scratch := false, pa := q.pa }) ∧
    (16 ≤ (s.ctx c).held.length → exec (p.1 h) s = .next (s.collapsing c n k h.g.val))) ∧
  (∀ p ∈ stores, ∀ (s : State) (c n : Nat) (k : Kernel) (h : MoveHead) (a : Word) (t : Vec),
    Reads s c n k h [(.lsA, ofWord a)] p.2.2 t → InWindow s c k (a.toNat % 2 ^ 57) p.2.1 → (s.ctx c).held.length < 16 →
    let key := s.windowKey (s.ctx c).base (a.toNat % 2 ^ 57)
    (∃ e ∈ (s.ctx c).held, ∃ i, i < p.2.1 ∧ e.writes (key + i) = true) →
    exec (p.1 h) s = .next ((((s.readBy c h.src).consumed c (n / 2) [.lsA]).modCtx c fun x => { x with held := x.held ++
      [{ scratch := true, va := a.toNat % 2 ^ 57, pa := key, size := p.2.1, data := t, term := [], col := n / 2, ready := s.now }] }).retired c)) ∧
  ∀ p ∈ loads, ∀ (s : State) (c n : Nat) (k : Kernel) (h : MoveHead) (a t : Word) (dest : Loc),
    Fires s c n k h [(.lsA, ofWord a)] false (ofWord t) dest 5 → LoadsTo (s.ctx c) (n / 2) a dest →
    let ea := (a.toNat + t.toNat) % 2 ^ 57
    let key := s.windowKey (s.ctx c).base ea
    InWindow s c k ea p.2.2.1 → isPoisoned s.poisonS key p.2.2.1 = false →
    let under := fun (es : List HeldStore) => p.2.2.2 ((List.range p.2.2.1).map fun i => heldOver es (key + i) (memGet s.spad (key + i)))
    ((∀ e ∈ (s.ctx c).held, e.term = [] ∧ e.grey = none) →
      exec (p.1 h) s = .next (s.fired c n h [.lsA] dest 5 (n / 2 * 4 + 3) (dest.fits (under (s.ctx c).held)))) ∧
    ∀ (e : HeldStore) (g : Nat) (b : Bool), (s.ctx c).held = [e] → e.term = [(g, b)] → e.grey = none →
      (∃ i, i < p.2.2.1 ∧ e.writes (key + i) = true) →
      if dest = .lsO (n / 2) then
        ∃ x y : Alt 2048, x.IsUnder (under [e]) [(g, b)] ∧ y.IsUnder (under []) [(g, !b)] ∧
          exec (p.1 h) s = .next (s.firedAs c n h [.lsA] dest 5 (n / 2 * 4 + 3) [x, y])
      else exec (p.1 h) s = .next (s.collapsing c n k g)

/-- R252, R253, R258, R262-R264, R291, R292, R294, R302: an access that is refused traps with its cause, and the address or, where it
overruns, the bank in tinf; one whose translation is not known starts a walk, one whose page is absent waits for it; the seventeenth
outstanding miss of a column and the thirty-third store of its queue wait for the oldest; a load of a poisoned granule of the scratchpad lands a
free value with the poison mark. -/
def Obligations.RefusedAccesses : Prop :=
  (∀ p ∈ loads, ∀ (s : State) (c n : Nat) (k : Kernel) (h : MoveHead) (a t : Word) (dest : Loc),
    Reads s c n k h [(.lsA, ofWord a)] false (ofWord t) → LoadsTo (s.ctx c) (n / 2) a dest →
    let ea := (a.toNat + t.toNat) % 2 ^ 57
    let m := p.2.2.1
    ((s.ctx c).held = [] → ∀ cause info, Refused s c k ea m false cause info → exec (p.1 h) s = .next (s.trapped c n cause info)) ∧
    (windowEnd ≤ ea → ea % m = 0 →
      (s.pageOf c ea true false = none → exec (p.1 h) s = .next { s.startWalk c ea with issue := {} }) ∧
      (s.pageOf c ea true false = some .absent → exec (p.1 h) s = .next { s.pageWait c ea false with issue := {} })) ∧
    (∀ q f rest, InGlobal s c ea m false q → (s.ctx c).NoneHeld q.pa ea m →
      (s.l1Read (s.ctx c).cxid.toNat q.pa m = none ∨ s.foreignStores c q.pa m ≠ []) →
      (s.ctx c).fills.filter (·.col == n / 2) = f :: rest → 15 ≤ rest.length →
      exec (p.1 h) s = .next { s.forceYield c (.fill f.id) with issue := {} }) ∧
    let key := s.windowKey (s.ctx c).base ea
    (s.LandsAlone c dest 5 → InWindow s c k ea m → (s.ctx c).NoneHeldIn key m → isPoisoned s.poisonS key m = true →
      ∃ u, exec (p.1 h) s = .next u ∧ (∃ f ∈ (u.ctx c).flight, f.land = s.now + 5 ∧ f.dest = dest ∧
        ∃ x, f.alts = [x] ∧ x.term = [] ∧ x.void = false ∧ x.grey = some cPoison) ∧ u.mem = s.mem ∧ u.spad = s.spad)) ∧
  ∀ p ∈ stores, ∀ (s : State) (c n : Nat) (k : Kernel) (h : MoveHead) (a : Word) (t : Vec),
    Reads s c n k h [(.lsA, ofWord a)] p.2.2 t →
    let ea := a.toNat % 2 ^ 57
    ((s.ctx c).held = [] → ∀ cause info, Refused s c k ea p.2.1 true cause info → exec (p.1 h) s = .next (s.trapped c n cause info)) ∧
    (windowEnd ≤ ea → ea % p.2.1 = 0 →
      (s.pageOf c ea false true = none → exec (p.1 h) s = .next { s.startWalk c ea with issue := {} }) ∧
      (s.pageOf c ea false true = some .absent → exec (p.1 h) s = .next { s.pageWait c ea true with issue := {} })) ∧
    ∀ q e rest, InGlobal s c ea p.2.1 true q → (s.ctx c).NoneHeld q.pa ea p.2.1 → n / 2 < 4 →
      ((s.ctx c).col (n / 2)).storeQ = e :: rest → 31 ≤ rest.length →
      exec (p.1 h) s = .next { s.forceYield c (.storeOut (n / 2) e.seq) with issue := {} }

/-! ## Engine commands -/

/-- R80, R236, R243: a matrix command that no check stops takes the next number of its strip's counter, its context becomes the
owner of the strip, and it stands in the strip; registers and memories stay as they are. -/
def Obligations.MatrixCommands : Prop :=
  ∀ (p : Fin 16) (s : State) (c n : Nat) (k : Kernel) (h : EngHead), Commands s c n k h → (s.ctx c).Satisfied h.inv h.g →
    ∀ i ∈ matrixCommands p, (i.2.2 (s.work c k) (s.engEnv c n h)).Accepted →
      ∃ t m, exec (i.1 h) s = .next t ∧ Issued s t c ∧
        (t.ctx c).tl = vmod (s.ctx c).tl (n / 2) Timeline.next ∧
        (t.strip ((s.ctx c).base + n / 2)).cmds = (s.strip ((s.ctx c).base + n / 2)).cmds ++ [m] ∧
        (t.strip ((s.ctx c).base + n / 2)).owner = some c ∧
        m.op = i.2.1 ∧ m.ctx = c ∧ m.num = ((s.ctx c).timeline (n / 2)).issued + 1 ∧ m.c = s.now ∧ m.wb = (s.ctx c).base

/-- R80, R314: a copy command that no check stops takes the next number of its channel's counter and stands in the channel, its
accesses after the stores that the context has issued, its writes in each space after those that its last release there names (R279). -/
def Obligations.CopyCommands : Prop :=
  ∀ (p : Fin 16) (s : State) (c n : Nat) (k : Kernel) (h : EngHead), Commands s c n k h → (s.ctx c).Satisfied h.inv h.g →
    ∀ i ∈ copyCommands p, (i.2.2 (s.work c k) (s.engEnv c n h)).Accepted →
      ∃ t m, exec (i.1 h) s = .next t ∧ Issued s t c ∧
        (t.ctx c).tl = vmod (s.ctx c).tl (4 + n / 2) Timeline.next ∧
        (vget t.chans ((s.ctx c).base + n / 2) noChan).cmds = (vget s.chans ((s.ctx c).base + n / 2) noChan).cmds ++ [m] ∧
        m.op = i.2.1 ∧ m.ctx = c ∧ m.num = ((s.ctx c).timeline (4 + n / 2)).issued + 1 ∧ m.c = s.now ∧ m.next = 0 ∧
        m.stamp = s.storeSeq ∧ m.bars = (s.ctx c).relSp

/-- R80, R345, R359: a selection or checkpoint command that no check stops takes the next number of counter 8 or 9 and stands
in its engine. -/
def Obligations.SelectionAndCheckpointCommands : Prop :=
  (∀ (s : State) (c n : Nat) (k : Kernel) (h : EngHead), Commands s c n k h → (s.ctx c).Satisfied h.inv h.g →
    ∀ i ∈ selectCommands, (i.2.2 (s.work c k) (s.engEnv c n h)).Accepted →
      ∃ t m, exec (i.1 h) s = .next t ∧ Issued s t c ∧ (t.ctx c).tl = vmod (s.ctx c).tl 8 Timeline.next ∧
        t.sel = s.sel ++ [m] ∧ m.op = i.2.1 ∧ m.ctx = c ∧ m.num = ((s.ctx c).timeline 8).issued + 1 ∧ m.c = s.now) ∧
  ∀ (s : State) (c n : Nat) (k : Kernel) (h : EngHead), Commands s c n k h → (s.ctx c).Satisfied h.inv h.g →
    ∀ i ∈ checkpointCommands, (i.2.2 (s.work c k) (s.engEnv c n h)).Accepted →
      ∃ t m, exec (i.1 h) s = .next t ∧ Issued s t c ∧ (t.ctx c).tl = vmod (s.ctx c).tl 9 Timeline.next ∧
        t.ckp = s.ckp ++ [m] ∧ m.op = i.2.1 ∧ m.ctx = c ∧ m.num = ((s.ctx c).timeline 9).issued + 1 ∧ m.c = s.now ∧
        m.stamp = s.storeSeq

/-- R80, R330, R333: a synchronisation command with legal staging words, an aligned record and address, a scope that is not stale
and, where it orders as a release, nothing of the context unresolved and no fill outstanding, takes the next number of counter 10 and
joins the context's queue of at most 32. -/
def Obligations.SyncCommands : Prop :=
  ∀ (p : Fin 16) (s : State) (c n : Nat) (k : Kernel) (h : EngHead), Commands s c n k h → (s.ctx c).Satisfied h.inv h.g →
    let e := s.engEnv c n h
    let w3 := syW3 e.w3
    ∀ i ∈ syncCommands p, syBad i.2.1 i.2.2 e = false → w3.raddr % 16 = 0 →
      (i.2.1.isPhaser = false → e.w0 % (if w3.w32 then 4 else 8) = 0) →
      (w3.rcd = true → w3.raddr + 16 ≤
        columnBytes * lcoreWidth s.mode.toNat - columnBytes * ((s.ctx c).base % lcoreWidth s.mode.toNat)) →
      (i.2.1 = .base ∨ (i.2.1.isPhaser = false ∧ w3.sem ≠ 0) → (s.ctx c).staleScope w3.scope = false) →
      (s.ctx c).synQ.length < 32 →
      (i.2.1.isPhaser = false → 2 ≤ w3.sem → (s.ctx c).fills = [] ∧ (s.ctx c).settled) →
      ∃ t m, exec (i.1 h) s = .next t ∧ Issued s t c ∧ (t.ctx c).tl = vmod (s.ctx c).tl 10 Timeline.next ∧
        t.syn = s.syn ++ [m] ∧ (t.ctx c).synQ = (s.ctx c).synQ ++ [m.num] ∧ m.op = i.2.1 ∧ m.p = i.2.2 ∧ m.ctx = c ∧
        m.num = ((s.ctx c).timeline 10).issued + 1 ∧ m.w0 = e.w0 ∧ m.w1 = e.w1 ∧ m.w2 = e.w2 ∧ m.w3 = e.w3 ∧ m.sent = false

/-- R79, R275, R277: for entries 1 to 14, scope.set reads its core mask from the scratchpad and marks its entry valid and changing; scope.clr marks its entry
changing; each takes the next number of counter 11 and raises the entry's generation. R278: scope.clr on an entry that is not valid or is
changing takes a stale-scope trap. scope.set asks only that the entry is not changing: that it passes on an invalid entry is the
model's reading of R275 against the words of R278 (notes/assumptions/77.md). -/
def Obligations.ScopeCommands : Prop :=
  ∀ (p : Fin 16) (s : State) (c n : Nat) (k : Kernel) (h : EngHead), Commands s c n k h → (s.ctx c).Satisfied h.inv h.g →
    let e := s.engEnv c n h
    let old := vget (s.ctx c).scopes p.val {}
    let key := s.windowKey (s.ctx c).base e.w0
    1 ≤ p.val → p.val ≤ 14 →
    ((s.ctx c).staleScope p.val = true → exec (.scopeClr h p) s = .next (s.trapped c n cStaleScope)) ∧
    ((s.ctx c).staleScope p.val = false → ∃ t o, exec (.scopeClr h p) s = .next t ∧ Issued s t c ∧ (t.ctx c).tl = vmod (s.ctx c).tl 11 Timeline.next ∧
      t.scopeOps = s.scopeOps ++ [o] ∧ o.ctx = c ∧ o.entry = p.val ∧ o.clr = true ∧
      (t.ctx c).scopes = vset (s.ctx c).scopes p.val { old with gen := old.gen + 1, chg := true }) ∧
    (old.chg = false → e.w0 < 2 ^ 21 → e.w2 < 4 → e.w0 % 32 = 0 → e.w0 + 32 ≤ columnBytes * lcoreWidth s.mode.toNat → e.w0 / 65536 < 8 * k.width →
      s.owns c (15 + 8 * (s.ctx c).base + e.w0 / 65536) s.now = true →
      s.occupied (15 + 8 * (s.ctx c).base + e.w0 / 65536) s.now = false →
      isPoisoned s.poisonS key 32 = false → s.maskAllowed (s.tenantOf c) (memNat s.spad key 32) = true →
      ∃ t o, exec (.scopeSet h p) s = .next t ∧ Issued s t c ∧ (t.ctx c).tl = vmod (s.ctx c).tl 11 Timeline.next ∧
        t.scopeOps = s.scopeOps ++ [o] ∧ o.ctx = c ∧ o.entry = p.val ∧ o.clr = false ∧
        (t.ctx c).scopes = vset (s.ctx c).scopes p.val
          { val := true, chg := true, gen := old.gen + 1, peer := e.w2 % 2 == 1, host := e.w2 / 2 % 2 == 1,
            slices := BitVec.ofNat 64 e.w1, cores := BitVec.ofNat 256 (memNat s.spad key 32) })

/-! ## Control -/

/-- R175-R177, R182: br and brx branch under a satisfied guard, by their offset or to ix; brq and brq.f pop the condition queue and
branch on its oldest bit; a branch leaves the loops whose body its target lies outside of; a target outside the kernel, and an empty
queue, trap. -/
def Obligations.Branches : Prop :=
  ∀ (s : State) (c n : Nat) (k : Kernel) (inv : Bool) (g : Fin 16) (o : BitVec 11), Alone s c n k →
    let x := s.ctx c
    let there : Int := x.pc + o.toInt
    let ix : Int := (x.col (n / 2)).ix.toNat
    let branch := fun (i : Instr) (s' : State) (t : Int) => GoesTo s c n k i s' (leaveLoops t 5) t
    (x.Satisfied inv g → branch (.br inv g o) s there ∧ branch (.brx inv g) s ix) ∧
    (x.gstate inv g.val = .no → x.GoesOn k → exec (.br inv g o) s = .next (s.retired c) ∧ exec (.brx inv g) s = .next (s.retired c)) ∧
    (∀ b rest, x.cq = b :: rest →
      let s' := s.modCtx c fun x => { x with cq := rest }
      (if b then branch (.brq o) s' there else branch (.brqF o) s' there) ∧
      (x.GoesOn k → if b then exec (.brqF o) s = .next (s'.retired c) else exec (.brq o) s = .next (s'.retired c))) ∧
    (x.cq = [] → exec (.brq o) s = .next (s.trapped c n cCqUnderflow) ∧ exec (.brqF o) s = .next (s.trapped c n cCqUnderflow))

/-- R178, R182: a call pushes the index after it on a link stack of sixteen, ret goes back to the newest and leaves the loops of the
calls it leaves; overflow and underflow trap. -/
def Obligations.CallsAndReturns : Prop :=
  ∀ (s : State) (c n : Nat) (k : Kernel) (o : BitVec 11), Alone s c n k →
    let x := s.ctx c
    let call := fun (i : Instr) (t : Int) =>
      (x.links.length < 16 → GoesTo s c n k i s (fun x => { x with links := (x.pc + 1) :: x.links }) t) ∧
      (16 ≤ x.links.length → 0 ≤ t → t < k.ncode → exec i s = .next (s.trapped c n cLinkOverflow))
    call (.call o) (x.pc + o.toInt) ∧ call .callx (x.col (n / 2)).ix.toNat ∧
    match x.links with
    | r :: rest => GoesTo s c n k .ret s (fun x => leaveCalls 5 { x with links := rest }) r
    | [] => exec .ret s = .next (s.trapped c n cLinkUnderflow)

/-- R179, R180, R184: loop and ploop with a count of 0 skip their body; else they push an entry of at most four that saves lc, and
their body begins; ploop opens gate 0 alone. A body that ends beyond the kernel, a full stack, a second pipelined loop and unresolved
gates trap. -/
def Obligations.LoopEntries : Prop :=
  ∀ (s : State) (c n : Nat) (k : Kernel) (l : BitVec 11) (st : BitVec 3), Alone s c n k →
    let x := s.ctx c
    let t := x.lcNow
    let last := x.pc + l.toNat
    let entry := fun (p : Bool) => ({ first := x.pc + 1, last := last, pipe := p, save := t, lk := x.links.length } : LoopEntry)
    let looped := fun (x : Ctx) => { x with loops := entry false :: x.loops, lc := t }
    let piped := fun (x : Ctx) => { x.setGates (· == 0) with
      loops := entry true :: x.loops, pst := st, fel := false, fer := false, strt := 1, rem := t - 1, pl := true }
    let skip := fun (x : Ctx) => { x with pst := st, fel := false, fer := false, strt := 0, rem := 0 }
    let ready := (List.range 8).all fun i => !x.isOpen (8 + i) && !x.hasPark (8 + i)
    let stops := fun (i : Instr) (cause : Cause) => exec i s = .next (s.trapped c n cause)
    (k.ncode ≤ last → stops (.loop l) cBranchTarget ∧ (ready → stops (.ploop st l) cBranchTarget)) ∧
    (ready = false → stops (.ploop st l) cGuardState) ∧
    (last + 1 < k.ncode ∨ (last < k.ncode ∧ t ≠ 0) → (4 ≤ x.loops.length → stops (.loop l) cLoopState) ∧
      (ready → 4 ≤ x.loops.length ∨ x.pl = true → stops (.ploop st l) cLoopState)) ∧
    (t = 0 → last < k.ncode → x.loops.length < 4 → GoesTo s c n k (.loop l) s id (last + 1) ∧
      (ready → x.pl = false → GoesTo s c n k (.ploop st l) s skip (last + 1))) ∧
    (t ≠ 0 → last < k.ncode → x.loops.length < 4 →
      ((looped x).GoesOn k → exec (.loop l) s = .next ((s.modCtx c looped).retired c)) ∧
      (ready → x.pl = false → (piped x).GoesOn k → exec (.ploop st l) s = .next ((s.modCtx c piped).retired c)))

/-- R104, R107, R191: gopen opens the guards of its mask; an open one, and a gate in a pipelined loop, trap. bkrel ends the cells of
one resource at the next cycle; the task's own columns trap. -/
def Obligations.GuardsAndCells : Prop :=
  ∀ (s : State) (c n : Nat) (k : Kernel), Alone s c n k → (s.ctx c).GoesOn k →
    (∀ m : BitVec 15,
      let bad := (List.range 15).any fun i => m.getLsbD i && ((s.ctx c).isOpen (i + 1) || ((s.ctx c).pl && decide (7 ≤ i)))
      (bad = false → (∀ q ∈ (s.ctx c).parked, q.due.map (·.1) = some (s.now + 1) → m.getLsbD (q.g - 1) = false) →
        exec (.gopen m) s = .next ((s.modCtx c fun x => { x with
        guards := (List.range 15).foldl (fun gs i => if m.getLsbD i then vset gs (i + 1) .opened else gs) x.guards }).retired c)) ∧
      (bad = true → exec (.gopen m) s = .next (s.trapped c n cGuardState))) ∧
    ∀ r : BitVec 6,
      (r.toNat < 4 ∧ r.toNat < k.width → exec (.bkrel r) s = .next (s.trapped c n cBooking)) ∧
      (¬ (r.toNat < 4 ∧ r.toNat < k.width) → (∀ j, resColumn r.toNat = some j → j < k.width) →
        ∀ q, physRes s.mode.toNat (s.ctx c).base r.toNat = some q →
          exec (.bkrel r) s = .next ((s.releaseRes c q (s.now + 1)).retired c)) ∧
      (∀ j, resColumn r.toNat = some j → k.width ≤ j → exec (.bkrel r) s = .next (s.retired c))

/-- R116, R279, R281: with nothing unresolved, no fill outstanding and a scope that is not stale, an acquire fence invalidates the L1
lines of the cxid homed in the scope, a release fence holds later writes behind the stores queued, and both do both; a drain goes on
once the writes to its spaces have performed, and waits until then. What the release marks (relBarrier for stores, relSp for the writes
of engine commands; GlobalStores and CopyCommands carry them on) holds: the oldest store of a queue does not perform while a store under
its cxid, or one that its own context has released, with a number below its mark stands in a queue of the core, and then performs as its
turn comes; a landing of a copy piece does not take place while such a store stood in a queue as the cycle began. That an acquire notes
the number of the next store (acq), and that released stores of other cxids count, is notes/assumptions/85.md (DEDUCED); that the
landing reads the stores queued as the cycle began is notes/assumptions/29.md (DEDUCED). -/
def Obligations.FencesAndDrains : Prop :=
  (∀ (s : State) (c n : Nat) (k : Kernel) (p : BitVec 4) (sc : Fin 16), Alone s c n k → (s.ctx c).GoesOn k → (s.ctx c).settled →
    let acquire := fun (u : State) => if p.getLsbD 1 then
        (u.invalidateL1 (s.ctx c).cxid.toNat ((s.ctx c).scopeSlices sc.val)).modCtx c fun x => { x with acq := s.storeSeq } else u
    let release := fun (u : State) => u.modCtx c fun x => { x with
      relBarrier := s.storeSeq, relSp := vgen 4 fun i => if p.getLsbD i then s.storeSeq else vget x.relSp i 0 }
    (((s.ctx c).fills = [] ∨ p.getLsbD 1 = false) →
      ((s.ctx c).staleScope sc.val = false →
        exec (.fenceAcq p sc) s = .next ((acquire s).retired c) ∧ exec (.fenceRel p sc) s = .next ((release s).retired c) ∧
        exec (.fenceAr p sc) s = .next ((acquire (release s)).retired c)) ∧
      ((s.ctx c).staleScope sc.val = true →
        exec (.fenceAcq p sc) s = .next (s.trapped c n cStaleScope) ∧ exec (.fenceRel p sc) s = .next (s.trapped c n cStaleScope) ∧
        exec (.fenceAr p sc) s = .next (s.trapped c n cStaleScope))) ∧
    ∀ d : BitVec 3,
      (s.undrained c d.toNat = false → exec (.drain d) s = .next (s.retired c)) ∧
      (s.undrained c d.toNat = true → exec (.drain d) s = .next { s.forceYield c (.drained d) with issue := {} })) ∧
  ∀ (s : State) (c : Fin 8) (j : Fin 4),
    (∀ e es, ((s.ctx c.val).col j.val).storeQ = e :: es → ((∃ o ∈ s.pendingStores e.cxid, o.seq < e.barrier) ∨
      s.releasedStores e.cxid e.barrier ≠ []) → exec (.storePerform c j) s = .next s) ∧
    (∀ e es, ((s.ctx c.val).col j.val).storeQ = e :: es → (∀ o ∈ s.pendingStores e.cxid, e.barrier ≤ o.seq) →
      s.releasedStores e.cxid e.barrier = [] → e.due ≤ s.now →
      s.spanReady e.pa e.data.length = true → (∀ o ∈ s.storesBefore c.val e.seq (min e.seq e.after), o.meets e.pa e.data.length = false) →
      exec (.storePerform c j) s = .next ((s.writeGlobal e.pa e.data (some e.cxid)).modCtx c.val
        fun x => x.modCol j.val fun k => { k with storeQ := k.storeQ.tail })) ∧
    ∀ l ∈ s.landings, (∃ p ∈ l.parts, ∃ o ∈ s.queued0, (o.1 = (s.ctx l.ctx).cxid.toNat ∨ o.2.2 = true) ∧ o.2.1 < vget l.bars (spaceBit p.1) 0) →
      ∃ t, exec (.cpyPieceLand j) s = .next t ∧ l ∈ t.landings

/-- R25, R82, R137, R138, R141, R146: a yield or syncc whose wait is satisfied and whose frame's page is mapped passes through: its
cells go, the carried registers stay and the others are 0; m registers, ports, latches, partial sums, staging, ix, lc, rb, cq, guards, held
stores, loops and links are as at a task's start (R96), its frame's header holds the wait, and the context waits for a booking of the segment
named. One whose wait is not satisfied, as a phaser wait never is at its commit (R337), completes where hardware
can write its frame: the task waits, with its header written, its carried registers in the carry image behind it (R134), and no byte of
memory outside its frame changed, on its context for a
timeline counter and off it otherwise; a phaser wait is on its way to SYN. An arrival wait tests any address, and the selector's register
is read as it stands (notes/assumptions/72.md, 73.md); a frame whose page is absent stops the model and is not spoken of
(notes/assumptions/15.md). -/
def Obligations.Yields : Prop :=
  ∀ (s : State) (c n : Nat) (k : Kernel) (q : BitVec 9) (i : Instr) (w : Wait) (t : Task),
    MayLeave s c n k t q.toNat → YieldsFor s c n q i w →
    let wait := { t with wait := w, ctx := some c }
    let size := 64 + 640 * k.width
    (∀ e, s.waitDone wait = true → s.walk t.tenant t.fra = .page e → e.space = 0 → ∃ s' sel, exec i s = .next s' ∧
      (s'.ctx c).run = .ready 1 q.toNat none false s.now ∧ (∃ u, s'.task t.id = some u ∧ u.seg = q.toNat ∧ u.wait = .none ∧ u.st = t.st) ∧
      (s'.ctx c).task = (s.ctx c).task ∧ (s'.ctx c).wid = t.wid ∧ (s'.ctx c).rb = 0 ∧ (s'.ctx c).lc = 0 ∧ (s'.ctx c).cq = [] ∧
      (s'.ctx c).loops = [] ∧ (s'.ctx c).links = [] ∧ (s'.ctx c).held = [] ∧ (s'.ctx c).rd = Ctx.init.rd ∧
      (∀ j, j < 4 → (s'.ctx c).col j = { Column.init with storeQ := ((s.ctx c).col j).storeQ }) ∧
      (s'.ctx c).guards = Ctx.init.guards ∧ (s'.ctx c).nst = (s.ctx c).nst ∧ (s'.ctx c).tl = (s.ctx c).tl ∧
      (∀ j, j < k.width → (∀ r ∈ k.carriedS q.toNat j, (s'.ctx c).sval j r = (s.ctx c).sval j r) ∧
        ∀ r ∈ k.carriedV q.toNat j, (s'.ctx c).vval j r = (s.ctx c).vval j r) ∧
      (∀ j r, j < 4 → (r < 32 → ¬ (j < k.width ∧ r ∈ k.carriedS q.toNat j) → (s'.ctx c).alts (.s j r) = [{ val := 0 }]) ∧
        (r < 16 → ¬ (j < k.width ∧ r ∈ k.carriedV q.toNat j) → (s'.ctx c).alts (.v j r) = [{ val := 0 }]) ∧
        (r < 8 → (s'.ctx c).alts (.m j r) = [{ val := 0 }])) ∧
      s'.mem = memWrite s.mem (e.pa t.fra) (s.headerBytes { wait with seg := q.toNat, wsel := sel }) ∧
      s'.spad = s.spad ∧ ∀ b ∈ s'.cal, b.ctx = c → ∃ e, b.cut = some e ∧ e ≤ s.now + 1) ∧
    (s.waitDone wait = false → s.FrameOpen t.tenant t.fra size → (∀ j, (k.carriedS q.toNat j).length ≤ 16 ∧ (k.carriedV q.toNat j).length ≤ 2) →
      s.Inv → ∃ s' sel, exec i s = .next s' ∧
      (∃ u, s'.task t.id = some u ∧ u.st = .waiting ∧ u.wait = w ∧ u.seg = q.toNat ∧ u.restore = true) ∧
      (s'.ctx c).run = (match w with | .timeline _ _ => .wait | _ => .free) ∧
      (∀ id p, w = .phaser id p → ∃ x, s'.phWaits = s.phWaits ++ [x] ∧ x.task = t.id ∧ x.tenant = t.tenant ∧ x.ctx = c ∧
        x.die = id / 2 ^ 24 % 2 ∧ x.index = id % 2 ^ 24 ∧ x.phase = p ∧ x.arrived = false ∧ s.now < x.due) ∧
      (∀ e, s.walk t.tenant t.fra = .page e →
        memRead s'.mem (e.pa t.fra) 64 = s.headerBytes { wait with seg := q.toNat, wsel := sel }) ∧
      (s.Apart t.tenant t.fra size → ∀ j o b, j < k.width → (s.ctx c).imageByte k q.toNat j o = some b → s'.ImageAt t.tenant t.fra j o b) ∧
      (∀ a, s.OffFrame t.tenant t.fra size a → memGet s'.mem a = memGet s.mem a) ∧
      s'.spad = s.spad ∧ ∀ b ∈ s'.cal, b.ctx = c → ∃ e, b.cut = some e ∧ e ≤ s.now + 1)

/-- R145, R147, R189, R203: fork, inside loops and calls too (R178, R179), queues a child with ix as its wid; done ends the task, which
leaves its context once its results have landed, and counts it out of its parent's children, in the header of the parent's frame, and leaves the parent the stores to wait for as it joins
(notes/assumptions/22.md); trap commits its bundle and leaves a program trap for the next boundary; tret leaves handler mode and waits for a
booking of segment tseg at tres, and outside a handler it traps. -/
def Obligations.TasksEndAndTrap : Prop :=
  ∀ (s : State) (c n : Nat) (k : Kernel), Alone s c n k →
    let x := s.ctx c
    (∀ (t : Task) (q : BitVec 9) (u : State), s.boundTask c = some t → x.settled → x.GoesOn k → q.toNat < k.nseg →
      (s.allocFrame t.tenant k.frameSize).1.isSome = true → s.readsReady t.tenant (s.forkSpans t k) = true →
      (s.modCtx c (·.advance s.now)).forkTask c q.toNat (x.col (n / 2)).ix = .ok u →
      exec (.fork q) s = .next { u with issue := {} } ∧ u.nextId = s.nextId + 1 ∧ ∃ v ∈ u.tasks,
        v.id = s.nextId ∧ v.wid = (x.col (n / 2)).ix ∧ v.seg = q.toNat ∧ v.par = some t.id ∧ v.st = .queued ∧ v.restore = true) ∧
    (∀ t, s.boundTask c = some t → x.settled → (∀ i, i < 12 → (x.timeline i).latch = none) → t.par = none →
      ∃ s', exec .done s = .next s' ∧ (s'.ctx c).run = .ending ∧ (∀ u ∈ s'.tasks, u.id ≠ t.id) ∧ (s'.ctx c).cq = [] ∧
        (s'.ctx c).flight = x.flight ∧ s'.mem = s.mem ∧ s'.spad = s.spad ∧
        ∀ b ∈ s'.cal, b.ctx = c → ∃ e, b.cut = some e ∧ e ≤ s.now + 1) ∧
    (∀ t p u e, s.boundTask c = some t → x.settled → (∀ i, i < 12 → (x.timeline i).latch = none) → t.par = some p → p ≠ t.id →
      s.task p = some u → s.readsReady t.tenant t.endSpans = true →
      s.walk u.tenant u.fra = .page e → e.space = 0 →
      ∃ s' v, exec .done s = .next s' ∧ (s'.ctx c).run = .ending ∧ (∀ u ∈ s'.tasks, u.id ≠ t.id) ∧ s'.task p = some v ∧
        v.nkid = u.nkid - 1 ∧ v.joined = u.joined ++ s.storesOfTask t ∧ v.fra = u.fra ∧ v.wait = u.wait ∧ v.st = u.st ∧
        s'.mem = memWrite s.mem (e.pa u.fra) (s.headerBytes v) ∧ s'.spad = s.spad ∧
        ∀ b ∈ s'.cal, b.ctx = c → ∃ e, b.cut = some e ∧ e ≤ s.now + 1) ∧
    (∀ code, exec (.trap code) s = .next ((s.modCtx c fun x => { x with
      pendP := some { cause := cProgram, cls := 3, slot := n, pc := x.pc, info := code.toNat } }).retired c)) ∧
    (x.tres.toNat < k.ncode →
      (x.inHandler = true → exec .tret s = .next { (s.release c (s.now + 1)).modCtx c fun x =>
        { (x.committed s.now 0 none false).leaveHandler with
          run := .ready 1 (x.tseg.toNat % 512) (some x.tres.toNat) false s.now } with issue := {} }) ∧
      (x.inHandler = false → exec .tret s = .next (s.trapped c n cTrapState)))

/-! ## Events of a context -/

/-- R10, R41, R106, R109, R113, R170, R221, R257, R259, R264: a result that lands alone gives a latch or register its value, a spill register
its part beside a latch, pushes its bit into cq, or resolves its guard; its flags are ORed into nst as it lands, and one whose enable is set leaves
the latch as it was, is not ORed in, and raises an arithmetic trap that names the lowest such flag, but in a context that drains (R200) or has
ended (notes/assumptions/56.md): there it is ORed in and raises no trap; a fill gives its latch or register the bytes it brings; a parked compare resolves its guard; the oldest entry of a
store queue performs at its home. R120, R265: the oldest held store whose term is empty performs in a bank of the kernel's width that its context owns, enters
the store queue of its column for global memory, or marks an overrun once. -/
def Obligations.Landings : Prop :=
  (∀ (s : State) (c : Fin 8) (j : Fin 4),
    let x := s.ctx c.val
    (∀ (f : InFlight) (v : Vec), x.flight = [f] → f.land ≤ s.now → f.flags = 0 → f.spill = none → f.fill = none → f.red = none →
      f.late = [] → f.alts = [{ val := v }] →
      (f.dest.isLatch ∨ f.dest.isReg = true → exec (.resultLanding c) s = .next (s.modCtx c.val fun x =>
        ((({ x with flight := [] } : Ctx).endBinding f.dest).setAlts f.dest [{ val := v }]).evalParks s.now)) ∧
      (f.dest = .cq → exec (.resultLanding c) s = .next (s.modCtx c.val fun x =>
        ({ x with flight := [], cq := x.cq ++ [v.getLsbD 0] } : Ctx).evalParks s.now)) ∧
      (∀ g, f.dest = .guard g → 0 < g → g < 16 →
        ∃ t, exec (.resultLanding c) s = .next t ∧ (t.ctx c.val).guard g = .resolved (v.getLsbD 0) ∧ t.mem = s.mem ∧ t.spad = s.spad)) ∧
    (∀ (f : InFlight) (v u : Vec) (l : Loc), x.flight = [f] → f.land ≤ s.now → f.flags = 0 → f.spill = some (l, u) → f.moved = [] →
      f.fill = none → f.red = none → f.late = [] → f.alts = [{ val := v }] → f.dest.isLatch → l.isReg = true →
      exec (.resultLanding c) s = .next (s.modCtx c.val fun x =>
        ((((({ x with flight := [] } : Ctx).endBinding f.dest).setAlts f.dest [{ val := v }]).endBinding l).setAlts l [{ val := u }]).evalParks s.now)) ∧
    (∀ (f : InFlight) (v : Vec), x.flight = [f] → f.land ≤ s.now → f.spill = none → f.fill = none → f.red = none → f.late = [] →
      f.alts = [{ val := v }] →
      f.dest.isLatch → let calm := fun (i : Nat) => !(f.flags.getLsbD i && x.nst.getLsbD (8 + i))
      ∃ t, exec (.resultLanding c) s = .next t ∧ t.mem = s.mem ∧ t.spad = s.spad ∧
        (∀ i, i < 64 → (t.ctx c.val).nst.getLsbD i =
          (x.nst.getLsbD i || (decide (i < 7) && f.flags.getLsbD i && (x.run.quiet || calm i)))) ∧
        ((∀ i, i < 7 → calm i = true) → (t.ctx c.val).alts f.dest = [{ val := f.dest.holds v }] ∧ (t.ctx c.val).pendL = x.pendL) ∧
        ∀ i, i < 7 → calm i = false → (∀ i', i' < i → calm i' = true) → (t.ctx c.val).alts f.dest = x.alts f.dest ∧
          (x.run.quiet = false → ∃ r, (t.ctx c.val).pendL = x.pendL ++ [r] ∧ r.cause = cArithmetic i ∧ r.info = i ∧ r.slot = f.slot ∧ r.pc = f.pc)) ∧
    (∀ p ∈ loads, ∀ f, x.fills = [f] → f.due ≤ s.now → s.homeReady f.pa = true →
      (s.releasedStores x.cxid.toNat f.behind).any (·.meets f.pa f.kind.size) = false → f.kind = p.2.1 →
      f.dest.isLatch ∨ f.dest.isReg = true → f.marked = true →
      f.dropped = false → f.poison = false → f.forms = [{ term := [] }] → f.data.length = p.2.2.1 →
      ∃ v, v.val = f.dest.fits (p.2.2.2 f.data) ∧ exec (.l1Fill c) s = .next ((s.l1Fill x.cxid.toNat f.pa p.2.2.1).modCtx c.val fun x =>
        (({ x with fills := [] } : Ctx).setAlts f.dest [v]).evalParks s.now)) ∧
    (∀ p d b, x.parked = [p] → p.due = some (d, b) → d ≤ s.now → 0 < p.g → p.g < 16 →
      ∃ t, exec (.parkedCompareResolve c) s = .next t ∧ (t.ctx c.val).guard p.g = .resolved b ∧ (t.ctx c.val).parked = [] ∧
        t.mem = s.mem ∧ t.spad = s.spad) ∧
    ∀ e, s.storeDue c.val j.val = some e → exec (.storePerform c j) s = .next ((s.writeGlobal e.pa e.data (some e.cxid)).modCtx c.val
      fun x => x.modCol j.val fun k => { k with storeQ := k.storeQ.tail })) ∧
  ∀ (s : State) (c : Fin 8) (h : HeldStore) (hs : List HeldStore),
    let x := s.ctx c.val
    let bank := h.va / 65536
    let owned := decide (bank < 8 * ((s.boundTask c.val).map (·.width)).getD 4) && s.owns c.val (bankRes x.base h.va) s.now
    x.held = h :: hs → h.term = [] → h.grey = none → h.absent = false → h.ready ≤ s.now → x.run.pausesHeld = false →
    (h.scratch = true → owned = true → exec (.heldStorePerform c) s =
      .next ((s.writeSpad h.pa (leBytes h.size h.data.toNat)).modCtx c.val fun x => { x with held := hs })) ∧
    (h.scratch = true → owned = false → h.ovr = false → x.run.quiet = false → exec (.heldStorePerform c) s =
      .next (s.modCtx c.val fun x => { x with held := { h with ovr := true } :: hs, pendO := some (15 + bank) })) ∧
    (h.scratch = false → h.col < 4 → (x.col h.col).storeQ.length < 32 → ∃ t e, exec (.heldStorePerform c) s = .next t ∧
      ((t.ctx c.val).col h.col).storeQ = (x.col h.col).storeQ ++ [e] ∧ e.pa = h.pa ∧ e.data = leBytes h.size h.data.toNat ∧
      e.seq = s.storeSeq ∧ (t.ctx c.val).held = hs ∧ t.mem = s.mem ∧ t.spad = s.spad)

/-- R193-R202, and by notes/assumptions/83.md (DESIGN CHOICE) that a record written outside handler mode has dbl and dcause 0: a trap due at
the boundary of a context that issues, or whose cells have run out, waits for the results in flight (no other arithmetic or
write-collision trap being due, no overrun); then the memories and registers are as before, the cells go, the record is written, and the
handler is entered or the task is held and reported. In handler mode only dbl and dcause of the record change, and the task is held. -/
def Obligations.TrapDelivery : Prop :=
  ∀ (s : State) (c : Fin 8),
    let x := s.ctx c.val
    (∀ t rest, s.drainOver c.val = none → s.issues c.val = true ∨ s.lastCellGone c.val = true → x.trapsDue = t :: rest → (∀ r ∈ rest, r.cause.code ≠ 0x20 ∧ r.cause.code ≠ 0x0A) →
      t.cause.code ≠ 0x10 → exec (.trapDelivery c) s = .next (s.modCtx c.val fun x => { x with
        run := .drain (x.flight.foldl (fun d f => max d f.land) s.now) { t with mult := !rest.isEmpty }
        pendL := [], pendP := none, walked := [] })) ∧
    ∀ d r, x.run = .drain d r → d ≤ s.now → x.flight = [] →
      ∃ t, exec (.trapDelivery c) s = .next t ∧ t.mem = s.mem ∧ t.spad = s.spad ∧ (t.ctx c.val).clusters = x.clusters ∧
        (∀ b ∈ t.cal, b.ctx = c.val → ∃ e, b.cut = some e ∧ e ≤ s.now + 1) ∧
        (x.inHandler = false →
          ((t.ctx c.val).tpc.toNat = r.pc % 2 ^ 64 ∧ (t.ctx c.val).tinf.toNat = r.info % 2 ^ 64 ∧
            (t.ctx c.val).tres.toNat = x.pc % 2 ^ 64 ∧ (t.ctx c.val).tseg.toNat = x.seg % 2 ^ 64) ∧
          (x.tvec.getLsbD 63 = true → r.hold = false →
            (t.ctx c.val).run = .ready 1 (x.tvec.toNat % 512) none false s.now ∧ (t.ctx c.val).tcs = tcsOf r ||| 0x800000000#64) ∧
          (x.tvec.getLsbD 63 = false ∨ r.hold = true → (t.ctx c.val).run = .held ∧ (t.ctx c.val).tcs = tcsOf r ∧
            ∃ e, (t.die s.dieNo).waiting = (s.die s.dieNo).waiting ++ [e] ∧ e.kind = 3 ∧ e.ctx = c.val ∧ e.a = (tcsOf r).toNat)) ∧
        (x.inHandler = true → (t.ctx c.val).run = .held ∧ (t.ctx c.val).tpc = x.tpc ∧ (t.ctx c.val).tres = x.tres ∧
          (t.ctx c.val).tseg = x.tseg ∧ (t.ctx c.val).tinf = x.tinf ∧
          (t.ctx c.val).tcs = (x.tcs &&& 0xFFFF00FFFFFFFFFF#64) ||| BitVec.ofNat 64 (r.cause.code * 2 ^ 40 + 2 ^ 37))

/-- R140, R147, R158, R204-R209: a pre-emption at a boundary keeps results in flight in the replay buffer and leaves registers,
columns, pc and memories as they are (its order among the events of the cycle: notes/assumptions/26.md); a slice end whose grace has
passed asks for one; a context without a further cell starts to deliver an overrun; a context whose task is over and has nothing in flight
is free; an eviction of a quiescent context, once the homes of its save area are ready, ends with the image, of the size of R210, at its address; a satisfied wait of a task that holds no context makes it
ready in the next cycle, at the tail of its queue or, after an arrival-word wait, for its core. -/
def Obligations.Boundaries : Prop :=
  ∀ (s : State) (c : Fin 8),
    let x := s.ctx c.val
    (s.preemptDue c.val = true → ∃ t, exec (.preemption c) s = .next t ∧ t.mem = s.mem ∧ t.spad = s.spad ∧
      (t.ctx c.val).run = .preempted s.now (s.pattern c.val s.now false) none false ∧ (t.ctx c.val).flight = [] ∧
      (t.ctx c.val).replay = x.replay ++ x.flight.map (fun f => { f with land := f.land - s.now }) ∧
      (t.ctx c.val).clusters = x.clusters ∧ (t.ctx c.val).cols = x.cols ∧ (t.ctx c.val).pc = x.pc ∧ (t.ctx c.val).preReq = false) ∧
    (s.graceOver c.val = true → exec (.sliceEndGraceExpiry c) s = .next (s.modCtx c.val fun x => { x with preReq := true })) ∧
    (s.lastCellGone c.val = true → ∃ t d r, exec (.overrunAfterLastCell c) s = .next t ∧ (t.ctx c.val).run = .drain d r ∧
      r.cause = cOverrun ∧ r.pc = x.pc ∧ (t.ctx c.val).clusters = x.clusters ∧ t.mem = s.mem ∧ t.spad = s.spad) ∧
    (x.run = .ending → x.flight = [] → ∃ t, exec (.contextFree c) s = .next t ∧ (t.ctx c.val).run = .free ∧ (t.ctx c.val).task = none ∧
      (t.ctx c.val).tl = x.tl ∧ t.mem = s.mem ∧ t.spad = s.spad) ∧
    (∀ a m held f pat inner waiting, x.run = .evicting a m held f pat inner waiting → x.quiescent = true →
      s.spanReady a (imageSize (((s.boundTask c.val).map (·.width)).getD 1)) = true → ∃ t i, exec (.contextImageSave c) s = .next t ∧ t.images = i :: s.images ∧ i.ctx = c.val ∧
        i.bytes.length = imageSize (((s.boundTask c.val).map (·.width)).getD 1) ∧ i.bytes.take 64 = leBytes 64 (s.imageHeader c.val held) ∧ t.mem = memWrite s.mem a i.bytes ∧ (t.ctx c.val).run = .free ∧
        (t.ctx c.val).task = none) ∧
    (∀ f t, (∀ c', c' < 8 → (s.ctx c').task ≠ some f) → s.task f = some t → s.taskWaitOver t = true → ∃ s', exec (.taskReady f) s = .next s' ∧
      (t.wait.kind = 1 → s' = s.modTask f fun u => { u with st := .ready, readyAt := s.now + 1 }) ∧
      (t.wait.kind ≠ 1 → s' = (s.modTask f fun u => { u with st := .queued, readyAt := s.now + 1, aged := false }).modDie t.die
        fun d => { d with queues := vmod d.queues t.pri (· ++ [f]) }))

/-! ## Events of the engines -/

/-- R241-R248: a load phase fills its buffer and leaves the tiles; an array step adds its sums to its tile and leaves the other tiles
and the buffers; mx.st writes a row of 128 bytes a cycle, once what a release fence put before it has performed, and leaves the tiles; a command that is over completes on its counter and leaves
its strip's list, mx.zero with its tile cleared, the others with every tile as it was. -/
def Obligations.MatrixEvents : Prop :=
  ∀ (s : State) (j : Fin 4) (m : MCmd) (k : Nat),
    let u := s.strip j.val
    (s.mtxFind j.val (·.loadDue s.now) = some (m, k) → m.buf < 2 → Quietly s (.mtxLoadPhaseComplete j) fun t =>
      vget (t.strip j.val).bufs m.buf BBuf.init = m.buffer ∧ (t.strip j.val).tiles = u.tiles ∧ t.ctxs = s.ctxs) ∧
    (s.mtxFind j.val (·.stepDue s.now) = some (m, k) → m.tile < 8 → Quietly s (.arrayStepComplete j) fun t =>
      vget (t.strip j.val).tiles m.tile Tile.init = m.compute (m.snap.getD BBuf.init) (vget u.tiles m.tile Tile.init) ∧
      (∀ i, i ≠ m.tile → vget (t.strip j.val).tiles i Tile.init = vget u.tiles i Tile.init) ∧ (t.strip j.val).bufs = u.bufs ∧ t.ctxs = s.ctxs) ∧
    (s.mtxFind j.val s.rowMay = some (m, k) →
      ∃ t bs, exec (.mxStRowWrite j) s = .next t ∧ bs.length = 128 ∧
        (∀ e, e < 32 → (bs.drop (4 * e)).take 4 = leBytes 4 (vget (vget u.tiles m.tile Tile.init).acc (32 * m.rows + e) 0).toNat) ∧
        t.spad = memWrite s.spad (s.windowKey m.wb (m.base + 64 * m.rstr * m.rows)) bs ∧ t.mem = s.mem ∧ t.ctxs = s.ctxs ∧
        (t.strip j.val).tiles = u.tiles) ∧
    (s.mtxFind j.val (·.doneDue s.now) = some (m, k) → m.ctx < 8 → Quietly s (.mtxCommandComplete j) fun t =>
      Over t m.ctx (j.val - m.wb) m.num ∧ (t.strip j.val).cmds = u.cmds.eraseIdx k ∧
      (m.op = .zero → m.tile < 8 → vget (t.strip j.val).tiles m.tile Tile.init = Tile.init) ∧ (m.op ≠ .zero → (t.strip j.val).tiles = u.tiles))

/-- R309-R321: a piece leaves its channel without changing a memory, and adds at most one landing of its command, due in a later
cycle; where its source can be read and holds no poison and its destination is found, that landing carries the source bytes to the
piece's destination, cut at pages; a parked piece leaves again without changing a memory; a row of a drain leaves with its elements, converted to the output format under the
block's rounding, for its place by the row stride; the last row of a clearing drain leaves its tile zero; a piece without poison
and arrival word that lands as one part in global memory or in a scratchpad writes its bytes there and changes no other byte of the two; a
command of a context with nothing left to do completes on its counter; a row is folded into its record of 128 bytes, which stays as it
is where it is poisoned. -/
def Obligations.CopyEvents : Prop :=
  ∀ (s : State) (j : Fin 4),
    (∀ m, s.cpDue j.val false = some m → Quietly s (.cpyPieceEmit j) fun t =>
      t.landings = s.landings ∨ ∃ l, t.landings = s.landings ++ [l] ∧ l.ctx = m.ctx ∧ l.num = m.num ∧ l.stamp = m.stamp ∧ l.bars = m.bars ∧ s.now < l.due) ∧
    (∀ m bs, s.cpDue j.val false = some m →
      let p := m.piece m.next
      let key := s.windowKey m.wb p.src
      (m.op = .fill ∧ bs = (List.range p.n).map fun i => BitVec.ofNat 8 (m.pat >>> (8 * (i % min 8 (2 ^ m.esz))))) ∨
        (m.op = .xfer ∧ p.src < windowEnd ∧ isPoisoned s.poisonS0 key p.n = false ∧ bs = memRead s.spad0 key p.n) ∨
        (m.op = .xfer ∧ windowEnd ≤ p.src ∧ ∃ rs, s.runs m.tenant false (p.n / 4096 + 2) p.src p.n = .ok rs ∧ s.runsReady m.ctx m.stamp m.acq rs = true ∧
          (∀ r ∈ rs, (s.homeRead r.1 r.2).2 = false) ∧
          bs = rs.flatMap fun r => (s.homeRead r.1 r.2).1) →
      (m.toPad p = true → Quietly s (.cpyPieceEmit j) fun t => ∃ l, t.landings = s.landings ++ [l] ∧ l.poison = false ∧
        l.parts = (m.parts p bs).map fun x => (.scratch (if m.rem then m.dcore else s.coreNum.toNat), s.cpKey m x.1, x.2)) ∧
      ∀ rs, m.toPad p = false → s.runs m.tenant true (p.n / 4096 + 2) p.dst p.n = .ok rs → Quietly s (.cpyPieceEmit j) fun t =>
        ∃ l, t.landings = s.landings ++ [l] ∧ l.poison = false ∧ l.parts = cutRuns rs bs) ∧
    (∀ p, s.retryNext j.val = some p → Quietly s (.cpyRetryEmit j) fun _ => True) ∧
    (∀ m, s.cpDue j.val true = some m → Quietly s (.tileDrainRow j) fun t =>
      m.next = m.pieces → m.strip < 4 → m.tile < 8 → vget (t.strip m.strip).tiles m.tile Tile.init = Tile.init) ∧
    (∀ m, s.cpDue j.val true = some m → m.op = .tile ∨ m.op = .tsa → m.next < m.pieces → m.writes = true →
      let acc := fun (e : Nat) => (vget (vget (s.strip m.strip).tiles m.tile Tile.init).acc (32 * m.next + e) 0).toNat
      let mode := [RMode.rne, .rz, .rd, .ru].getD m.rm .rne
      let bs := (List.range (m.nm1 + 1)).flatMap fun e => if m.ofmt = 0 then leBytes 4 (acc e)
        else leBytes 2 (fCvt f32 (if m.ofmt = 1 then h16 else b16) mode (acc e)).1
      let dst := wrap57 (m.dst + m.rstr * (m.next : Int))
      (m.toPad (m.piece m.next) = true → Quietly s (.tileDrainRow j) fun t => ∃ l, t.landings = s.landings ++ [l] ∧ l.poison = false ∧
        l.parts = [(.scratch (if m.rem then m.dcore else s.coreNum.toNat), s.cpKey m dst, bs)]) ∧
      ∀ rs, m.toPad (m.piece m.next) = false → s.runs m.tenant true ((m.piece m.next).n / 4096 + 2) dst (m.piece m.next).n = .ok rs →
        Quietly s (.tileDrainRow j) fun t => ∃ l, t.landings = s.landings ++ [l] ∧ l.poison = false ∧ l.parts = cutRuns rs bs) ∧
    (∀ l b, s.landNext j.val = some l → l.poison = false → l.awa = none →
      ∃ t, exec (.cpyPieceLand j) s = .next t ∧ t.landings = s.landings.erase l ∧
        (l.parts = [(.global, b)] → t.mem = memWrite s.mem b.1 b.2 ∧ t.spad = s.spad) ∧
        ∀ q, l.parts = [(.scratch q, b)] → t.spad = memWrite s.spad b.1 b.2 ∧ t.mem = s.mem) ∧
    (∀ m, s.landNext j.val = none → s.cpFinished j.val = some m → m.node = none → m.ctx < 8 → Quietly s (.cpyPieceLand j) fun t =>
      Over t m.ctx (4 + j.val - m.wb) m.num) ∧
    ∀ m, s.foldDue j.val = some m →
      let key := s.windowKey m.wb (m.recBase + 128 * m.folded)
      ∃ t, exec (.rowRecordFold j) s = .next t ∧ t.mem = s.mem ∧
        (isPoisoned s.poisonS key 128 = true → t.spad = s.spad) ∧
        (isPoisoned s.poisonS key 128 = false →
          t.spad = memWrite s.spad key (leBytes 128 (foldRecord (memNat s.spad key 128) m.beta m.ib (m.rows.getD m.folded []))))

/-- R276, R325-R342: a signal leaves its port without changing a memory; an atomic or reduction at a global place that is not
poisoned, whose page was never parked, reads and writes it once and gets the status and value of its record; a result's record lands and
the command completes on counter 10; a phaser advances while its registrations are at least 1 and have all signalled (R327): sy.sig counts
its signal at the current or the next phase, sy.next advances the current one, sy.reg and sy.drop of a signaller of no gang count a
registration from the current or the next phase and refuse a count out of range, and each of them is stale at any other phase; sy.base sets
its records anew (R334); a wait that arrives at a phaser whose phase is not reached is counted; an updated scope entry is
current, a cleared one invalid with its generation kept. -/
def Obligations.SyncEvents : Prop :=
  ∀ (s : State) (c : Fin 8),
    (∀ m, s.signalReady c.val = some m → m.ctx = c.val → Quietly s (.synSignalSend c) fun t => (t.ctx c.val).synQ = (s.ctx c.val).synQ.tail) ∧
    (∀ m p, s.synRecordNext = none → s.synNext = some m → m.op.isPhaser = false → m.parked = false → s.synPlace m = .ok p → p.space = 0 →
      isPoisoned s.poisonG p.pa m.size = false →
      let old := memNat s.mem p.pa m.size
      ∃ t, exec .synApply s = .next t ∧ t.spad = s.spad ∧ t.hostMem = s.hostMem ∧
        t.mem = (if (m.apply old).2.2 then memWrite s.mem p.pa (leBytes m.size (m.apply old).1) else s.mem) ∧
        ∀ o ∈ t.syn, o.ctx = m.ctx → o.num = m.num → o.result = some (if (m.apply old).2.1 then 6 else 0, if m.op = .red then 0 else old)) ∧
    (∀ m, s.synRecordNext = some m → m.ctx < 8 → ∃ t, exec .synApply s = .next t ∧ t.mem = s.mem ∧ Over t m.ctx 10 m.num ∧
      t.spad = (if (syW3 m.w3).rcd then memWrite s.spad (s.windowKey m.wb (syW3 m.w3).raddr)
        (leBytes 16 ((m.result.getD (0, 0)).1 + m.num % 2 ^ 32 * 2 ^ 32 + (m.result.getD (0, 0)).2 % 2 ^ 64 * 2 ^ 64)) else s.spad)) ∧
    (∀ m r, UsablePhaser s m r →
      let f := m.names.2.2 % 2 ^ 32
      let stale := PhaserGets s m 1 r.phase r
      let gives := fun (r' : Phaser) => let q := r'.tested.tested; PhaserGets s m 0 q.phase q
      (m.op = .sig → if f = r.phase then r.narr + 1 < 2 ^ 16 → gives { r with narr := r.narr + 1 }
        else if f = (r.phase + 1) % 2 ^ 32 then r.narr1 + 1 < 2 ^ 16 → gives { r with narr1 := r.narr1 + 1 } else stale) ∧
      (m.op = .next → if f = r.phase then gives r.next else stale) ∧
      ∀ by_ : Int, r.gang = false → (m.op = .reg ∧ (m.p = 0 ∨ m.p = 2) ∧ by_ = 1 ∨
          m.op = .drop ∧ (fld m.w2 0 2 = 0 ∨ fld m.w2 0 2 = 2) ∧ by_ = -1) →
        let counts := fun (r' : Phaser) =>
          if r'.nreg ≤ 65535 ∧ 0 ≤ r'.nreg + r'.dreg1 ∧ r'.nreg + r'.dreg1 ≤ 65535 then gives r' else PhaserGets s m 4 r.phase r
        if f = r.phase then counts { r with nreg := r.nreg + by_ }
        else if f = (r.phase + 1) % 2 ^ 32 then counts { r with dreg1 := r.dreg1 + by_ } else stale) ∧
    (∀ m, AtPhaser s m → m.op = .base → m.records.2.1 + m.records.2.2 ≤ (s.phArea m.tenant m.records.1).2 →
      ∃ t, exec .synApply s = .next t ∧ t.spad = s.spad ∧
        (∀ k, k < m.records.2.2 → t.phaser m.tenant m.records.1 (m.records.2.1 + k) =
          { phase := m.w1 % 2 ^ 32, nreg := (fld m.w2 0 16 : Nat), gang := bitAt m.w3 29, val := true, peer := m.scope.peer, host := m.scope.host,
            slices := m.scope.slices, cores := m.scope.cores }) ∧
        ∀ o ∈ t.syn, o.ctx = m.ctx → o.num = m.num → o.result = some (0, m.w1 % 2 ^ 32)) ∧
    (∀ w, s.phArrivalDue = some w → (s.phArea w.tenant w.die).2 > w.index → s.phPoisoned w.tenant w.die w.index = false →
      (s.phaser w.tenant w.die w.index).reached w.phase = false → s.phWaits = [w] → s.phasers.length < 4096 →
      ∃ t, exec .phaserWaitArrival s = .next t ∧ t.mem = s.mem ∧ t.spad = s.spad ∧
        t.phaser w.tenant w.die w.index = { s.phaser w.tenant w.die w.index with wcnt := (s.phaser w.tenant w.die w.index).wcnt + 1 }) ∧
    ∀ o, s.scopeDue = some o → o.ctx < 8 → o.entry < 16 → Quietly s .scopeUpdateComplete fun t => Over t o.ctx 11 o.num ∧
      let e := vget (s.ctx o.ctx).scopes o.entry {}
      vget (t.ctx o.ctx).scopes o.entry {} = if o.clr then { gen := e.gen } else { e with chg := false }

/-- R350, R358-R363, R389: SEL writes its record of 64 bytes and completes on counter 8; a chunk of CKP on its way lands in
global memory or a scratchpad and changes no other byte of the two; a chunk that is read changes no memory; the publication writes its
4 bytes; a finished command completes on counter 9; a packet that no link has taken for 2^20 cycles is no more among the landings, and
no memory changes. -/
def Obligations.SelectionAndCheckpointEvents : Prop :=
  ∀ (s : State),
    (∀ m, s.selIn .complete = none → s.selIn .writing = some m → m.poison = false → ∃ t, exec .selRecordWrite s = .next t ∧
      t.spad = memWrite s.spad (s.windowKey m.wb m.raddr) (leBytes 64 m.record) ∧ t.mem = s.mem ∧ t.ctxs = s.ctxs) ∧
    (∀ m, s.selIn .complete = some m → m.ctx < 8 → Quietly s .selRecordWrite fun t => Over t m.ctx 8 m.num) ∧
    (∀ l a bs, s.ckNext = some (.land l) → l.poison = [] → ∃ t, exec .ckpChunkCopy s = .next t ∧
      (l.part = (.global, a, bs) → t.mem = memWrite s.mem a bs ∧ t.spad = s.spad) ∧
      ∀ q, l.part = (.scratch q, a, bs) → t.spad = memWrite s.spad a bs ∧ t.mem = s.mem) ∧
    (∀ m, s.ckNext = some (.chunk m) → Quietly s .ckpChunkCopy fun t => t.ckp.length = s.ckp.length) ∧
    (∀ m p, s.ckPubNext = some m → m.parked = [] → s.ckPubPlace m = .ok p → p.space = 0 → isPoisoned s.poisonG p.pa 4 = false →
      ∃ t, exec .ckpCommitPublish s = .next t ∧ t.mem = memWrite s.mem p.pa (leBytes 4 m.pval) ∧ t.spad = s.spad) ∧
    (∀ m, s.ckp.find? CkCmd.finished = some m → m.ctx < 8 → Quietly s .ckpComplete fun t => Over t m.ctx 9 m.num) ∧
    ∀ l, s.landTimedOut = some l → Quietly s .packetRouteTimeout fun t => t.landings = s.landings.erase l

/-! ## Events of the device -/

/-- R20, R149, R160, R163, R384: when a cycle passes, the cycle count advances by 1; where no copy node runs on the other die, the raw counter
advances by 20/17 of a count, or by 40/17 while the die's clock is slowed, and registers, memory and what the contexts do stay; a cycle makes one booking search; a core whose group is not
ready books nothing, and one without tasks and with free contexts books nothing; compaction changes no memory, no task and no occupied
cell; ageing keeps the list of tasks and marks one that has waited long enough in its queue. R153, R155: a queued task that is alone is
booked at the smallest start from the fourth cycle on (R406 adds the throttle) at which its footprint fits, on the lowest base of those
that tie, in the lowest context of its first logical core, and runs from its first column cell, with the registers that its segment carries
restored from the image in its frame where it has yielded (R138). R161: a released pattern that is alone is
booked again at the smallest shift at which it fits. Where every frame is mapped (notes/assumptions/15.md), the search always completes. -/
def Obligations.CycleEvents : Prop :=
  ∀ (s : State),
    (∃ t, exec .calendarWindowAdvance s = .next t ∧ t.now = s.now + 1 ∧ t.searched = false ∧
      ((vget s.chans 4 noChan).cmds = [] → t.mem = s.mem ∧ t.spad0 = s.spad ∧
        t.rawAcc = s.rawAcc + (if (s.die s.dieNo).slow then 40 else 20) ∧
        ∀ c, c < 8 → (t.ctx c).clusters = (s.ctx c).clusters ∧ (t.ctx c).run = (s.ctx c).run ∧ (t.ctx c).nowFlags = (s.ctx c).nextFlags)) ∧
    (s.searched = true → exec .bookingSearch s = .next s) ∧
    (s.searched = false → s.groupReady s.coreNum.toNat = false → exec .bookingSearch s = .next { s with searched := true }) ∧
    (s.searched = false → s.tasks = [] → (∀ c, c < 8 → (s.ctx c).run = .free) → exec .bookingSearch s = .next { s with searched := true }) ∧
    (s.FramesMapped → ∃ u, exec .bookingSearch s = .next u ∧ u.searched = true ∧ u.spad = s.spad ∧ u.now = s.now) ∧
    (∀ t k h b st cells img, OneQueued s t k → s.Restores t k img → k.width ≤ 4 → (s.openLcores t.tenant t.width).head? = some h →
      let c := h * (8 / lcoreCount s.mode.toNat)
      let fitsAt := fun b st bs => s.place k t.seg b c (imageCount img.1) st = some bs ∧ ∀ x ∈ bs, s.fits (fun _ => false) h [] x = true
      b ∈ basesOf s.mode.toNat h t.width → s.now + 4 + s.platform.thr ≤ st → st < s.now + Config.window → fitsAt b st cells →
      (∀ b' ∈ basesOf s.mode.toNat h t.width, ∀ st' bs, s.now + 4 + s.platform.thr ≤ st' → st' < st ∨ st' = st ∧ b' < b →
        ¬ fitsAt b' st' bs) →
      ∃ u v, exec .bookingSearch s = .next u ∧ u.cal = s.cal ++ cells ∧ u.mem = s.mem ∧ u.spad = s.spad ∧
        (u.ctx c).task = some t.id ∧ (u.ctx c).wid = t.wid ∧ (u.ctx c).seg = t.seg ∧ (u.ctx c).pc = (k.seg t.seg).entry ∧
        (u.ctx c).base = b ∧ (u.ctx c).start = st ∧ (u.ctx c).run = .run ((u.nextColumn c st).getD st) ∧
        u.tasks = [v] ∧ v.id = t.id ∧ v.st = .bound ∧ v.ctx = some c ∧ v.begun = true ∧
        (t.restore = true → ∀ j, j < k.width →
          (∀ i r, (k.carriedS t.seg j)[i]? = some r → ∃ bs : List Byte, (u.ctx c).alts (.s j r) = [{ val := BitVec.ofNat 2048 (ofLeBytes bs) }] ∧
            bs.length = 8 ∧ ∀ o b, bs[o]? = some b → s.ImageAt t.tenant t.fra j (8 * i + o) b) ∧
          ∀ i r, (k.carriedV t.seg j)[i]? = some r → ∃ bs : List Byte, (u.ctx c).alts (.v j r) = [{ val := BitVec.ofNat 2048 (ofLeBytes bs) }] ∧
            bs.length = 256 ∧ ∀ o b, bs[o]? = some b → s.ImageAt t.tenant t.fra j (128 + 256 * i + o) b)) ∧
    (∀ t c f pat d, OneRebooked s t c f pat →
      let fitsAt := fun d => ∀ x ∈ rebooked pat f d s.now, s.fits (· == c) (lcoreOf s.mode.toNat (s.ctx c).base) [] x = true
      s.now - f + 4 ≤ d → d < s.now - f + 4 + Config.window → fitsAt d → (∀ d', s.now - f + 4 ≤ d' → d' < d → ¬ fitsAt d') →
      ∃ u, exec .bookingSearch s = .next u ∧ u.cal = s.cal ++ rebooked pat f d s.now ∧ u.mem = s.mem ∧ u.spad = s.spad ∧
        (u.ctx c).clusters = (s.ctx c).clusters ∧ (u.ctx c).pc = (s.ctx c).pc ∧ (u.ctx c).shift = (s.ctx c).shift + d ∧
        (u.ctx c).run = .run ((u.nextColumn c (f + d)).getD (f + d)) ∧ (u.ctx c).replay = []) ∧
    (Quietly s .compaction fun t => t.occ = s.occ ∧ t.tasks = s.tasks ∧ (s.compactDue = true → s.searched = false → t.compactDue = false)) ∧
    Quietly s .taskAged fun t => t.tasks.map (·.id) = s.tasks.map (·.id) ∧
      ∀ u, s.tasks = [u] → u.st = .queued → u.aged = false → u.readyAt + Config.agedAfter ≤ s.now → t.tasks = [{ u with aged := true }]

/-- R129-R133, R136, R154, R292, R375, R376, R385: launch expansion creates the next task of its launch, where its frame is mapped
(notes/assumptions/15.md): the fields of its work identifier count the tasks made, field 0 fastest, the last field or the node's mask
gives its die, it starts in segment 0 of the node's kernel with its frame's header written, at the tail of the queue of its priority, and
the launch counts it; nothing changes where no task is to be expanded; code that fits becomes resident; a walk that finds a page caches it in place of what covered it; a
time wait is over when the tenant's vts has reached its value, and the read raises the high-water mark; a graph starts, a node is over or
skipped, a wait node starts, and its poll changes no memory; a graph whose nodes are over is reported. -/
def Obligations.FrontEndEvents : Prop :=
  ∀ (s : State),
    (∀ r j n fra e, s.expandNext = some (r, j, n) → (s.allocFrame r.tenant n.fsize).1 = some fra → s.walk r.tenant fra = .page e →
      e.space = 0 → (∀ t ∈ s.tasks, t.id ≠ s.nextId) →
      let field := fun i => n.made / (n.extents.take i).foldl (· * ·) 1 % n.extents.getD i 1
      ∃ u v, exec .launchExpansion s = .next u ∧ u.tasks = s.tasks ++ [v] ∧ v.id = s.nextId ∧ u.nextId = s.nextId + 1 ∧
        (n.extents.length = n.fw.length → n.fw.foldl (· + ·) 0 ≤ 64 → (∀ p ∈ n.extents.zip n.fw, p.1 ≤ 2 ^ p.2 ∧ 0 < p.1) →
          ∀ i, i < n.extents.length → fld v.wid.toNat ((n.fw.take i).foldl (· + ·) 0) (n.fw.getD i 0) = field i) ∧
        v.die = (if n.mask = 1 then 0 else if n.mask = 2 then 1 else field (n.extents.length - 1) % 2) ∧
        v.fra = fra ∧ v.fsize = n.fsize ∧ v.seg = 0 ∧ v.pri = fld (n.word 0) 6 2 ∧ v.kimg = fld (n.word 0) 13 51 * 64 ∧
        v.tenant = r.tenant ∧ v.st = .queued ∧ v.restore = false ∧ v.par = none ∧ v.nkid = 0 ∧ v.readyAt = s.now ∧
        vget (u.die v.die).queues v.pri [] = vget (s.die v.die).queues v.pri [] ++ [v.id] ∧
        u.replays = (s.modNode (r.id * 64 + j) fun n => { n with made := n.made + 1, live := n.live + 1 }).replays ∧
        u.mem = memWrite s.mem (e.pa fra) (u.headerBytes v) ∧ u.spad = s.spad) ∧
    (s.expandNext = none → exec .launchExpansion s = .next s) ∧
    (∀ l, s.loadDue = some l → (l.ok = false → exec .icacheLoadComplete s = .next { s with iload := s.iload.erase l }) ∧
      (l.ok = true → (s.icache.map Kernel.bytes).foldl (· + ·) l.kernel.bytes ≤ 196608 → exec .icacheLoadComplete s =
        .next { s with iload := s.iload.erase l, icache := s.icache ++ [{ l.kernel with used := s.now }] })) ∧
    (∀ w e, s.walkDue = some w → s.walk w.tenant w.va = .page e → exec .translationWalkComplete s = .next { s with
      walks := s.walks.filter (·.id != w.id), tcache := e :: s.tcache.filter fun o => !o.hits w.tenant w.va }) ∧
    (∀ t v, s.timeNext = some (t, v) → v ≤ (s.vts t.tenant).toNat → t.tenant < 16 → Quietly s .timeWaitTest fun u =>
      u.tasks = (s.modTask t.id fun x => { x with wait := .none }).tasks ∧ (u.tenant t.tenant).hi = s.vts t.tenant) ∧
    (∀ r, s.graphNext = some (.begin_ r) → exec .graphNodeStart s =
      .next { s with replays := s.replays.map fun x => if x.id == r then { x with started := true } else x }) ∧
    (∀ l, s.graphNext = some (.finish l) → exec .graphNodeStart s = .next (s.modNode l fun n => { n with st := .done })) ∧
    (∀ l, s.graphNext = some (.skip l) → exec .graphNodeStart s = .next (s.modNode l fun n => { n with st := .skipped })) ∧
    (∀ r j n, s.graphNext = some (.start r j n) → n.kind = 3 → exec .graphNodeStart s =
      .next (s.modNode (r.id * 64 + j) fun n => { n with st := .running, poll := s.now, fut := none })) ∧
    (Quietly s .waitNodePoll fun _ => True) ∧
    ∀ r, s.replayOver = some r → exec .replayComplete s = .next (({ s with replays := s.replays.filter (·.id != r.id) } : State).raiseEvent 0
      { kind := 2, status := r.verdict.1, die := 0, tnt := r.tenant, tag := r.tag, a := r.gaddr, b := r.verdict.2 })

/-! ## Messages -/

/-- R370, R371, R373, R403: before its unit is ready the device drops messages; a message of a tenant or type that its port may not
send, or with a bit set in the reserved field of word 0 or in words 5 to 7 (notes/assumptions/31.md), is refused with status 2, and so is
one of a type or an action that is not listed. -/
def Obligations.RefusedMessages : Prop :=
  ∀ (s : State) (port : Fin 4) (m : HostMsg),
    let typed : List ((Fin 4 → HostMsg → Instr) × Nat) := [(.replayMessage, 1), (.tenantMessage, 2), (.coreMessage, 3), (.phaserAreaMessage, 4),
      (.invalidateMessage, 6), (.pageDoneMessage, 7), (.virtualTimeMessage, 8), (.eventAreaMessage, 9), (.consumedMessage, 10),
      (.routeMessage, 11), (.portMessage, 12)]
    let acting : List ((Fin 4 → HostMsg → Instr) × Nat) := [(.contextPreempt, 0), (.contextSliceEnd, 1), (.contextResume, 2), (.contextEnd, 3),
      (.contextEvict, 4), (.contextRestore, 5), (.contextCxid, 6)]
    (s.hears = false → (∀ p ∈ typed ++ acting, exec (p.1 port m) s = .next s) ∧ exec (.unlistedMessageType port m) s = .next s) ∧
    (s.hears = true → s.portMay port m = false ∨ fld m.w0.toNat 12 20 ≠ 0 ∨ m.w5 ≠ 0 ∨ m.w6 ≠ 0 ∨ m.w7 ≠ 0 →
      (∀ p ∈ typed, m.type = p.2 → exec (p.1 port m) s = .next (s.msgDone m 2)) ∧
      ∀ p ∈ acting, m.type = 5 → m.action = p.2 → exec (p.1 port m) s = .next (s.msgDone m 2)) ∧
    (s.hears = true → m.type = 0 ∨ 12 < m.type ∨ (m.type = 5 ∧ 6 < m.action) →
      exec (.unlistedMessageType port m) s = .next (s.msgDone m 2))

/-- R286, R293, R298, R324, R371-R373, R376, R379, R382, R386, R389: what each accepted message that is not of a context
changes, with the words it may use (notes/assumptions/31.md). A replay whose graph's homes are not ready waits, one of a graph that cannot be read is reported with status 5, another is
added to the replays; tenant, virtual time, event area, consumer index, route and port messages set their fields; a core message is busy
unless this core is idle, and its zeroing then takes up to 2^17 cycles and ends no earlier than one under way (notes/assumptions/38.md); one for another core leaves memory and contexts; a phaser area is
set where no record of it is resident; an invalidation drops its entries later; a page-done answers the request whose generation it
names, and no other. -/
def Obligations.DeviceMessages : Prop :=
  ∀ (s : State) (port : Fin 4) (m : HostMsg), s.hears = true → s.portMay port m = true →
    let die := fld m.w1.toNat 0 1
    let gives := fun (i : Instr) (t : State) (status : Nat) => exec i s = .next (t.msgDone m status)
    (m.type = 1 → m.shaped 0x1FFFFFFFFFFFFC0#64 = true →
      (s.graphReady m = false → exec (.replayMessage port m) s = .next { s with inputs := (s.now + 1, .replayMessage port m) :: s.inputs }) ∧
      (s.graphReady m = true → s.graphAt m.tnt m.w1.toNat = none →
        gives (.replayMessage port m) (s.logReads m.tnt (s.graphReads m.tnt m.w1.toNat)) 5) ∧
      ∀ g, s.graphReady m = true → s.graphAt m.tnt m.w1.toNat = some g → ∃ t r, exec (.replayMessage port m) s = .next t ∧
        t.replays = s.replays ++ [r] ∧ r.gaddr = m.w1.toNat ∧ r.tenant = m.tnt ∧ r.tag = m.tag ∧ r.nodes.map (·.words) = g.2 ∧
        t.mem = s.mem ∧ t.spad = s.spad) ∧
    (m.type = 2 → m.shaped 0xFFFFFFFFFF001#64 0x1FFFFFFFFFFF000#64 0xFFFFFFFFFFFFFFC0#64 = true → gives (.tenantMessage port m)
      (s.modTenant m.tnt fun t => { t with troot := m.w1, arenaBase := m.w2.toNat, arenaSize := m.w3.toNat }) 0) ∧
    (m.type = 3 → m.shaped 0xFFFFF3FF#64 = true → coreOk m = true →
      (s.groupReady m.core = false → gives (.coreMessage port m) s 1) ∧
      (s.groupReady m.core = true → m.core ≠ s.coreNum.toNat → ∃ t, exec (.coreMessage port m) s = .next t ∧ t.mem = s.mem ∧ t.ctxs = s.ctxs) ∧
      (s.groupReady m.core = true → m.core = s.coreNum.toNat → s.idle = false → gives (.coreMessage port m) s 1) ∧
      (s.groupReady m.core = true → m.core = s.coreNum.toNat → s.idle = true → ∃ t x, exec (.coreMessage port m) s = .next t ∧
        t.slow = s.slow ++ [x] ∧ x.zeroing = true ∧ x.msg = m ∧ x.lcores = s.changedLcores m ∧ s.now < x.due ∧
        ((∀ y ∈ s.slow, y.zeroing = true → y.due ≤ s.now + 2 ^ 17) → x.due ≤ s.now + 2 ^ 17) ∧
        (∀ y ∈ s.slow, y.zeroing = true → y.due ≤ x.due) ∧ t.mem = s.mem ∧ t.ctxs = s.ctxs)) ∧
    (m.type = 4 → m.shaped 1#64 0xFFFFFFFFFFFC0#64 0x1FFFFFF#64 = true → m.w3.toNat ≤ 2 ^ 24 →
      (s.synUp die = false → gives (.phaserAreaMessage port m) s 1) ∧
      (s.synUp die = true → (∀ r ∈ s.phasers, r.tenant ≠ m.tnt ∨ r.die ≠ die) → gives (.phaserAreaMessage port m)
        (s.modTenant m.tnt fun t => { t with phBase := vset t.phBase die m.w2.toNat, phCount := vset t.phCount die m.w3.toNat }) 0)) ∧
    (m.type = 6 → m.shaped 0x1FFFFFFFFFFF000#64 1#64 = true → ∃ t x, exec (.invalidateMessage port m) s = .next t ∧
      t.slow = s.slow ++ [x] ∧ x.zeroing = false ∧ x.msg = m ∧ s.now < x.due ∧ t.mem = s.mem ∧ t.ctxs = s.ctxs ∧ t.tcache = s.tcache) ∧
    (m.type = 7 → m.shaped 0x1FF#64 0xFFFFFFFF#64 1#64 = true →
      let e := s.pageEntry (fld m.w1.toNat 8 1) (fld m.w1.toNat 0 8)
      (e.busy = false ∨ e.tnt ≠ m.tnt ∨ e.gen.toNat ≠ m.w2.toNat → gives (.pageDoneMessage port m) s 2) ∧
      (e.busy = true → e.tnt = m.tnt → e.gen.toNat = m.w2.toNat → s.pageOver = [] → gives (.pageDoneMessage port m)
        (({ s with denied := if bitAt m.w3.toNat 0 then futureId (fld m.w1.toNat 8 1) (fld m.w1.toNat 0 8) e.gen :: s.denied
            else s.denied } : State).modDie (fld m.w1.toNat 8 1) fun x => { x with
          pages := vset x.pages (fld m.w1.toNat 0 8) { e with busy := false, cgen := e.gen } }) 0)) ∧
    (m.type = 8 → m.shaped (-1#64) 0xFFFFFFFF#64 (-1#64) (-1#64) = true → gives (.virtualTimeMessage port m)
      (s.modTenant m.tnt fun t => { t with vbase := m.w1, vscale := m.w2.setWidth 32, voff := m.w3,
                                           vfloor := if m.w4.toNat < t.hi.toNat then t.hi else m.w4 }) 0) ∧
    (m.type = 9 → m.shaped 1#64 0xFFFFFFFFFFFFF000#64 0x1FFFF#64 0xFFFFFFFFFFFFFFF8#64 = true → (∃ k, k ≤ 8 ∧ m.w3.toNat = 2 ^ (8 + k)) →
      gives (.eventAreaMessage port m) (s.modDie die fun d => { d with
        evSet := true, evArea := m.w2.toNat, evCount := m.w3.toNat, evProd := m.w4.toNat, producer := 0, consumer := 0 }) 0) ∧
    (m.type = 10 → m.shaped 1#64 (-1#64) = true → gives (.consumedMessage port m)
      (s.modDie die fun d => { d with consumer := m.w2.toNat }) 0) ∧
    (m.type = 11 → m.shaped 0xFFF#64 0xFFF#64 = true →
      let trained := ∀ i, i < 12 → m.w2.getLsbD i = true → s.platform.brs.getLsbD (32 + i) = true
      (trained → gives (.routeMessage port m)
        { s with routes := (m.w1.toNat, m.w2.setWidth 12) :: s.routes.filter (·.1 != m.w1.toNat) } 0) ∧
      (¬ trained → gives (.routeMessage port m) s 1)) ∧
    (m.type = 12 → m.shaped 3#64 0xFFFF#64 = true →
      (m.w1.toNat = s.platform.pport.val → gives (.portMessage port m) s 2) ∧
      (m.w1.toNat ≠ s.platform.pport.val → gives (.portMessage port m)
        { s with msgMasks := vset s.msgMasks m.w1.toNat (m.w2.setWidth 16) } 0))

/-- R203-R209, R383: what each accepted message for a context of this core does. Pre-empt asks a running context for a boundary,
stops a waiting one at once, and has no effect on one without a task; slice end sets the grace; resume books a pre-empted task again or gives a held one the effect of tret; end
ends a stopped task; evict of a pre-empted or held task waits for quiescence; restore, once the homes of the area are ready, brings back a saved image
(notes/assumptions/34.md), its injection port renamed for the present mode (R162); cxid sets a free context's. In the wrong state slice end, resume, end, evict, restore and cxid are busy, and a
restore without its image is refused. -/
def Obligations.ContextMessages : Prop :=
  ∀ (s : State) (port : Fin 4) (m : HostMsg), s.hears = true → s.portMay port m = true → m.type = 5 → m.ctxShaped = true →
    m.core = s.coreNum.toNat → s.groupReady m.core = true →
    let c := m.context
    let x := s.ctx c
    let gives := fun (i : Instr) (t : State) (status : Nat) => exec i s = .next (t.msgDone m status)
    (m.action = 0 → (∀ st, x.run = .run st → gives (.contextPreempt port m) (s.modCtx c fun x => { x with preReq := true }) 0) ∧
      (∀ w f p, x.run = .fyield w f p → gives (.contextPreempt port m)
        (s.modCtx c fun x => { x.toReplay s.now with run := .preempted f p (some w) false }) 0) ∧
      (x.run = .wait → gives (.contextPreempt port m) (s.modCtx c fun x => { x with run := .preempted s.now [] none true }) 0) ∧
      (x.run = .free → gives (.contextPreempt port m) s 0)) ∧
    (m.action = 1 → let g := fld m.w1.toNat 16 32
      (x.task = none → gives (.contextSliceEnd port m) s 1) ∧
      (x.task ≠ none → gives (.contextSliceEnd port m) (s.modCtx c fun x => { x with slice := some (s.now + if g = 0 then 4096 else g) }) 0)) ∧
    (m.action = 2 → (∀ f p, x.run = .preempted f p none false → p ≠ [] →
        gives (.contextResume port m) (s.modCtx c fun x => { x with run := .rebook f p s.now }) 0) ∧
      (∀ k, x.run = .held → (s.boundTask c).bind s.kernelOf = some k → x.tres.toNat < k.ncode → gives (.contextResume port m)
        (s.modCtx c fun x => { x.leaveHandler with run := .ready 1 (x.tseg.toNat % 512) (some x.tres.toNat) false s.now }) 0) ∧
      (x.run.stoppedBySoftware = false → gives (.contextResume port m) s 1)) ∧
    (m.action = 3 → (x.run.stoppedBySoftware = false → gives (.contextEnd port m) s 1) ∧
      (∀ t, x.run.stoppedBySoftware = true → s.boundTask c = some t → t.par = none → ∃ u, exec (.contextEnd port m) s = .next u ∧
        (u.ctx c).run = .ending ∧ (∀ v ∈ u.tasks, v.id ≠ t.id) ∧ u.mem = s.mem ∧ u.spad = s.spad)) ∧
    (m.action = 4 → (x.run.stoppedBySoftware = false → gives (.contextEvict port m) s 1) ∧
      (∀ f p i w, x.run = .preempted f p i w → m.w2.toNat + imageSize (((s.boundTask c).map (·.width)).getD 1) ≤ Config.hbmEnd →
        exec (.contextEvict port m) s = .next (s.modCtx c fun x => { x with run := .evicting m.w2.toNat m false f p i w })) ∧
      (x.run = .held → m.w2.toNat + imageSize (((s.boundTask c).map (·.width)).getD 1) ≤ Config.hbmEnd →
        exec (.contextEvict port m) s = .next (s.modCtx c fun x => { x with run := .evicting m.w2.toNat m true s.now [] none false }))) ∧
    (m.action = 5 → s.restoreWaits port m = false → (x.run ≠ .free → gives (.contextRestore port m) s 1) ∧
      (x.run = .free → s.imageAt c m.w2.toNat = none → gives (.contextRestore port m) s 2) ∧
      (∀ i, x.run = .free → s.imageAt c m.w2.toNat = some i → ∃ u : State, exec (.contextRestore port m) s = .next (u.msgDone m 0) ∧
        (u.ctx c).run = i.saved.run.remapped i.mode s.mode.toNat i.saved.base ∧ (u.ctx c).clusters = i.saved.clusters ∧ (u.ctx c).task = i.saved.task ∧ (u.ctx c).tl = x.tl)) ∧
    (m.action = 6 → (x.run ≠ .free → gives (.contextCxid port m) s 1) ∧
      (x.run = .free → gives (.contextCxid port m) (s.modCtx c fun x => { x with cxid := m.w2.setWidth 8 }) 0))

/-! ## Host, peers, platform -/

/-- R261, R301, R368, R379, R388: a host write to ready global memory writes its bytes, a host read returns them; an event record
is appended to its die's area with the producer index after it; a memory error changes no byte and poisons its granule; a peer's access
is answered by a status byte and its data (notes/assumptions/35.md), which leave once the device has its number (R404), and a read
changes nothing; a failed flit is resent, a lost link goes
down, a link that comes up or hears a keep-alive is up; when zeroing is over the partition is set, with the tenants of the logical cores
that changed and are not zeroed again, and no scratchpad byte is new; an invalidation leaves no entry that it names. -/
def Obligations.HostAndPeers : Prop :=
  ∀ (s : State),
    (∀ pa data, s.dead = false → pa + data.length ≤ Config.hbmEnd → s.spanReady pa data.length = true →
      exec (.hostWrite pa data) s = .next (s.writeGlobal pa data none)) ∧
    (∀ pa n, s.dead = false → pa + n ≤ Config.hbmEnd → s.spanReady pa n = true → isPoisoned s.poisonG pa n = false →
      exec (.hostRead pa n) s = .next { s with hostRead := memRead s.mem pa n }) ∧
    (∀ (d : Fin 2) e rest, s.appendDue d.val = true → (s.die d.val).waiting = e :: rest →
      let x := s.die d.val
      let m := memWrite (memWrite s.hostMem (x.evArea + 32 * (x.producer % x.evCount)) e.bytes) x.evProd (leBytes 8 (x.producer + 1))
      exec (.eventAppend d) s =
        .next (({ s with hostMem := m } : State).modDie d.val fun x => { x with waiting := rest, producer := x.producer + 1 })) ∧
    (∀ e, ∃ t, exec (.memoryError e) s = .next t ∧ t.mem = s.mem ∧ t.spad = s.spad ∧ ∀ pa l2, e = .global pa l2 → isPoisoned t.poisonG pa 1 = true) ∧
    (∀ p, s.dead = false → s.peerReady p = true → ∃ t, exec (.peerPacketReceive p) s = .next t ∧ t.spad = s.spad ∧
      (let reply := BitVec.ofNat 8 ((s.flit p.link.val).peerPerform p).1 :: ((s.flit p.link.val).peerPerform p).2.1
       (s.platform.dlock = true → t.peerReply = [reply] ∧ t.peerHeld = s.peerHeld) ∧
       (s.platform.dlock = false → t.peerHeld = s.peerHeld ++ [reply] ∧ t.peerReply = s.peerReply)) ∧
      ∀ n, p.op = .read n → t.mem = s.mem) ∧
    (∀ l : Fin 12, exec (.flitCrcFailure l) s = .next s ∧
      (s.linkLost l.val = true → Quietly s (.linkDown l) fun t => (vget t.links l.val {}).up = false) ∧
      (s.platform.brs.getLsbD (32 + l.val) = true → Quietly s (.linkUp l) fun t => (vget t.links l.val {}).up = true ∧ (vget t.links l.val {}).last = s.now) ∧
      ((vget s.links l.val {}).up = true → Quietly s (.keepAlive l) fun t => (vget t.links l.val {}).up = true ∧ (vget t.links l.val {}).last = s.now)) ∧
    (∀ x, s.slowDue true = some x → ∃ t, exec .partitionZeroingComplete s = .next t ∧ t.mode.toNat = x.msg.mode % 4 ∧ t.mem = s.mem ∧
      (∀ h, h < 4 → (h ∉ x.lcores → vget t.lcores h {} = vget s.lcores h {}) ∧
        (h ∈ x.lcores → (∀ y ∈ s.slow.erase x, y.zeroing = true → y.msg.mode = x.msg.mode ∧ h ∉ y.lcores) → vget t.lcores h {} = lcoreIn x.msg h)) ∧ ∀ b ∈ t.spad, b ∈ s.spad) ∧
    ∀ x, s.slowDue false = some x → Quietly s .translationInvalidationComplete fun t => ∀ e ∈ t.tcache, e ∈ s.tcache ∧
      if bitAt x.msg.w2.toNat 0 then e.tenant ≠ x.msg.tnt else e.hits x.msg.tnt x.msg.w1.toNat = false

/-- R402-R409, R372: the platform page and what firmware does. The power limit and the device number are set by the privileged port
alone, the number once; the nonce is written while no report is in progress; other writes of the page change nothing; a sag slows its die
and is counted, and the clock is restored no sooner than 1024 raw counts later; an interval of 1000 raw counts over the limit raises the
throttle count by 64 up to 4096, another lowers it; a good image gives its measurement, a bad
one leaves the device dead; ready functions set their bit; a request captures nonce and brs, and its report is there within 20 ms (when req clears:
notes/assumptions/40.md); replies to peers leave once the device has its number. A device reset ends all tasks and caches and keeps memory (notes/assumptions/37.md). -/
def Obligations.PlatformEvents : Prop :=
  ∀ (s : State),
    let p := s.platform
    (∀ port v, s.dead = false → port = p.pport → exec (.pctlWrite port v) s = .next { s with
      platform := { p with
        plim := if 600 ≤ fld v.toNat 16 12 ∧ fld v.toNat 16 12 ≤ 1500 then fld v.toNat 16 12 else p.plim
        devno := if p.dlock then p.devno else fld v.toNat 0 12
        dlock := true }
      peerReply := if s.peerHeld = [] then s.peerReply else s.peerHeld
      peerHeld := [] }) ∧
    (∀ port v, port ≠ p.pport → exec (.pctlWrite port v) s = .next s) ∧
    (∀ i v, i < 6 → s.dead = false → p.busy = false → ∃ t, exec (.platformRegisterWrite (0x40 + 8 * i) v) s = .next t ∧
      ∀ b, b < 384 → t.platform.nonce.getLsbD b = if 64 * i ≤ b ∧ b < 64 * i + 64 then v.getLsbD (b - 64 * i) else p.nonce.getLsbD b) ∧
    (s.dead = false → exec (.platformRegisterWrite 0x20 4) s = .next (s.modPlatform fun p => { p with done := false })) ∧
    (∀ off v, off ≤ 0x18 ∨ 0x21 ≤ off ∧ off ≤ 0x38 ∨ 0x70 ≤ off → exec (.platformRegisterWrite off v) s = .next s) ∧
    (∀ d : Fin 2, Quietly s (.supplySag d) fun t => (t.die d.val).slow = true ∧ (t.die d.val).sagAt = s.rawCount ∧
      t.platform.sags = min (2 ^ 18 - 1) (p.sags + 1)) ∧
    (∀ d : Fin 2, ((s.die d.val).sagAt + 1024 ≤ s.rawCount → Quietly s (.clockRestore d) fun t =>
        (t.die d.val).slow = false ∧ t.platform = p) ∧
      (s.rawCount < (s.die d.val).sagAt + 1024 → exec (.clockRestore d) s = .next s)) ∧
    (∀ w : BitVec 16, (p.pwNext ≤ s.rawCount → Quietly s (.powerInterval w) fun t => t.platform = { p with
        pw := w.toNat, thr := if p.plim < w.toNat then min 4096 (p.thr + 64) else p.thr - 64, pwNext := p.pwNext + 1000 }) ∧
      (s.rawCount < p.pwNext → exec (.powerInterval w) s = .next s)) ∧
    (∀ img, s.dead = false → p.brs.getLsbD 0 = false →
      ∃ t, exec (.firmwareVerify img) s = .next t ∧
        t.platform.brs.getLsbD 0 = (Config.firmwareSigned img && decide (Config.fusedMinVersion ≤ Config.firmwareVersion img)) ∧
        (t.platform.brs.getLsbD 0 = true → t.platform.measurement = sha384 img) ∧ (t.platform.brs.getLsbD 0 = false → t.dead = true)) ∧
    (∀ b : Fin 64, p.brs.getLsbD 0 = true → readyBit b.val = true → ∃ t, exec (.functionReady b) s = .next t ∧ t.platform.brs.getLsbD b.val = true ∧
      ∀ i, i ≠ b.val → t.platform.brs.getLsbD i = p.brs.getLsbD i) ∧
    (p.brs.getLsbD 0 = true → ∃ t, exec .identityKeyReady s = .next t ∧ t.platform.brs.getLsbD 44 = true) ∧
    (s.dead = false → p.brs.getLsbD 44 = true → p.busy = false → ∃ t, exec .attestationRequest s = .next t ∧ t.platform.busy = true ∧
      t.platform.req = true ∧ t.platform.captNonce = p.nonce ∧ t.platform.captBrs = p.brs ∧ s.rawCount < t.platform.attDue ∧
      t.platform.attDue ≤ s.rawCount + 20000000) ∧
    (p.busy = true → p.attDue ≤ s.rawCount → ∃ t, exec .attestationComplete s = .next t ∧ t.platform.busy = false ∧
      t.platform.done = true ∧ t.platform.req = false ∧ t.platform.reports = p.reports + 1) ∧
    ∃ t, exec .deviceReset s = .next t ∧ t.tasks = [] ∧ t.l1 = [] ∧ t.tcache = [] ∧ t.replays = [] ∧ t.platform.brs = 0 ∧
      t.platform.pport = p.pport ∧ t.mem = s.mem ∧ t.now = s.now ∧ ∀ c, c < 8 → (t.ctx c).run = .free

/-! ## Open guards -/

/-- R65, R112, R113, R115-R118: under an open guard a move of one value keeps the old value under the opposite sense; br, brx and engine
commands collapse. A trigger under an open guard lands its result under the guard's literal, with its flags pending (R42), and void under
the opposite; one that reads two alternatives lands a result for each. A move of one value to an open guard resolves it: of two
alternatives under its opposite literals the one that holds is left, unconditional, in every register, latch and port; held stores
under the other literal go, and results in flight keep their alternatives. -/
def Obligations.OpenGuards : Prop :=
  (∀ (s : State) (c n : Nat) (k : Kernel) (inv : Bool) (g : Fin 16), Alone s c n k → (s.ctx c).GoesOn k →
    (s.ctx c).gstate inv g.val = .opened g.val (!inv) →
    let fate := s.collapsing c n k g.val
    (∀ o, exec (.br inv g o) s = .next fate) ∧ exec (.brx inv g) s = .next fate ∧
    (∀ (p set : Fin 16), ∀ i ∈ engineCommands p (n / 2), exec (i.1 { inv := inv, g := g, set := set }) s = .next fate) ∧
    ∀ (h : MoveHead) (d : Dest) (l : Loc) (u v : Vec), h.inv = inv → h.g = g → destCluster d < k.width →
      (s.ctx c).registerOf d = some l → s.SourceIs c k (n / 2) h.src l.isVec v → IsValue u ((s.ctx c).alts l) →
      (s.ctx c).isFull l = true → (∀ j, j < 4 → poolUse (vget (s.ctx c).clusters j Cluster.init) < 16) →
      (∀ f ∈ (s.ctx c).flight, f.land = s.now + 1 → f.dest ≠ l ∧ f.spill.map (·.1) ≠ some l) →
      ∃ a b : Alt 2048, a.IsUnder v [(g.val, !inv)] ∧ b.IsUnder u [(g.val, inv)] ∧
        exec (.move h d) s = .next (((s.readBy c h.src).modCtx c fun x => x.setAlts l [a, b]).retired c)) ∧
  (∀ p ∈ iaWordOps, ∀ (s : State) (c n : Nat) (k : Kernel) (h : MoveHead) (a t : Word) (b : Bool),
    Fires s c n k h [(.iaA, ofWord a)] false (ofWord t) (.iaO (n / 2)) 1 (gs := .opened h.g.val b) →
    ∃ x y : Alt 2048, x.IsUnder (ofWord (p.2 a t)) [(h.g.val, b)] ∧ y.IsVoid [(h.g.val, !b)] ∧
      exec (p.1 h) s = .next (s.firedAs c n h [.iaA] (.iaO (n / 2)) 1 (n / 2 * 4) [x, y])) ∧
  (∀ p ∈ vaFloatOps, ∀ (s : State) (c n : Nat) (k : Kernel) (h : MoveHead) (a t m : Vec) (b : Bool),
    Fires s c n k h [(.vaA, a), (.vaM, m)] true t (.vaO (n / 2)) 3 (gs := .opened h.g.val b) →
    ∃ (x y : Alt 2048) (r : Vec) (fl : Flags), x.IsUnder r [(h.g.val, b)] ∧ y.IsVoid [(h.g.val, !b)] ∧
      (∀ i, fl.getLsbD i = true → x.own.getLsbD i = true) ∧
      ByElement p.2.1.width m t (fun e => p.2.2 p.2.1 .rne (elem p.2.1.width a e) (elem p.2.1.width t e)) r fl ∧
      exec (p.1 h) s = .next (s.firedAs c n h [.vaA, .vaM] (.vaO (n / 2)) 3 (n / 2 * 4 + 1) [x, y])) ∧
  (∀ p ∈ iaWordOps, ∀ (s : State) (c n : Nat) (k : Kernel) (h : MoveHead) (u w t : Word) (x y : Alt 2048) (g : Nat) (b : Bool),
    Fires s c n k h [] false (ofWord t) (.iaO (n / 2)) 1 → (s.ctx c).alts (.port (n / 2) .iaA) = [x, y] →
    x.IsUnder (ofWord u) [(g, b)] → y.IsUnder (ofWord w) [(g, !b)] →
    ∃ x' y' : Alt 2048, x'.IsUnder (ofWord (p.2 u t)) [(g, b)] ∧ y'.IsUnder (ofWord (p.2 w t)) [(g, !b)] ∧
      exec (p.1 h) s = .next (s.firedAs c n h [.iaA] (.iaO (n / 2)) 1 (n / 2 * 4) [x', y'])) ∧
  ∀ (s : State) (c n : Nat) (k : Kernel) (h : MoveHead) (v : Word) (g : Fin 15), Alone s c n k → (s.ctx c).Satisfied h.inv h.g →
    (s.ctx c).GoesOn k → 0 < k.width → s.SourceIs c k (n / 2) h.src false (ofWord v) → ¬ (7 ≤ g.val ∧ (s.ctx c).pl = true) →
    (s.ctx c).guard (g.val + 1) = .opened → (s.ctx c).hasPark (g.val + 1) = false → s.LandsAlone c (.guard (g.val + 1)) 1 →
    let x := s.ctx c
    let b := v.getLsbD 0
    ∃ y : Ctx, exec (.move h (.k g)) s = .next ((s.readBy c h.src).flows c y) ∧ y.guard (g.val + 1) = .resolved b ∧
      (∀ l a a', l ≠ .guard (g.val + 1) → x.alts l = [a, a'] ∨ x.alts l = [a', a] → a.term = [(g.val + 1, b)] → a'.term = [(g.val + 1, !b)] →
        a.void = false → ∃ z : Alt 2048, y.alts l = [z] ∧ z.val = a.val ∧ z.term = [] ∧ z.void = false ∧ z.grey = a.grey) ∧
      (∀ e ∈ x.held, e.term = [(g.val + 1, b)] → ∃ e' ∈ y.held, e'.pa = e.pa ∧ e'.size = e.size ∧ e'.data = e.data ∧ e'.term = []) ∧
      (∀ e ∈ y.held, (g.val + 1, !b) ∉ e.term) ∧ y.flight.map (·.alts) = x.flight.map (·.alts) ∧ y.nst = x.nst

/-! ## Encoding -/

/-- Words that the spec writes out, decoded (R61-R83). -/
def Obligations.WrittenWordsDecode : Prop :=
  ∀ p ∈ [(0xFFFFFF#24, Instr.nop), (0x000322#24, .move { hold := false, trapEmpty := false, inv := false, g := 0, src := .s 1 } (.port .vaA)),
      (0x234322#24, .move { hold := true, trapEmpty := false, inv := false, g := 3, src := .v 1 } (.port .vaA)),
      (0x004759#24, .vaFmaF32 { hold := false, trapEmpty := false, inv := false, g := 0, src := .v 3 }),
      (0x812345#24, .immediate 0x12345#21), (0xA00802#24, .mxStep { inv := false, g := 0, set := 2 } 4), (0xC80803#24, .yieldTl 4 3#9),
      (0x000930#24, .iaAdd { hold := false, trapEmpty := false, inv := false, g := 0, src := .s 4 }),
      (0x00819E#24, .lsLdV { hold := false, trapEmpty := false, inv := false, g := 0, src := .small 8 }),
      (0xC017FD#24, .br false 2 (BitVec.ofInt 11 (-3))), (0xC10805#24, .brq 5#11), (0xC30014#24, .call 20#11), (0xC70802#24, .ploop 1#3 2#11),
      (0xCE0068#24, .gopen 0x34#15), (0xD1000C#24, .bkrel 12#6), (0xCD0000#24, .tret)],
    decodeSlot p.1 = .ok p.2

/-- R61-R83: the slot of every well-formed instruction decodes to that instruction, with every operand. -/
def Obligations.EncodedInstructionsDecode : Prop := ∀ i : Instr, i.wf = true → decodeSlot (encode i) = .ok i

/-! ## Memory, steps, reset -/

/-- The canonical form of a memory (notes/assumptions/5.md): bytes stored read back, every other byte is as before, the form is kept, and
memories in that form with the same bytes are equal. -/
def Obligations.MemoryForm : Prop :=
  (∀ (m : Memory) (a : Nat) (bs : List Byte), m.wf = true → (memWrite m a bs).wf = true ∧ memRead (memWrite m a bs) a bs.length = bs ∧
    ∀ x, x < a ∨ a + bs.length ≤ x → memGet (memWrite m a bs) x = memGet m x) ∧
  ∀ m m' : Memory, m.wf = true → m'.wf = true → (∀ x, memGet m x = memGet m' x) → m = m'

/-- R62, R84, R164: when no outside event and nothing that comes before the bundles of the cycle is due (the order of events in a cycle:
notes/assumptions/13.md), the step executes the first slot of the bundle at the pc of the lowest-numbered context that issues, with the
other slots of the bundle behind it; a slot whose bytes are no instruction is the event that takes its fault. -/
def Obligations.StepRunsTheBundle : Prop :=
  ∀ (s : State) (c : Fin 8) (k : Kernel), s.takeInput false s.inputs = none → (∀ p ∈ s.dueBefore, p.1 = false) →
    s.issues c.val = true → (∀ d, d < c.val → s.issues d = false) → (s.boundTask c.val).bind s.kernelOf = some k → 0 < k.width →
    let byte := fun i => k.code.getD (6 * k.width * (s.ctx c.val).pc + i) 0
    let slot := fun i => slotOfBytes (byte (3 * i)) (byte (3 * i + 1)) (byte (3 * i + 2))
    let instr := fun i => match decodeSlot (slot i) with | .ok i => i | .error r => .unassignedEncoding r
    6 * k.width * ((s.ctx c.val).pc + 1) ≤ k.code.length →
    step s = exec (instr 0) (({ s with
      issue := { ctx := c, before := [], after := (List.range (2 * k.width - 1)).map fun i => instr (i + 1) } } : State).modCtx c.val
        fun x => { x with issuedAt := some s.now })

/-- What the spec says device reset leaves: R24 timeline counters, R40 nst, R53 rnc, R272
scope entries 1 to 14, R286 translation off, R372 no task, R373 port 0's message rights (the port: notes/assumptions/10.md), R387 performance
counters, R402 no function ready. By the model's choice every byte of memory reads 0 (notes/assumptions/5.md). -/
def Obligations.ResetState : Prop :=
  (∀ c, c < 8 → let x := State.reset.ctx c
    x.run = .free ∧ x.nst = 0 ∧ x.rnc = 0 ∧ (∀ i, i < 12 → (x.timeline i).issued = 0 ∧ (x.timeline i).out = []) ∧
    (∀ i, 1 ≤ i → i ≤ 14 → let e := vget x.scopes i {}; e.val = false ∧ e.chg = false ∧ e.gen = 0 ∧ e.peer = false ∧ e.host = false ∧
      e.slices = 0 ∧ e.cores = 0) ∧ ∀ i, i < 8 → vget x.perf i 0 = 0) ∧
  (∀ t, t < 16 → (State.reset.tenant t).troot = 0) ∧ State.reset.tasks = [] ∧ State.reset.tcache = [] ∧ State.reset.platform.brs = 0 ∧
  State.reset.platform.plim = 1500 ∧ State.reset.platform.dlock = false ∧
  (∀ (port : Fin 4), vget State.reset.msgMasks port.val 0 = if port = State.reset.platform.pport then 0xFFFF else 0) ∧
  ∀ a, memGet State.reset.mem a = 0 ∧ memGet State.reset.spad a = 0 ∧ memGet State.reset.hostMem a = 0 ∧ memGet State.reset.peerMem a = 0

/-- The model's invariant holds at reset: every memory is in its canonical form, the partition mode is not 0b11, and no core message with
mode 0b11 is being applied. -/
def Obligations.ResetInvariant : Prop := State.reset.Inv

/-- Every step keeps the model's invariant, from every state: every memory in its canonical form, a partition mode that is not 0b11
(R371), and no core message with mode 0b11 being applied. -/
def Obligations.StepKeepsInvariant : Prop := ∀ s t : State, s.Inv → step s = .next t → t.Inv
end

