-- ==== Sys2Proof/Laws/Vector.lean ====
section
/-! SUPPORT. Reading and changing one element of a vector, one context of the machine. -/

namespace Sys2Proof.Machine

variable {α : Type} {n : Nat}

@[simp] theorem vget_vmod_same (v : Vector α n) (i : Nat) (f : α → α) (d : α) (h : i < n) :
    vget (vmod v i f) i d = f (vget v i d) := by
  simp [vget, vmod, h]

theorem vget_vmod_other (v : Vector α n) {i j : Nat} (f : α → α) (d : α) (h : i ≠ j) :
    vget (vmod v i f) j d = vget v j d := by
  unfold vget vmod
  split
  · split
    · simp [h]
    · rfl
  · rfl

@[simp] theorem vmod_vmod (v : Vector α n) (i : Nat) (f g : α → α) : vmod (vmod v i f) i g = vmod v i (fun x => g (f x)) := by
  unfold vmod
  split <;> simp

@[simp] theorem vmod_same (v : Vector α n) (i : Nat) : vmod v i (fun x => x) = v := by
  unfold vmod
  split <;> simp

theorem vmod_vget (v : Vector α n) (i : Nat) (g : α → α) (d : α) : vmod v i (fun _ => g (vget v i d)) = vmod v i g := by
  unfold vmod vget
  split <;> simp_all

@[simp] theorem vget_vset_same (v : Vector α n) (i : Nat) (x d : α) (h : i < n) : vget (vset v i x) i d = x := by
  simp [vget, vset, h]

theorem vget_vset_other (v : Vector α n) {i j : Nat} (x d : α) (h : i ≠ j) : vget (vset v i x) j d = vget v j d := by
  unfold vget vset
  split
  · simp [h]
  · rfl

@[simp] theorem vget_replicate (x d : α) (i : Nat) (h : i < n) : vget (Vector.replicate n x) i d = x := by simp [vget, h]

/-! ## One context -/

@[simp] theorem State.ctx_modCtx_same (s : State) {c : Nat} (f : Ctx → Ctx) (h : c < 8) : (s.modCtx c f).ctx c = f (s.ctx c) :=
  vget_vmod_same _ _ _ _ h

theorem State.ctx_modCtx_other (s : State) {c d : Nat} (f : Ctx → Ctx) (h : c ≠ d) : (s.modCtx c f).ctx d = s.ctx d :=
  vget_vmod_other _ _ _ h

@[simp] theorem State.modCtx_modCtx (s : State) (c : Nat) (f g : Ctx → Ctx) :
    (s.modCtx c f).modCtx c g = s.modCtx c (fun x => g (f x)) := by
  simp [State.modCtx]

theorem State.modCtx_ctx (s : State) (c : Nat) (g : Ctx → Ctx) : s.modCtx c (fun _ => g (s.ctx c)) = s.modCtx c g := by
  simp [State.modCtx, State.ctx, vmod_vget]

@[simp] theorem State.modCtx_same (s : State) (c : Nat) : s.modCtx c (fun x => x) = s := by simp [State.modCtx]

@[simp] theorem State.ctx_setCtx_same (s : State) {c : Nat} (x : Ctx) (h : c < 8) : (s.setCtx c x).ctx c = x :=
  vget_vset_same _ _ _ _ h

theorem State.ctx_setCtx_other (s : State) {c d : Nat} (x : Ctx) (h : c ≠ d) : (s.setCtx c x).ctx d = s.ctx d :=
  vget_vset_other _ _ _ h

end Sys2Proof.Machine
end

