-- ==== Sys2Proof/Laws/Bundle.lean ====
section
/-! SUPPORT. The issue of a bundle that holds one or two instructions beside no-ops: what its examination and its commit come to. -/

namespace Sys2Proof.Machine

open Host

/-! ## No-ops change nothing -/

/-- The ops `mid` from slot `n` on, no-ops in the others. -/
def midSlots (mid : List SlotOp) (n m : Nat) : List SlotOp := List.replicate n SlotOp.nop ++ mid ++ List.replicate m SlotOp.nop

theorem midSlots_zipIdx (mid : List SlotOp) (n m : Nat) : (midSlots mid n m).zipIdx =
    (List.replicate n SlotOp.nop).zipIdx ++ mid.zipIdx n ++ (List.replicate m SlotOp.nop).zipIdx (n + mid.length) := by
  simp [midSlots, List.zipIdx_append]

theorem foldl_nops {β : Type} (f : β → SlotOp × Nat → β) (hf : ∀ b i, f b (.nop, i) = b) (n i : Nat) (b : β) :
    ((List.replicate n SlotOp.nop).zipIdx i).foldl f b = b := by
  induction n generalizing i b with
  | zero => rfl
  | succ n ih => simp [List.replicate_succ, hf, ih]

theorem foldl_mid {β : Type} (f : β → SlotOp × Nat → β) (hf : ∀ b i, f b (.nop, i) = b) (mid : List SlotOp) (n m : Nat) (b : β) :
    ((midSlots mid n m).zipIdx).foldl f b = (mid.zipIdx n).foldl f b := by
  simp [midSlots_zipIdx, foldl_nops f hf]

theorem findSome_nops {β : Type} (f : SlotOp × Nat → Option β) (hf : ∀ i, f (.nop, i) = none) (n i : Nat) :
    ((List.replicate n SlotOp.nop).zipIdx i).findSome? f = none := by
  induction n generalizing i with
  | zero => rfl
  | succ n ih => simp [List.replicate_succ, hf, ih]

theorem findSome_mid {β : Type} (f : SlotOp × Nat → Option β) (hf : ∀ i, f (.nop, i) = none) (mid : List SlotOp) (n m : Nat) :
    ((midSlots mid n m).zipIdx).findSome? f = (mid.zipIdx n).findSome? f := by
  simp [midSlots_zipIdx, List.findSome?_append, findSome_nops f hf]

theorem filterMap_nops {β : Type} (f : SlotOp × Nat → Option β) (hf : ∀ i, f (.nop, i) = none) (n i : Nat) :
    ((List.replicate n SlotOp.nop).zipIdx i).filterMap f = [] := by
  induction n generalizing i with
  | zero => rfl
  | succ n ih => simp [List.replicate_succ, hf, ih]

theorem filterMap_mid {β : Type} (f : SlotOp × Nat → Option β) (hf : ∀ i, f (.nop, i) = none) (mid : List SlotOp) (n m : Nat) :
    ((midSlots mid n m).zipIdx).filterMap f = (mid.zipIdx n).filterMap f := by
  simp [midSlots_zipIdx, filterMap_nops f hf]

/-! ## Examination -/

/-- The effects of the ops, before the checks of the whole bundle. -/
def Work.after (w : Work) (sl ops : Slots) : Work :=
  ops.foldl Work.late (ops.foldl Work.middle (ops.foldl (fun w p => w.early sl p) w))

theorem examine_mid (w : Work) (mid : List SlotOp) (n m : Nat) : w.examine (midSlots mid n m).zipIdx =
    ((w.after (midSlots mid n m).zipIdx (mid.zipIdx n)).checkPools.examineCtl (Slots.ctls (mid.zipIdx n))) := by
  unfold Work.examine Work.after Slots.ctls
  dsimp only
  rw [foldl_mid _ (fun _ _ => rfl), foldl_mid _ (fun _ _ => rfl), foldl_mid _ (fun _ _ => rfl), filterMap_mid _ (fun _ => rfl)]

theorem decodeFault_mid (k : Kernel) (mid : List SlotOp) (n m : Nat) :
    decodeFaultOf k (midSlots mid n m).zipIdx = decodeFaultOf k (mid.zipIdx n) := findSome_mid _ (fun _ => rfl) ..

/-- No slot of the bundle writes ix, unless one of its ops is an immediate. -/
theorem immediate_mid (mid : List SlotOp) (n m : Nat) (h : ∀ op ∈ mid, ∀ v, op ≠ .imm v) :
    Slots.immediate (midSlots mid n m).zipIdx = fun _ => none := by
  have h0 : ∀ i, Slots.immAt (midSlots mid n m).zipIdx i = none := by
    intro i
    unfold Slots.immAt
    rw [findSome_mid _ (fun _ => rfl), List.findSome?_eq_none_iff]
    rintro ⟨op, j⟩ hop
    have := h op (List.fst_mem_of_mem_zipIdx hop)
    cases op <;> first | rfl | exact absurd rfl (this _)
  funext j
  simp [Slots.immediate, h0]

/-! ## A bundle that nothing keeps from committing -/

/-- No case of steps 2 to 6 of R196. -/
structure Work.Clean (w : Work) : Prop where
  empties : w.empties = []
  collapses : w.collapses = []
  unitConf : w.unitConf = []
  engConf : w.engConf = []
  stops : w.stops = []
  colls : w.colls = []

theorem Work.Clean.refusal {w : Work} (h : w.Clean) : w.refusal = none := by
  unfold Work.refusal
  simp [h.empties, h.collapses, h.unitConf, h.engConf, h.stops, h.colls, lowestSlot, leastOf]

/-- No write that lands with the commit, no command of an engine. -/
structure Work.Plain (w : Work) : Prop extends w.Clean where
  landColls : w.landColls = []
  pushes : w.pushes = []
  cqRoom : w.cqTrigs = [] ∨ w.x0.cq.length + w.cqTrigs.length ≤ 16
  guardMoves : w.guardMoves = []
  engs : w.engs = []
  rncW : w.rncW = none

theorem Work.checkPools_ok (w : Work) (h : ∀ j, j < 4 → poolUse (vget w.x.clusters j Cluster.init) ≤ 16) : w.checkPools = w := by
  unfold Work.checkPools
  have key : ∀ (l : List Nat), (∀ j ∈ l, j < 4) → ∀ f : Work → Nat → Work,
      (∀ j, j < 4 → f w j = w) → l.foldl f w = w := by
    intro l
    induction l with
    | nil => intros; rfl
    | cons a l ih =>
      intro hl f hf
      simp only [List.foldl_cons, hf a (hl a (by simp))]
      exact ih (fun j hj => hl j (by simp [hj])) f hf
  apply key
  · intro j hj; simpa using hj
  · intro j hj; simp [h j hj]

theorem popsOf_nil : popsOf [] = 0 := rfl

theorem Work.checkQueue_room (w : Work) (ops : List CtlSlot) (hp : w.pushes = [])
    (hq : w.cqTrigs = [] ∨ w.x0.cq.length + w.cqTrigs.length ≤ 16) : w.checkQueue ops = w := by
  unfold Work.checkQueue
  rw [hp]
  rcases hq with hq | hq
  · rw [hq]; split <;> rfl
  · rw [if_pos]; simp only [List.length_nil]; omega

theorem Work.checkNext_goesOn (w : Work) (hg : w.x.GoesOn w.k) : w.checkNext [] = w := by
  have hw : w.winner [] = none := rfl
  have he : w.exempt [] = false := rfl
  have hf : (w.fallThrough []).1 = (endIteration w.x.pc 5 w.x).1 := rfl
  unfold Ctx.GoesOn at hg
  unfold Work.checkNext
  rw [hw]
  dsimp only
  rw [he, hf, if_neg]
  simpa using hg

theorem Work.examineCtl_plain (w : Work) (hp : w.pushes = []) (hq : w.cqTrigs = [] ∨ w.x0.cq.length + w.cqTrigs.length ≤ 16)
    (hg : w.x.GoesOn w.k) : w.examineCtl [] = w := by
  unfold Work.examineCtl
  dsimp only [List.foldl_nil]
  rw [w.checkQueue_room _ hp hq, w.checkNext_goesOn hg]

theorem State.retired_eq (s : State) (c : Nat) (rs : Nat := 0) :
    s.retired c rs = { s.modCtx c (fun x => x.advance s.now rs) with issue := {} } := rfl

@[simp] theorem Ctx.queue_nothing (x : Ctx) : x.queue 0 [] = x := by simp [Ctx.queue]

theorem Work.commit_plain (w : Work) (h : w.Plain) (hc : w.c < 8) (hn : w.s.now = w.s0.now) :
    w.commit [] = .ok (w.s.modCtx w.c (·.advance w.s.now w.rsOps)) := by
  have h1 : ∀ f, (w.modX f).commitGuards [] = w.modX f := fun f => by
    simp only [Work.commitGuards, Work.modX, h.guardMoves, List.foldl_nil]
  unfold Work.commit
  dsimp only
  rw [h1]
  simp only [h.landColls, h.rncW, h.colls, h.pushes, leastOf, Work.commitFlow, Work.winner, List.findSome?_nil, List.foldl_nil,
    Work.fallThrough, List.find?_nil, Work.modX, Work.x, Work.now, ← hn, popsOf_nil, List.map_nil, Ctx.queue_nothing]
  simp only [Work.commitOps, List.foldlM_nil, bind, Except.bind, pure, Except.pure, Work.seal, h.engs, List.isEmpty_nil,
    if_true, Work.commitTrap, List.findSome?_nil, Work.commitTret, Work.winner, Work.commitTask, List.find?_nil]
  simp only [State.modCtx_modCtx, State.ctx_modCtx_same _ _ hc]
  exact congrArg _ (State.modCtx_ctx w.s w.c fun x => x.advance w.s.now w.rsOps)

/-! ## The whole bundle -/

/-- The working record with which the bundle of `s` is examined. -/
def startWork (s : State) (c : Nat) (k : Kernel) (imm : Nat → Option Word) : Work := { c := c, k := k, s0 := s, s := s, imm := imm }

theorem Issues.lt {s : State} {c n : Nat} {k : Kernel} {pre post : List Instr} (h : Issues s c n k pre post) : c < 8 :=
  h.ctx ▸ s.issue.ctx.isLt

theorem Issues.slots {s : State} {c n : Nat} {k : Kernel} {pre post : List Instr} (h : Issues s c n k pre post) (op : SlotOp) :
    ∃ m, s.issue.before.map slotOf ++ op :: s.issue.after.map slotOf =
      midSlots (pre.map slotOf ++ op :: post.map slotOf) (n - pre.length) m := by
  obtain ⟨m, hm⟩ := h.after
  exact ⟨m, by simp [h.before, hm, midSlots, slotOf, slotNop]⟩

theorem Issues.issueSlots {s : State} {c n : Nat} {k : Kernel} {pre post : List Instr} (h : Issues s c n k pre post)
    (ops : List SlotOp) : s.issueSlots ops = s.runBundle c k ops := by
  have hk := h.kernel
  unfold State.issueSlots
  rw [h.ctx]
  cases ht : s.boundTask c with
  | none => simp [ht] at hk
  | some t =>
    have hk' : s.kernelOf t = some k := by simpa [ht] using hk
    simp only [ht, hk', h.bar]

/-- A bundle of moves, immediates and triggers commits, where no case of R196 applies and the effects leave the pools and the
flow of control in order. -/
theorem issueSlot_plain {s : State} {c n : Nat} {k : Kernel} {pre post : List Instr} {op : SlotOp} (hA : Issues s c n k pre post)
    {ops : Slots} (hops : (pre.map slotOf ++ op :: post.map slotOf).zipIdx (n - pre.length) = ops) (hd : decodeFaultOf k ops = none)
    (hctl : Slots.ctls ops = []) {w : Work}
    (hw : ∀ m, let sl := (midSlots (pre.map slotOf ++ op :: post.map slotOf) (n - pre.length) m).zipIdx
      (startWork s c k (Slots.immediate sl)).after sl ops = w)
    (hp : w.Plain) (hk : w.k = k) (hc : w.c = c) (h0 : w.s0 = s) (hn : w.s.now = s.now)
    (hpool : ∀ j, j < 4 → poolUse (vget w.x.clusters j Cluster.init) ≤ 16) (hg : w.x.GoesOn k) :
    issueSlot op s = .next (w.s.retired c w.rsOps) := by
  obtain ⟨m, hm⟩ := hA.slots op
  have hx := examine_mid (startWork s c k (Slots.immediate (midSlots (pre.map slotOf ++ op :: post.map slotOf) (n - pre.length) m).zipIdx))
    (pre.map slotOf ++ op :: post.map slotOf) (n - pre.length) m
  rw [hops, hw m, Work.checkPools_ok _ hpool, hctl, Work.examineCtl_plain _ hp.pushes hp.cqRoom (hk ▸ hg)] at hx
  have hctls : Slots.ctls (midSlots (pre.map slotOf ++ op :: post.map slotOf) (n - pre.length) m).zipIdx = [] := by
    unfold Slots.ctls
    rw [filterMap_mid _ (fun _ => rfl), hops]
    exact hctl
  have hcommit : w.commit [] = .ok (w.s.modCtx c (·.advance w.s.now w.rsOps)) := by
    have := Work.commit_plain w hp (hc ▸ hA.lt) (by rw [hn, h0])
    rwa [hc] at this
  unfold issueSlot
  rw [hm, hA.issueSlots]
  unfold State.runBundle
  dsimp only
  rw [decodeFault_mid, hops, hd]
  change (match (match ((startWork s c k (Slots.immediate _)).examine _).refusal with
    | some s' => Except.ok s'
    | none => match ((startWork s c k (Slots.immediate _)).examine _).commit (Slots.ctls _) with
      | .ok s' => Except.ok s'
      | .error f => s.frameFault c (Slots.ctls _) f) with
    | .ok t => Outcome.next { t with issue := {} }
    | .error f => .fault f) = _
  rw [hx, hp.toClean.refusal, hctls, hcommit]
  rfl

end Sys2Proof.Machine
end

