-- ==== Sys2Proof/Laws/Flow.lean ====
section
/-! SUPPORT. The ends of loops read and write the fields of control alone (R181-R186). -/

namespace Sys2Proof.Machine

/-- The fields that the flow of control reads and writes are those of `x`; the others are those of `y`. -/
def Ctx.flowOf (y x : Ctx) : Ctx :=
  { y with loops := x.loops, links := x.links, lc := x.lc, rem := x.rem, strt := x.strt, guards := x.guards, pst := x.pst,
           fel := x.fel, fer := x.fer, slice := x.slice, rb := x.rb, pl := x.pl }

theorem Ctx.setGates_flowOf (y x : Ctx) (f : Nat → Bool) : (Ctx.flowOf y x).setGates f = Ctx.flowOf y (x.setGates f) := rfl

theorem Ctx.endPipe_flowOf (y x : Ctx) : (Ctx.flowOf y x).endPipe = Ctx.flowOf y x.endPipe := by
  unfold Ctx.endPipe
  rw [Ctx.setGates_flowOf]
  generalize x.setGates _ = z
  rfl

theorem Ctx.setLc_flowOf (y x : Ctx) (v : BitVec 32) : (Ctx.flowOf y x).setLc v = Ctx.flowOf y (x.setLc v) := by
  unfold Ctx.setLc
  rw [show (Ctx.flowOf y x).innerPipe = x.innerPipe from rfl]
  split <;> rfl

theorem Ctx.popLoop_flowOf (y x : Ctx) : (Ctx.flowOf y x).popLoop = Ctx.flowOf y x.popLoop := by
  unfold Ctx.popLoop
  simp only [show (Ctx.flowOf y x).loops = x.loops from rfl]
  cases x.loops with
  | nil => rfl
  | cons e es =>
    dsimp only
    rw [← Ctx.setLc_flowOf]
    congr 1
    split
    · rw [← Ctx.endPipe_flowOf]; rfl
    · rfl

theorem Ctx.passGate_flowOf (y x : Ctx) : (Ctx.flowOf y x).passGate = x.passGate := rfl

theorem Ctx.passNext_flowOf (y x : Ctx) : (Ctx.flowOf y x).passNext = Ctx.flowOf y x.passNext := rfl

theorem Ctx.passBoundary_flowOf (y x : Ctx) (e : LoopEntry) :
    (Ctx.flowOf y x).passBoundary e = ((x.passBoundary e).1, Ctx.flowOf y (x.passBoundary e).2) := by
  unfold Ctx.passBoundary
  dsimp only
  rw [Ctx.passGate_flowOf, Ctx.passNext_flowOf, Ctx.setGates_flowOf, Ctx.popLoop_flowOf]
  split <;> rfl

theorem endIteration_flowOf (y : Ctx) (pc fuel : Nat) (x : Ctx) :
    endIteration pc fuel (Ctx.flowOf y x) = ((endIteration pc fuel x).1, Ctx.flowOf y (endIteration pc fuel x).2) := by
  induction fuel generalizing x with
  | zero => rfl
  | succ n ih =>
    unfold endIteration
    simp only [show (Ctx.flowOf y x).loops = x.loops from rfl, show (Ctx.flowOf y x).links = x.links from rfl,
      show (Ctx.flowOf y x).lc = x.lc from rfl]
    cases x.loops with
    | nil => rfl
    | cons e es =>
      dsimp only
      split
      · rfl
      · split
        · rw [Ctx.passBoundary_flowOf]
          simp only [show ∀ z : Ctx, (Ctx.flowOf y z).loops = z.loops from fun _ => rfl]
          split
          · rfl
          · exact ih _
        · split
          · rfl
          · rw [Ctx.popLoop_flowOf]; exact ih _

/-- Two contexts with the same fields of control. -/
theorem Ctx.GoesOn.of_flow {x y : Ctx} {k : Kernel} (h : x.GoesOn k) (hf : y = Ctx.flowOf y x) (hp : y.pc = x.pc) : y.GoesOn k := by
  unfold Ctx.GoesOn at h ⊢
  rw [hf, endIteration_flowOf]
  change (endIteration y.pc 5 x).1 < k.ncode
  rw [hp]
  exact h

end Sys2Proof.Machine
end

