-- ==== Sys2Proof/Laws/Lanes.lean ====
section
/-! SUPPORT. Elements of vectors: what packing elements side by side gives back. -/

namespace Sys2Proof.Machine

theorem fld_lt (x lo n : Nat) : fld x lo n < 2 ^ n := Nat.mod_lt _ (Nat.two_pow_pos n)

theorem ofList_lt (w : Nat) (xs : List Nat) : ofList w xs < 2 ^ (w * xs.length) := by
  induction xs with
  | nil => simp [ofList]
  | cons x xs ih =>
    have h1 : x % 2 ^ w < 2 ^ w := Nat.mod_lt _ (Nat.two_pow_pos w)
    simp only [ofList, List.length_cons, Nat.shiftLeft_eq]
    rw [Nat.mul_add, Nat.mul_one, Nat.pow_add]
    nlinarith [Nat.two_pow_pos w]

/-- Element `i` of elements side by side. -/
theorem fld_ofList (w : Nat) (xs : List Nat) (i : Nat) : fld (ofList w xs) (w * i) w = xs.getD i 0 % 2 ^ w := by
  induction xs generalizing i with
  | nil => simp [ofList, fld]
  | cons x xs ih =>
    have h1 : x % 2 ^ w < 2 ^ w := Nat.mod_lt _ (Nat.two_pow_pos w)
    cases i with
    | zero =>
      simp only [ofList, fld, Nat.mul_zero, Nat.shiftRight_zero, Nat.shiftLeft_eq, List.getD_cons_zero]
      rw [Nat.add_mul_mod_self_right, Nat.mod_mod]
    | succ i =>
      rw [List.getD_cons_succ, ← ih i]
      simp only [ofList, fld, Nat.shiftRight_eq_div_pow, Nat.shiftLeft_eq, Nat.mul_add, Nat.mul_one]
      rw [Nat.add_comm (w * i) w, Nat.pow_add, ← Nat.div_div_eq_div_mul, Nat.add_mul_div_right _ _ (Nat.two_pow_pos w),
        Nat.div_eq_of_lt h1, Nat.zero_add]

theorem ofElems_lt (w n : Nat) (f : Nat → Nat) : ofElems w n f < 2 ^ (w * n) := by
  induction n with
  | zero => simp [ofElems]
  | succ n ih =>
    have h1 : f n % 2 ^ w < 2 ^ w := Nat.mod_lt _ (Nat.two_pow_pos w)
    simp only [ofElems, Nat.shiftLeft_eq]
    rw [Nat.mul_add, Nat.mul_one, Nat.pow_add, Nat.mul_comm (2 ^ (w * n))]
    nlinarith [Nat.two_pow_pos (w * n)]

theorem fld_ofElems (w n : Nat) (f : Nat → Nat) (i : Nat) (h : i < n) : fld (ofElems w n f) (w * i) w = f i % 2 ^ w := by
  induction n with
  | zero => omega
  | succ n ih =>
    have h1 := ofElems_lt w n f
    simp only [ofElems, fld, Nat.shiftLeft_eq, Nat.shiftRight_eq_div_pow]
    by_cases hi : i = n
    · subst hi
      rw [Nat.add_mul_div_right _ _ (Nat.two_pow_pos _), Nat.div_eq_of_lt h1, Nat.zero_add, Nat.mod_mod]
    · have hlt : i < n := by omega
      rw [← ih hlt]
      simp only [fld, Nat.shiftRight_eq_div_pow]
      have e : w * n = w * i + (w * (n - i - 1) + w) := by
        rw [← Nat.mul_succ, ← Nat.mul_add]; congr 1; omega
      have e2 : f n % 2 ^ w * 2 ^ (w * n) = 2 ^ (w * i) * (f n % 2 ^ w * 2 ^ (w * (n - i - 1)) * 2 ^ w) := by
        rw [e, Nat.pow_add, Nat.pow_add]; ring
      rw [e2, Nat.add_mul_div_left _ _ (Nat.two_pow_pos _), Nat.add_mul_mod_self_right]

theorem toNat_ofNat_2048 {x : Nat} (h : x < 2 ^ 2048) : (BitVec.ofNat 2048 x).toNat = x := by
  rw [BitVec.toNat_ofNat, Nat.mod_eq_of_lt h]

/-- Element `e` of a packed list. -/
theorem elem_packElems {w : Nat} {es : List (Nat × Flags)} (h : w * es.length ≤ 2048) (e : Nat) :
    elem w (packElems w es).1 e = (es.map (·.1)).getD e 0 % 2 ^ w := by
  unfold elem packElems
  dsimp only
  rw [toNat_ofNat_2048 (lt_of_lt_of_le (ofList_lt _ _) (Nat.pow_le_pow_right (by decide) (by simpa using h))), fld_ofList]

theorem foldl_or (es : List (Nat × Flags)) (f0 : Flags) (b : Nat) :
    (es.foldl (fun fl e => fl ||| e.2) f0).getLsbD b = true ↔ f0.getLsbD b = true ∨ ∃ e ∈ es, e.2.getLsbD b = true := by
  induction es generalizing f0 with
  | nil => simp
  | cons e es ih => simp [List.foldl_cons, ih, or_assoc]

theorem packElems_flags (w : Nat) (es : List (Nat × Flags)) (b : Nat) :
    (packElems w es).2.getLsbD b = true ↔ ∃ e ∈ es, e.2.getLsbD b = true := by
  unfold packElems
  simp [foldl_or]

/-- The mould of R215 and R216. -/
theorem mapElems_byElement {w : Nat} (m t : Vec) (f : Nat → Nat × Flags) (hw : w * (2048 / w) ≤ 2048) :
    ByElement w m t f (mapElems w m t f).val (mapElems w m t f).flags := by
  constructor
  · intro e he
    unfold mapElems Comp.elems
    dsimp only
    rw [elem_packElems (by simpa using hw)]
    simp only [List.map_map, List.getD_eq_getElem?_getD, List.getElem?_map]
    rw [List.getElem?_range he]
    dsimp only [Option.map, Option.getD, Function.comp]
    split
    · rfl
    · exact Nat.mod_eq_of_lt (fld_lt _ _ _)
  · intro b
    unfold mapElems Comp.elems
    dsimp only
    rw [packElems_flags]
    constructor
    · rintro ⟨e, he, hb⟩
      simp only [List.mem_map, List.mem_range] at he
      obtain ⟨i, hi, rfl⟩ := he
      by_cases ha : active w m i
      · exact ⟨i, hi, ha, by simpa [ha] using hb⟩
      · simp [ha] at hb
    · rintro ⟨i, hi, ha, hb⟩
      exact ⟨_, List.mem_map.2 ⟨i, List.mem_range.2 hi, rfl⟩, by simpa [ha] using hb⟩

theorem laneW_toNat (v : Vec) (i : Nat) : (laneW v i).toNat = lane v i := by
  simp [laneW, lane, fld, BitVec.extractLsb'_toNat]

theorem lane_ofLanes (f : Nat → Nat) (i : Nat) (h : i < 64) : lane (ofLanes f) i = f i % 2 ^ 32 := by
  unfold lane ofLanes
  rw [toNat_ofNat_2048 (ofElems_lt 32 64 f), fld_ofElems _ _ _ _ h]

end Sys2Proof.Machine
end

