-- ==== Sys2Proof/Laws/State.lean ====
section
/-! SUPPORT. One lemma per field of the machine and per update of it: what each update changes and what it leaves. -/

namespace Sys2Proof.Machine

variable (s : State)


/-! ## State.setCtx -/

@[simp] theorem State.setCtx_now (c : Nat) (x : Ctx) : (s.setCtx c x).now = s.now := rfl
@[simp] theorem State.setCtx_coreNum (c : Nat) (x : Ctx) : (s.setCtx c x).coreNum = s.coreNum := rfl
@[simp] theorem State.setCtx_mode (c : Nat) (x : Ctx) : (s.setCtx c x).mode = s.mode := rfl
@[simp] theorem State.setCtx_lcores (c : Nat) (x : Ctx) : (s.setCtx c x).lcores = s.lcores := rfl
@[simp] theorem State.setCtx_otherCores (c : Nat) (x : Ctx) : (s.setCtx c x).otherCores = s.otherCores := rfl
@[simp] theorem State.setCtx_mem (c : Nat) (x : Ctx) : (s.setCtx c x).mem = s.mem := rfl
@[simp] theorem State.setCtx_spad (c : Nat) (x : Ctx) : (s.setCtx c x).spad = s.spad := rfl
@[simp] theorem State.setCtx_spad0 (c : Nat) (x : Ctx) : (s.setCtx c x).spad0 = s.spad0 := rfl
@[simp] theorem State.setCtx_hostMem (c : Nat) (x : Ctx) : (s.setCtx c x).hostMem = s.hostMem := rfl
@[simp] theorem State.setCtx_peerMem (c : Nat) (x : Ctx) : (s.setCtx c x).peerMem = s.peerMem := rfl
@[simp] theorem State.setCtx_poisonG (c : Nat) (x : Ctx) : (s.setCtx c x).poisonG = s.poisonG := rfl
@[simp] theorem State.setCtx_poisonS (c : Nat) (x : Ctx) : (s.setCtx c x).poisonS = s.poisonS := rfl
@[simp] theorem State.setCtx_poisonS0 (c : Nat) (x : Ctx) : (s.setCtx c x).poisonS0 = s.poisonS0 := rfl
@[simp] theorem State.setCtx_poisonP (c : Nat) (x : Ctx) : (s.setCtx c x).poisonP = s.poisonP := rfl
@[simp] theorem State.setCtx_l1 (c : Nat) (x : Ctx) : (s.setCtx c x).l1 = s.l1 := rfl
@[simp] theorem State.setCtx_icache (c : Nat) (x : Ctx) : (s.setCtx c x).icache = s.icache := rfl
@[simp] theorem State.setCtx_iload (c : Nat) (x : Ctx) : (s.setCtx c x).iload = s.iload := rfl
@[simp] theorem State.setCtx_tcache (c : Nat) (x : Ctx) : (s.setCtx c x).tcache = s.tcache := rfl
@[simp] theorem State.setCtx_walks (c : Nat) (x : Ctx) : (s.setCtx c x).walks = s.walks := rfl
@[simp] theorem State.setCtx_cal (c : Nat) (x : Ctx) : (s.setCtx c x).cal = s.cal := rfl
@[simp] theorem State.setCtx_occ (c : Nat) (x : Ctx) : (s.setCtx c x).occ = s.occ := rfl
@[simp] theorem State.setCtx_compactDue (c : Nat) (x : Ctx) : (s.setCtx c x).compactDue = s.compactDue := rfl
@[simp] theorem State.setCtx_released (c : Nat) (x : Ctx) : (s.setCtx c x).released = s.released := rfl
@[simp] theorem State.setCtx_denied (c : Nat) (x : Ctx) : (s.setCtx c x).denied = s.denied := rfl
@[simp] theorem State.setCtx_ckRetryAt (c : Nat) (x : Ctx) : (s.setCtx c x).ckRetryAt = s.ckRetryAt := rfl
@[simp] theorem State.setCtx_ckParks (c : Nat) (x : Ctx) : (s.setCtx c x).ckParks = s.ckParks := rfl
@[simp] theorem State.setCtx_peerHeld (c : Nat) (x : Ctx) : (s.setCtx c x).peerHeld = s.peerHeld := rfl
@[simp] theorem State.setCtx_queued0 (c : Nat) (x : Ctx) : (s.setCtx c x).queued0 = s.queued0 := rfl
@[simp] theorem State.setCtx_searched (c : Nat) (x : Ctx) : (s.setCtx c x).searched = s.searched := rfl
@[simp] theorem State.setCtx_strips (c : Nat) (x : Ctx) : (s.setCtx c x).strips = s.strips := rfl
@[simp] theorem State.setCtx_chans (c : Nat) (x : Ctx) : (s.setCtx c x).chans = s.chans := rfl
@[simp] theorem State.setCtx_landings (c : Nat) (x : Ctx) : (s.setCtx c x).landings = s.landings := rfl
@[simp] theorem State.setCtx_sel (c : Nat) (x : Ctx) : (s.setCtx c x).sel = s.sel := rfl
@[simp] theorem State.setCtx_ckp (c : Nat) (x : Ctx) : (s.setCtx c x).ckp = s.ckp := rfl
@[simp] theorem State.setCtx_ckLand (c : Nat) (x : Ctx) : (s.setCtx c x).ckLand = s.ckLand := rfl
@[simp] theorem State.setCtx_syn (c : Nat) (x : Ctx) : (s.setCtx c x).syn = s.syn := rfl
@[simp] theorem State.setCtx_phasers (c : Nat) (x : Ctx) : (s.setCtx c x).phasers = s.phasers := rfl
@[simp] theorem State.setCtx_phWaits (c : Nat) (x : Ctx) : (s.setCtx c x).phWaits = s.phWaits := rfl
@[simp] theorem State.setCtx_members (c : Nat) (x : Ctx) : (s.setCtx c x).members = s.members := rfl
@[simp] theorem State.setCtx_phNreg (c : Nat) (x : Ctx) : (s.setCtx c x).phNreg = s.phNreg := rfl
@[simp] theorem State.setCtx_scopeOps (c : Nat) (x : Ctx) : (s.setCtx c x).scopeOps = s.scopeOps := rfl
@[simp] theorem State.setCtx_rawAcc (c : Nat) (x : Ctx) : (s.setCtx c x).rawAcc = s.rawAcc := rfl
@[simp] theorem State.setCtx_tenants (c : Nat) (x : Ctx) : (s.setCtx c x).tenants = s.tenants := rfl
@[simp] theorem State.setCtx_dies (c : Nat) (x : Ctx) : (s.setCtx c x).dies = s.dies := rfl
@[simp] theorem State.setCtx_pageOver (c : Nat) (x : Ctx) : (s.setCtx c x).pageOver = s.pageOver := rfl
@[simp] theorem State.setCtx_tasks (c : Nat) (x : Ctx) : (s.setCtx c x).tasks = s.tasks := rfl
@[simp] theorem State.setCtx_nextId (c : Nat) (x : Ctx) : (s.setCtx c x).nextId = s.nextId := rfl
@[simp] theorem State.setCtx_replays (c : Nat) (x : Ctx) : (s.setCtx c x).replays = s.replays := rfl
@[simp] theorem State.setCtx_images (c : Nat) (x : Ctx) : (s.setCtx c x).images = s.images := rfl
@[simp] theorem State.setCtx_msgMasks (c : Nat) (x : Ctx) : (s.setCtx c x).msgMasks = s.msgMasks := rfl
@[simp] theorem State.setCtx_slow (c : Nat) (x : Ctx) : (s.setCtx c x).slow = s.slow := rfl
@[simp] theorem State.setCtx_routes (c : Nat) (x : Ctx) : (s.setCtx c x).routes = s.routes := rfl
@[simp] theorem State.setCtx_links (c : Nat) (x : Ctx) : (s.setCtx c x).links = s.links := rfl
@[simp] theorem State.setCtx_platform (c : Nat) (x : Ctx) : (s.setCtx c x).platform = s.platform := rfl
@[simp] theorem State.setCtx_hostRead (c : Nat) (x : Ctx) : (s.setCtx c x).hostRead = s.hostRead := rfl
@[simp] theorem State.setCtx_peerReply (c : Nat) (x : Ctx) : (s.setCtx c x).peerReply = s.peerReply := rfl
@[simp] theorem State.setCtx_inputs (c : Nat) (x : Ctx) : (s.setCtx c x).inputs = s.inputs := rfl
@[simp] theorem State.setCtx_issue (c : Nat) (x : Ctx) : (s.setCtx c x).issue = s.issue := rfl
@[simp] theorem State.setCtx_storeSeq (c : Nat) (x : Ctx) : (s.setCtx c x).storeSeq = s.storeSeq := rfl
@[simp] theorem State.setCtx_resultSeq (c : Nat) (x : Ctx) : (s.setCtx c x).resultSeq = s.resultSeq := rfl
@[simp] theorem State.setCtx_free (c : Nat) (x : Ctx) : (s.setCtx c x).free = s.free := rfl
theorem State.setCtx_ctxs (c : Nat) (x : Ctx) : (s.setCtx c x).ctxs = vset s.ctxs c x := rfl

/-! ## State.modCtx -/

@[simp] theorem State.modCtx_now (c : Nat) (f : Ctx → Ctx) : (s.modCtx c f).now = s.now := rfl
@[simp] theorem State.modCtx_coreNum (c : Nat) (f : Ctx → Ctx) : (s.modCtx c f).coreNum = s.coreNum := rfl
@[simp] theorem State.modCtx_mode (c : Nat) (f : Ctx → Ctx) : (s.modCtx c f).mode = s.mode := rfl
@[simp] theorem State.modCtx_lcores (c : Nat) (f : Ctx → Ctx) : (s.modCtx c f).lcores = s.lcores := rfl
@[simp] theorem State.modCtx_otherCores (c : Nat) (f : Ctx → Ctx) : (s.modCtx c f).otherCores = s.otherCores := rfl
@[simp] theorem State.modCtx_mem (c : Nat) (f : Ctx → Ctx) : (s.modCtx c f).mem = s.mem := rfl
@[simp] theorem State.modCtx_spad (c : Nat) (f : Ctx → Ctx) : (s.modCtx c f).spad = s.spad := rfl
@[simp] theorem State.modCtx_spad0 (c : Nat) (f : Ctx → Ctx) : (s.modCtx c f).spad0 = s.spad0 := rfl
@[simp] theorem State.modCtx_hostMem (c : Nat) (f : Ctx → Ctx) : (s.modCtx c f).hostMem = s.hostMem := rfl
@[simp] theorem State.modCtx_peerMem (c : Nat) (f : Ctx → Ctx) : (s.modCtx c f).peerMem = s.peerMem := rfl
@[simp] theorem State.modCtx_poisonG (c : Nat) (f : Ctx → Ctx) : (s.modCtx c f).poisonG = s.poisonG := rfl
@[simp] theorem State.modCtx_poisonS (c : Nat) (f : Ctx → Ctx) : (s.modCtx c f).poisonS = s.poisonS := rfl
@[simp] theorem State.modCtx_poisonS0 (c : Nat) (f : Ctx → Ctx) : (s.modCtx c f).poisonS0 = s.poisonS0 := rfl
@[simp] theorem State.modCtx_poisonP (c : Nat) (f : Ctx → Ctx) : (s.modCtx c f).poisonP = s.poisonP := rfl
@[simp] theorem State.modCtx_l1 (c : Nat) (f : Ctx → Ctx) : (s.modCtx c f).l1 = s.l1 := rfl
@[simp] theorem State.modCtx_icache (c : Nat) (f : Ctx → Ctx) : (s.modCtx c f).icache = s.icache := rfl
@[simp] theorem State.modCtx_iload (c : Nat) (f : Ctx → Ctx) : (s.modCtx c f).iload = s.iload := rfl
@[simp] theorem State.modCtx_tcache (c : Nat) (f : Ctx → Ctx) : (s.modCtx c f).tcache = s.tcache := rfl
@[simp] theorem State.modCtx_walks (c : Nat) (f : Ctx → Ctx) : (s.modCtx c f).walks = s.walks := rfl
@[simp] theorem State.modCtx_cal (c : Nat) (f : Ctx → Ctx) : (s.modCtx c f).cal = s.cal := rfl
@[simp] theorem State.modCtx_occ (c : Nat) (f : Ctx → Ctx) : (s.modCtx c f).occ = s.occ := rfl
@[simp] theorem State.modCtx_compactDue (c : Nat) (f : Ctx → Ctx) : (s.modCtx c f).compactDue = s.compactDue := rfl
@[simp] theorem State.modCtx_released (c : Nat) (f : Ctx → Ctx) : (s.modCtx c f).released = s.released := rfl
@[simp] theorem State.modCtx_denied (c : Nat) (f : Ctx → Ctx) : (s.modCtx c f).denied = s.denied := rfl
@[simp] theorem State.modCtx_ckRetryAt (c : Nat) (f : Ctx → Ctx) : (s.modCtx c f).ckRetryAt = s.ckRetryAt := rfl
@[simp] theorem State.modCtx_ckParks (c : Nat) (f : Ctx → Ctx) : (s.modCtx c f).ckParks = s.ckParks := rfl
@[simp] theorem State.modCtx_peerHeld (c : Nat) (f : Ctx → Ctx) : (s.modCtx c f).peerHeld = s.peerHeld := rfl
@[simp] theorem State.modCtx_queued0 (c : Nat) (f : Ctx → Ctx) : (s.modCtx c f).queued0 = s.queued0 := rfl
@[simp] theorem State.modCtx_searched (c : Nat) (f : Ctx → Ctx) : (s.modCtx c f).searched = s.searched := rfl
@[simp] theorem State.modCtx_strips (c : Nat) (f : Ctx → Ctx) : (s.modCtx c f).strips = s.strips := rfl
@[simp] theorem State.modCtx_chans (c : Nat) (f : Ctx → Ctx) : (s.modCtx c f).chans = s.chans := rfl
@[simp] theorem State.modCtx_landings (c : Nat) (f : Ctx → Ctx) : (s.modCtx c f).landings = s.landings := rfl
@[simp] theorem State.modCtx_sel (c : Nat) (f : Ctx → Ctx) : (s.modCtx c f).sel = s.sel := rfl
@[simp] theorem State.modCtx_ckp (c : Nat) (f : Ctx → Ctx) : (s.modCtx c f).ckp = s.ckp := rfl
@[simp] theorem State.modCtx_ckLand (c : Nat) (f : Ctx → Ctx) : (s.modCtx c f).ckLand = s.ckLand := rfl
@[simp] theorem State.modCtx_syn (c : Nat) (f : Ctx → Ctx) : (s.modCtx c f).syn = s.syn := rfl
@[simp] theorem State.modCtx_phasers (c : Nat) (f : Ctx → Ctx) : (s.modCtx c f).phasers = s.phasers := rfl
@[simp] theorem State.modCtx_phWaits (c : Nat) (f : Ctx → Ctx) : (s.modCtx c f).phWaits = s.phWaits := rfl
@[simp] theorem State.modCtx_members (c : Nat) (f : Ctx → Ctx) : (s.modCtx c f).members = s.members := rfl
@[simp] theorem State.modCtx_phNreg (c : Nat) (f : Ctx → Ctx) : (s.modCtx c f).phNreg = s.phNreg := rfl
@[simp] theorem State.modCtx_scopeOps (c : Nat) (f : Ctx → Ctx) : (s.modCtx c f).scopeOps = s.scopeOps := rfl
@[simp] theorem State.modCtx_rawAcc (c : Nat) (f : Ctx → Ctx) : (s.modCtx c f).rawAcc = s.rawAcc := rfl
@[simp] theorem State.modCtx_tenants (c : Nat) (f : Ctx → Ctx) : (s.modCtx c f).tenants = s.tenants := rfl
@[simp] theorem State.modCtx_dies (c : Nat) (f : Ctx → Ctx) : (s.modCtx c f).dies = s.dies := rfl
@[simp] theorem State.modCtx_pageOver (c : Nat) (f : Ctx → Ctx) : (s.modCtx c f).pageOver = s.pageOver := rfl
@[simp] theorem State.modCtx_tasks (c : Nat) (f : Ctx → Ctx) : (s.modCtx c f).tasks = s.tasks := rfl
@[simp] theorem State.modCtx_nextId (c : Nat) (f : Ctx → Ctx) : (s.modCtx c f).nextId = s.nextId := rfl
@[simp] theorem State.modCtx_replays (c : Nat) (f : Ctx → Ctx) : (s.modCtx c f).replays = s.replays := rfl
@[simp] theorem State.modCtx_images (c : Nat) (f : Ctx → Ctx) : (s.modCtx c f).images = s.images := rfl
@[simp] theorem State.modCtx_msgMasks (c : Nat) (f : Ctx → Ctx) : (s.modCtx c f).msgMasks = s.msgMasks := rfl
@[simp] theorem State.modCtx_slow (c : Nat) (f : Ctx → Ctx) : (s.modCtx c f).slow = s.slow := rfl
@[simp] theorem State.modCtx_routes (c : Nat) (f : Ctx → Ctx) : (s.modCtx c f).routes = s.routes := rfl
@[simp] theorem State.modCtx_links (c : Nat) (f : Ctx → Ctx) : (s.modCtx c f).links = s.links := rfl
@[simp] theorem State.modCtx_platform (c : Nat) (f : Ctx → Ctx) : (s.modCtx c f).platform = s.platform := rfl
@[simp] theorem State.modCtx_hostRead (c : Nat) (f : Ctx → Ctx) : (s.modCtx c f).hostRead = s.hostRead := rfl
@[simp] theorem State.modCtx_peerReply (c : Nat) (f : Ctx → Ctx) : (s.modCtx c f).peerReply = s.peerReply := rfl
@[simp] theorem State.modCtx_inputs (c : Nat) (f : Ctx → Ctx) : (s.modCtx c f).inputs = s.inputs := rfl
@[simp] theorem State.modCtx_issue (c : Nat) (f : Ctx → Ctx) : (s.modCtx c f).issue = s.issue := rfl
@[simp] theorem State.modCtx_storeSeq (c : Nat) (f : Ctx → Ctx) : (s.modCtx c f).storeSeq = s.storeSeq := rfl
@[simp] theorem State.modCtx_resultSeq (c : Nat) (f : Ctx → Ctx) : (s.modCtx c f).resultSeq = s.resultSeq := rfl
@[simp] theorem State.modCtx_free (c : Nat) (f : Ctx → Ctx) : (s.modCtx c f).free = s.free := rfl
theorem State.modCtx_ctxs (c : Nat) (f : Ctx → Ctx) : (s.modCtx c f).ctxs = vmod s.ctxs c f := rfl

/-! ## State.modTask -/

@[simp] theorem State.modTask_now (i : Nat) (f : Task → Task) : (s.modTask i f).now = s.now := rfl
@[simp] theorem State.modTask_coreNum (i : Nat) (f : Task → Task) : (s.modTask i f).coreNum = s.coreNum := rfl
@[simp] theorem State.modTask_mode (i : Nat) (f : Task → Task) : (s.modTask i f).mode = s.mode := rfl
@[simp] theorem State.modTask_lcores (i : Nat) (f : Task → Task) : (s.modTask i f).lcores = s.lcores := rfl
@[simp] theorem State.modTask_otherCores (i : Nat) (f : Task → Task) : (s.modTask i f).otherCores = s.otherCores := rfl
@[simp] theorem State.modTask_ctxs (i : Nat) (f : Task → Task) : (s.modTask i f).ctxs = s.ctxs := rfl
@[simp] theorem State.modTask_mem (i : Nat) (f : Task → Task) : (s.modTask i f).mem = s.mem := rfl
@[simp] theorem State.modTask_spad (i : Nat) (f : Task → Task) : (s.modTask i f).spad = s.spad := rfl
@[simp] theorem State.modTask_spad0 (i : Nat) (f : Task → Task) : (s.modTask i f).spad0 = s.spad0 := rfl
@[simp] theorem State.modTask_hostMem (i : Nat) (f : Task → Task) : (s.modTask i f).hostMem = s.hostMem := rfl
@[simp] theorem State.modTask_peerMem (i : Nat) (f : Task → Task) : (s.modTask i f).peerMem = s.peerMem := rfl
@[simp] theorem State.modTask_poisonG (i : Nat) (f : Task → Task) : (s.modTask i f).poisonG = s.poisonG := rfl
@[simp] theorem State.modTask_poisonS (i : Nat) (f : Task → Task) : (s.modTask i f).poisonS = s.poisonS := rfl
@[simp] theorem State.modTask_poisonS0 (i : Nat) (f : Task → Task) : (s.modTask i f).poisonS0 = s.poisonS0 := rfl
@[simp] theorem State.modTask_poisonP (i : Nat) (f : Task → Task) : (s.modTask i f).poisonP = s.poisonP := rfl
@[simp] theorem State.modTask_l1 (i : Nat) (f : Task → Task) : (s.modTask i f).l1 = s.l1 := rfl
@[simp] theorem State.modTask_icache (i : Nat) (f : Task → Task) : (s.modTask i f).icache = s.icache := rfl
@[simp] theorem State.modTask_iload (i : Nat) (f : Task → Task) : (s.modTask i f).iload = s.iload := rfl
@[simp] theorem State.modTask_tcache (i : Nat) (f : Task → Task) : (s.modTask i f).tcache = s.tcache := rfl
@[simp] theorem State.modTask_walks (i : Nat) (f : Task → Task) : (s.modTask i f).walks = s.walks := rfl
@[simp] theorem State.modTask_cal (i : Nat) (f : Task → Task) : (s.modTask i f).cal = s.cal := rfl
@[simp] theorem State.modTask_occ (i : Nat) (f : Task → Task) : (s.modTask i f).occ = s.occ := rfl
@[simp] theorem State.modTask_compactDue (i : Nat) (f : Task → Task) : (s.modTask i f).compactDue = s.compactDue := rfl
@[simp] theorem State.modTask_released (i : Nat) (f : Task → Task) : (s.modTask i f).released = s.released := rfl
@[simp] theorem State.modTask_denied (i : Nat) (f : Task → Task) : (s.modTask i f).denied = s.denied := rfl
@[simp] theorem State.modTask_ckRetryAt (i : Nat) (f : Task → Task) : (s.modTask i f).ckRetryAt = s.ckRetryAt := rfl
@[simp] theorem State.modTask_ckParks (i : Nat) (f : Task → Task) : (s.modTask i f).ckParks = s.ckParks := rfl
@[simp] theorem State.modTask_peerHeld (i : Nat) (f : Task → Task) : (s.modTask i f).peerHeld = s.peerHeld := rfl
@[simp] theorem State.modTask_queued0 (i : Nat) (f : Task → Task) : (s.modTask i f).queued0 = s.queued0 := rfl
@[simp] theorem State.modTask_searched (i : Nat) (f : Task → Task) : (s.modTask i f).searched = s.searched := rfl
@[simp] theorem State.modTask_strips (i : Nat) (f : Task → Task) : (s.modTask i f).strips = s.strips := rfl
@[simp] theorem State.modTask_chans (i : Nat) (f : Task → Task) : (s.modTask i f).chans = s.chans := rfl
@[simp] theorem State.modTask_landings (i : Nat) (f : Task → Task) : (s.modTask i f).landings = s.landings := rfl
@[simp] theorem State.modTask_sel (i : Nat) (f : Task → Task) : (s.modTask i f).sel = s.sel := rfl
@[simp] theorem State.modTask_ckp (i : Nat) (f : Task → Task) : (s.modTask i f).ckp = s.ckp := rfl
@[simp] theorem State.modTask_ckLand (i : Nat) (f : Task → Task) : (s.modTask i f).ckLand = s.ckLand := rfl
@[simp] theorem State.modTask_syn (i : Nat) (f : Task → Task) : (s.modTask i f).syn = s.syn := rfl
@[simp] theorem State.modTask_phasers (i : Nat) (f : Task → Task) : (s.modTask i f).phasers = s.phasers := rfl
@[simp] theorem State.modTask_phWaits (i : Nat) (f : Task → Task) : (s.modTask i f).phWaits = s.phWaits := rfl
@[simp] theorem State.modTask_members (i : Nat) (f : Task → Task) : (s.modTask i f).members = s.members := rfl
@[simp] theorem State.modTask_phNreg (i : Nat) (f : Task → Task) : (s.modTask i f).phNreg = s.phNreg := rfl
@[simp] theorem State.modTask_scopeOps (i : Nat) (f : Task → Task) : (s.modTask i f).scopeOps = s.scopeOps := rfl
@[simp] theorem State.modTask_rawAcc (i : Nat) (f : Task → Task) : (s.modTask i f).rawAcc = s.rawAcc := rfl
@[simp] theorem State.modTask_tenants (i : Nat) (f : Task → Task) : (s.modTask i f).tenants = s.tenants := rfl
@[simp] theorem State.modTask_dies (i : Nat) (f : Task → Task) : (s.modTask i f).dies = s.dies := rfl
@[simp] theorem State.modTask_pageOver (i : Nat) (f : Task → Task) : (s.modTask i f).pageOver = s.pageOver := rfl
@[simp] theorem State.modTask_nextId (i : Nat) (f : Task → Task) : (s.modTask i f).nextId = s.nextId := rfl
@[simp] theorem State.modTask_replays (i : Nat) (f : Task → Task) : (s.modTask i f).replays = s.replays := rfl
@[simp] theorem State.modTask_images (i : Nat) (f : Task → Task) : (s.modTask i f).images = s.images := rfl
@[simp] theorem State.modTask_msgMasks (i : Nat) (f : Task → Task) : (s.modTask i f).msgMasks = s.msgMasks := rfl
@[simp] theorem State.modTask_slow (i : Nat) (f : Task → Task) : (s.modTask i f).slow = s.slow := rfl
@[simp] theorem State.modTask_routes (i : Nat) (f : Task → Task) : (s.modTask i f).routes = s.routes := rfl
@[simp] theorem State.modTask_links (i : Nat) (f : Task → Task) : (s.modTask i f).links = s.links := rfl
@[simp] theorem State.modTask_platform (i : Nat) (f : Task → Task) : (s.modTask i f).platform = s.platform := rfl
@[simp] theorem State.modTask_hostRead (i : Nat) (f : Task → Task) : (s.modTask i f).hostRead = s.hostRead := rfl
@[simp] theorem State.modTask_peerReply (i : Nat) (f : Task → Task) : (s.modTask i f).peerReply = s.peerReply := rfl
@[simp] theorem State.modTask_inputs (i : Nat) (f : Task → Task) : (s.modTask i f).inputs = s.inputs := rfl
@[simp] theorem State.modTask_issue (i : Nat) (f : Task → Task) : (s.modTask i f).issue = s.issue := rfl
@[simp] theorem State.modTask_storeSeq (i : Nat) (f : Task → Task) : (s.modTask i f).storeSeq = s.storeSeq := rfl
@[simp] theorem State.modTask_resultSeq (i : Nat) (f : Task → Task) : (s.modTask i f).resultSeq = s.resultSeq := rfl
@[simp] theorem State.modTask_free (i : Nat) (f : Task → Task) : (s.modTask i f).free = s.free := rfl

/-! ## State.modTenant -/

@[simp] theorem State.modTenant_now (t : Nat) (f : Tenant → Tenant) : (s.modTenant t f).now = s.now := rfl
@[simp] theorem State.modTenant_coreNum (t : Nat) (f : Tenant → Tenant) : (s.modTenant t f).coreNum = s.coreNum := rfl
@[simp] theorem State.modTenant_mode (t : Nat) (f : Tenant → Tenant) : (s.modTenant t f).mode = s.mode := rfl
@[simp] theorem State.modTenant_lcores (t : Nat) (f : Tenant → Tenant) : (s.modTenant t f).lcores = s.lcores := rfl
@[simp] theorem State.modTenant_otherCores (t : Nat) (f : Tenant → Tenant) : (s.modTenant t f).otherCores = s.otherCores := rfl
@[simp] theorem State.modTenant_ctxs (t : Nat) (f : Tenant → Tenant) : (s.modTenant t f).ctxs = s.ctxs := rfl
@[simp] theorem State.modTenant_mem (t : Nat) (f : Tenant → Tenant) : (s.modTenant t f).mem = s.mem := rfl
@[simp] theorem State.modTenant_spad (t : Nat) (f : Tenant → Tenant) : (s.modTenant t f).spad = s.spad := rfl
@[simp] theorem State.modTenant_spad0 (t : Nat) (f : Tenant → Tenant) : (s.modTenant t f).spad0 = s.spad0 := rfl
@[simp] theorem State.modTenant_hostMem (t : Nat) (f : Tenant → Tenant) : (s.modTenant t f).hostMem = s.hostMem := rfl
@[simp] theorem State.modTenant_peerMem (t : Nat) (f : Tenant → Tenant) : (s.modTenant t f).peerMem = s.peerMem := rfl
@[simp] theorem State.modTenant_poisonG (t : Nat) (f : Tenant → Tenant) : (s.modTenant t f).poisonG = s.poisonG := rfl
@[simp] theorem State.modTenant_poisonS (t : Nat) (f : Tenant → Tenant) : (s.modTenant t f).poisonS = s.poisonS := rfl
@[simp] theorem State.modTenant_poisonS0 (t : Nat) (f : Tenant → Tenant) : (s.modTenant t f).poisonS0 = s.poisonS0 := rfl
@[simp] theorem State.modTenant_poisonP (t : Nat) (f : Tenant → Tenant) : (s.modTenant t f).poisonP = s.poisonP := rfl
@[simp] theorem State.modTenant_l1 (t : Nat) (f : Tenant → Tenant) : (s.modTenant t f).l1 = s.l1 := rfl
@[simp] theorem State.modTenant_icache (t : Nat) (f : Tenant → Tenant) : (s.modTenant t f).icache = s.icache := rfl
@[simp] theorem State.modTenant_iload (t : Nat) (f : Tenant → Tenant) : (s.modTenant t f).iload = s.iload := rfl
@[simp] theorem State.modTenant_tcache (t : Nat) (f : Tenant → Tenant) : (s.modTenant t f).tcache = s.tcache := rfl
@[simp] theorem State.modTenant_walks (t : Nat) (f : Tenant → Tenant) : (s.modTenant t f).walks = s.walks := rfl
@[simp] theorem State.modTenant_cal (t : Nat) (f : Tenant → Tenant) : (s.modTenant t f).cal = s.cal := rfl
@[simp] theorem State.modTenant_occ (t : Nat) (f : Tenant → Tenant) : (s.modTenant t f).occ = s.occ := rfl
@[simp] theorem State.modTenant_compactDue (t : Nat) (f : Tenant → Tenant) : (s.modTenant t f).compactDue = s.compactDue := rfl
@[simp] theorem State.modTenant_released (t : Nat) (f : Tenant → Tenant) : (s.modTenant t f).released = s.released := rfl
@[simp] theorem State.modTenant_denied (t : Nat) (f : Tenant → Tenant) : (s.modTenant t f).denied = s.denied := rfl
@[simp] theorem State.modTenant_ckRetryAt (t : Nat) (f : Tenant → Tenant) : (s.modTenant t f).ckRetryAt = s.ckRetryAt := rfl
@[simp] theorem State.modTenant_ckParks (t : Nat) (f : Tenant → Tenant) : (s.modTenant t f).ckParks = s.ckParks := rfl
@[simp] theorem State.modTenant_peerHeld (t : Nat) (f : Tenant → Tenant) : (s.modTenant t f).peerHeld = s.peerHeld := rfl
@[simp] theorem State.modTenant_queued0 (t : Nat) (f : Tenant → Tenant) : (s.modTenant t f).queued0 = s.queued0 := rfl
@[simp] theorem State.modTenant_searched (t : Nat) (f : Tenant → Tenant) : (s.modTenant t f).searched = s.searched := rfl
@[simp] theorem State.modTenant_strips (t : Nat) (f : Tenant → Tenant) : (s.modTenant t f).strips = s.strips := rfl
@[simp] theorem State.modTenant_chans (t : Nat) (f : Tenant → Tenant) : (s.modTenant t f).chans = s.chans := rfl
@[simp] theorem State.modTenant_landings (t : Nat) (f : Tenant → Tenant) : (s.modTenant t f).landings = s.landings := rfl
@[simp] theorem State.modTenant_sel (t : Nat) (f : Tenant → Tenant) : (s.modTenant t f).sel = s.sel := rfl
@[simp] theorem State.modTenant_ckp (t : Nat) (f : Tenant → Tenant) : (s.modTenant t f).ckp = s.ckp := rfl
@[simp] theorem State.modTenant_ckLand (t : Nat) (f : Tenant → Tenant) : (s.modTenant t f).ckLand = s.ckLand := rfl
@[simp] theorem State.modTenant_syn (t : Nat) (f : Tenant → Tenant) : (s.modTenant t f).syn = s.syn := rfl
@[simp] theorem State.modTenant_phasers (t : Nat) (f : Tenant → Tenant) : (s.modTenant t f).phasers = s.phasers := rfl
@[simp] theorem State.modTenant_phWaits (t : Nat) (f : Tenant → Tenant) : (s.modTenant t f).phWaits = s.phWaits := rfl
@[simp] theorem State.modTenant_members (t : Nat) (f : Tenant → Tenant) : (s.modTenant t f).members = s.members := rfl
@[simp] theorem State.modTenant_phNreg (t : Nat) (f : Tenant → Tenant) : (s.modTenant t f).phNreg = s.phNreg := rfl
@[simp] theorem State.modTenant_scopeOps (t : Nat) (f : Tenant → Tenant) : (s.modTenant t f).scopeOps = s.scopeOps := rfl
@[simp] theorem State.modTenant_rawAcc (t : Nat) (f : Tenant → Tenant) : (s.modTenant t f).rawAcc = s.rawAcc := rfl
@[simp] theorem State.modTenant_dies (t : Nat) (f : Tenant → Tenant) : (s.modTenant t f).dies = s.dies := rfl
@[simp] theorem State.modTenant_pageOver (t : Nat) (f : Tenant → Tenant) : (s.modTenant t f).pageOver = s.pageOver := rfl
@[simp] theorem State.modTenant_tasks (t : Nat) (f : Tenant → Tenant) : (s.modTenant t f).tasks = s.tasks := rfl
@[simp] theorem State.modTenant_nextId (t : Nat) (f : Tenant → Tenant) : (s.modTenant t f).nextId = s.nextId := rfl
@[simp] theorem State.modTenant_replays (t : Nat) (f : Tenant → Tenant) : (s.modTenant t f).replays = s.replays := rfl
@[simp] theorem State.modTenant_images (t : Nat) (f : Tenant → Tenant) : (s.modTenant t f).images = s.images := rfl
@[simp] theorem State.modTenant_msgMasks (t : Nat) (f : Tenant → Tenant) : (s.modTenant t f).msgMasks = s.msgMasks := rfl
@[simp] theorem State.modTenant_slow (t : Nat) (f : Tenant → Tenant) : (s.modTenant t f).slow = s.slow := rfl
@[simp] theorem State.modTenant_routes (t : Nat) (f : Tenant → Tenant) : (s.modTenant t f).routes = s.routes := rfl
@[simp] theorem State.modTenant_links (t : Nat) (f : Tenant → Tenant) : (s.modTenant t f).links = s.links := rfl
@[simp] theorem State.modTenant_platform (t : Nat) (f : Tenant → Tenant) : (s.modTenant t f).platform = s.platform := rfl
@[simp] theorem State.modTenant_hostRead (t : Nat) (f : Tenant → Tenant) : (s.modTenant t f).hostRead = s.hostRead := rfl
@[simp] theorem State.modTenant_peerReply (t : Nat) (f : Tenant → Tenant) : (s.modTenant t f).peerReply = s.peerReply := rfl
@[simp] theorem State.modTenant_inputs (t : Nat) (f : Tenant → Tenant) : (s.modTenant t f).inputs = s.inputs := rfl
@[simp] theorem State.modTenant_issue (t : Nat) (f : Tenant → Tenant) : (s.modTenant t f).issue = s.issue := rfl
@[simp] theorem State.modTenant_storeSeq (t : Nat) (f : Tenant → Tenant) : (s.modTenant t f).storeSeq = s.storeSeq := rfl
@[simp] theorem State.modTenant_resultSeq (t : Nat) (f : Tenant → Tenant) : (s.modTenant t f).resultSeq = s.resultSeq := rfl
@[simp] theorem State.modTenant_free (t : Nat) (f : Tenant → Tenant) : (s.modTenant t f).free = s.free := rfl
theorem State.modTenant_tenants (t : Nat) (f : Tenant → Tenant) : (s.modTenant t f).tenants = vmod s.tenants t f := rfl

/-! ## State.modDie -/

@[simp] theorem State.modDie_now (d : Nat) (f : Die → Die) : (s.modDie d f).now = s.now := rfl
@[simp] theorem State.modDie_coreNum (d : Nat) (f : Die → Die) : (s.modDie d f).coreNum = s.coreNum := rfl
@[simp] theorem State.modDie_mode (d : Nat) (f : Die → Die) : (s.modDie d f).mode = s.mode := rfl
@[simp] theorem State.modDie_lcores (d : Nat) (f : Die → Die) : (s.modDie d f).lcores = s.lcores := rfl
@[simp] theorem State.modDie_otherCores (d : Nat) (f : Die → Die) : (s.modDie d f).otherCores = s.otherCores := rfl
@[simp] theorem State.modDie_ctxs (d : Nat) (f : Die → Die) : (s.modDie d f).ctxs = s.ctxs := rfl
@[simp] theorem State.modDie_mem (d : Nat) (f : Die → Die) : (s.modDie d f).mem = s.mem := rfl
@[simp] theorem State.modDie_spad (d : Nat) (f : Die → Die) : (s.modDie d f).spad = s.spad := rfl
@[simp] theorem State.modDie_spad0 (d : Nat) (f : Die → Die) : (s.modDie d f).spad0 = s.spad0 := rfl
@[simp] theorem State.modDie_hostMem (d : Nat) (f : Die → Die) : (s.modDie d f).hostMem = s.hostMem := rfl
@[simp] theorem State.modDie_peerMem (d : Nat) (f : Die → Die) : (s.modDie d f).peerMem = s.peerMem := rfl
@[simp] theorem State.modDie_poisonG (d : Nat) (f : Die → Die) : (s.modDie d f).poisonG = s.poisonG := rfl
@[simp] theorem State.modDie_poisonS (d : Nat) (f : Die → Die) : (s.modDie d f).poisonS = s.poisonS := rfl
@[simp] theorem State.modDie_poisonS0 (d : Nat) (f : Die → Die) : (s.modDie d f).poisonS0 = s.poisonS0 := rfl
@[simp] theorem State.modDie_poisonP (d : Nat) (f : Die → Die) : (s.modDie d f).poisonP = s.poisonP := rfl
@[simp] theorem State.modDie_l1 (d : Nat) (f : Die → Die) : (s.modDie d f).l1 = s.l1 := rfl
@[simp] theorem State.modDie_icache (d : Nat) (f : Die → Die) : (s.modDie d f).icache = s.icache := rfl
@[simp] theorem State.modDie_iload (d : Nat) (f : Die → Die) : (s.modDie d f).iload = s.iload := rfl
@[simp] theorem State.modDie_tcache (d : Nat) (f : Die → Die) : (s.modDie d f).tcache = s.tcache := rfl
@[simp] theorem State.modDie_walks (d : Nat) (f : Die → Die) : (s.modDie d f).walks = s.walks := rfl
@[simp] theorem State.modDie_cal (d : Nat) (f : Die → Die) : (s.modDie d f).cal = s.cal := rfl
@[simp] theorem State.modDie_occ (d : Nat) (f : Die → Die) : (s.modDie d f).occ = s.occ := rfl
@[simp] theorem State.modDie_compactDue (d : Nat) (f : Die → Die) : (s.modDie d f).compactDue = s.compactDue := rfl
@[simp] theorem State.modDie_released (d : Nat) (f : Die → Die) : (s.modDie d f).released = s.released := rfl
@[simp] theorem State.modDie_denied (d : Nat) (f : Die → Die) : (s.modDie d f).denied = s.denied := rfl
@[simp] theorem State.modDie_ckRetryAt (d : Nat) (f : Die → Die) : (s.modDie d f).ckRetryAt = s.ckRetryAt := rfl
@[simp] theorem State.modDie_ckParks (d : Nat) (f : Die → Die) : (s.modDie d f).ckParks = s.ckParks := rfl
@[simp] theorem State.modDie_peerHeld (d : Nat) (f : Die → Die) : (s.modDie d f).peerHeld = s.peerHeld := rfl
@[simp] theorem State.modDie_queued0 (d : Nat) (f : Die → Die) : (s.modDie d f).queued0 = s.queued0 := rfl
@[simp] theorem State.modDie_searched (d : Nat) (f : Die → Die) : (s.modDie d f).searched = s.searched := rfl
@[simp] theorem State.modDie_strips (d : Nat) (f : Die → Die) : (s.modDie d f).strips = s.strips := rfl
@[simp] theorem State.modDie_chans (d : Nat) (f : Die → Die) : (s.modDie d f).chans = s.chans := rfl
@[simp] theorem State.modDie_landings (d : Nat) (f : Die → Die) : (s.modDie d f).landings = s.landings := rfl
@[simp] theorem State.modDie_sel (d : Nat) (f : Die → Die) : (s.modDie d f).sel = s.sel := rfl
@[simp] theorem State.modDie_ckp (d : Nat) (f : Die → Die) : (s.modDie d f).ckp = s.ckp := rfl
@[simp] theorem State.modDie_ckLand (d : Nat) (f : Die → Die) : (s.modDie d f).ckLand = s.ckLand := rfl
@[simp] theorem State.modDie_syn (d : Nat) (f : Die → Die) : (s.modDie d f).syn = s.syn := rfl
@[simp] theorem State.modDie_phasers (d : Nat) (f : Die → Die) : (s.modDie d f).phasers = s.phasers := rfl
@[simp] theorem State.modDie_phWaits (d : Nat) (f : Die → Die) : (s.modDie d f).phWaits = s.phWaits := rfl
@[simp] theorem State.modDie_members (d : Nat) (f : Die → Die) : (s.modDie d f).members = s.members := rfl
@[simp] theorem State.modDie_phNreg (d : Nat) (f : Die → Die) : (s.modDie d f).phNreg = s.phNreg := rfl
@[simp] theorem State.modDie_scopeOps (d : Nat) (f : Die → Die) : (s.modDie d f).scopeOps = s.scopeOps := rfl
@[simp] theorem State.modDie_rawAcc (d : Nat) (f : Die → Die) : (s.modDie d f).rawAcc = s.rawAcc := rfl
@[simp] theorem State.modDie_tenants (d : Nat) (f : Die → Die) : (s.modDie d f).tenants = s.tenants := rfl
@[simp] theorem State.modDie_pageOver (d : Nat) (f : Die → Die) : (s.modDie d f).pageOver = s.pageOver := rfl
@[simp] theorem State.modDie_tasks (d : Nat) (f : Die → Die) : (s.modDie d f).tasks = s.tasks := rfl
@[simp] theorem State.modDie_nextId (d : Nat) (f : Die → Die) : (s.modDie d f).nextId = s.nextId := rfl
@[simp] theorem State.modDie_replays (d : Nat) (f : Die → Die) : (s.modDie d f).replays = s.replays := rfl
@[simp] theorem State.modDie_images (d : Nat) (f : Die → Die) : (s.modDie d f).images = s.images := rfl
@[simp] theorem State.modDie_msgMasks (d : Nat) (f : Die → Die) : (s.modDie d f).msgMasks = s.msgMasks := rfl
@[simp] theorem State.modDie_slow (d : Nat) (f : Die → Die) : (s.modDie d f).slow = s.slow := rfl
@[simp] theorem State.modDie_routes (d : Nat) (f : Die → Die) : (s.modDie d f).routes = s.routes := rfl
@[simp] theorem State.modDie_links (d : Nat) (f : Die → Die) : (s.modDie d f).links = s.links := rfl
@[simp] theorem State.modDie_platform (d : Nat) (f : Die → Die) : (s.modDie d f).platform = s.platform := rfl
@[simp] theorem State.modDie_hostRead (d : Nat) (f : Die → Die) : (s.modDie d f).hostRead = s.hostRead := rfl
@[simp] theorem State.modDie_peerReply (d : Nat) (f : Die → Die) : (s.modDie d f).peerReply = s.peerReply := rfl
@[simp] theorem State.modDie_inputs (d : Nat) (f : Die → Die) : (s.modDie d f).inputs = s.inputs := rfl
@[simp] theorem State.modDie_issue (d : Nat) (f : Die → Die) : (s.modDie d f).issue = s.issue := rfl
@[simp] theorem State.modDie_storeSeq (d : Nat) (f : Die → Die) : (s.modDie d f).storeSeq = s.storeSeq := rfl
@[simp] theorem State.modDie_resultSeq (d : Nat) (f : Die → Die) : (s.modDie d f).resultSeq = s.resultSeq := rfl
@[simp] theorem State.modDie_free (d : Nat) (f : Die → Die) : (s.modDie d f).free = s.free := rfl
theorem State.modDie_dies (d : Nat) (f : Die → Die) : (s.modDie d f).dies = vmod s.dies d f := rfl

/-! ## State.raiseEvent -/

@[simp] theorem State.raiseEvent_now (d : Nat) (e : Event) : (s.raiseEvent d e).now = s.now := rfl
@[simp] theorem State.raiseEvent_coreNum (d : Nat) (e : Event) : (s.raiseEvent d e).coreNum = s.coreNum := rfl
@[simp] theorem State.raiseEvent_mode (d : Nat) (e : Event) : (s.raiseEvent d e).mode = s.mode := rfl
@[simp] theorem State.raiseEvent_lcores (d : Nat) (e : Event) : (s.raiseEvent d e).lcores = s.lcores := rfl
@[simp] theorem State.raiseEvent_otherCores (d : Nat) (e : Event) : (s.raiseEvent d e).otherCores = s.otherCores := rfl
@[simp] theorem State.raiseEvent_ctxs (d : Nat) (e : Event) : (s.raiseEvent d e).ctxs = s.ctxs := rfl
@[simp] theorem State.raiseEvent_mem (d : Nat) (e : Event) : (s.raiseEvent d e).mem = s.mem := rfl
@[simp] theorem State.raiseEvent_spad (d : Nat) (e : Event) : (s.raiseEvent d e).spad = s.spad := rfl
@[simp] theorem State.raiseEvent_spad0 (d : Nat) (e : Event) : (s.raiseEvent d e).spad0 = s.spad0 := rfl
@[simp] theorem State.raiseEvent_hostMem (d : Nat) (e : Event) : (s.raiseEvent d e).hostMem = s.hostMem := rfl
@[simp] theorem State.raiseEvent_peerMem (d : Nat) (e : Event) : (s.raiseEvent d e).peerMem = s.peerMem := rfl
@[simp] theorem State.raiseEvent_poisonG (d : Nat) (e : Event) : (s.raiseEvent d e).poisonG = s.poisonG := rfl
@[simp] theorem State.raiseEvent_poisonS (d : Nat) (e : Event) : (s.raiseEvent d e).poisonS = s.poisonS := rfl
@[simp] theorem State.raiseEvent_poisonS0 (d : Nat) (e : Event) : (s.raiseEvent d e).poisonS0 = s.poisonS0 := rfl
@[simp] theorem State.raiseEvent_poisonP (d : Nat) (e : Event) : (s.raiseEvent d e).poisonP = s.poisonP := rfl
@[simp] theorem State.raiseEvent_l1 (d : Nat) (e : Event) : (s.raiseEvent d e).l1 = s.l1 := rfl
@[simp] theorem State.raiseEvent_icache (d : Nat) (e : Event) : (s.raiseEvent d e).icache = s.icache := rfl
@[simp] theorem State.raiseEvent_iload (d : Nat) (e : Event) : (s.raiseEvent d e).iload = s.iload := rfl
@[simp] theorem State.raiseEvent_tcache (d : Nat) (e : Event) : (s.raiseEvent d e).tcache = s.tcache := rfl
@[simp] theorem State.raiseEvent_walks (d : Nat) (e : Event) : (s.raiseEvent d e).walks = s.walks := rfl
@[simp] theorem State.raiseEvent_cal (d : Nat) (e : Event) : (s.raiseEvent d e).cal = s.cal := rfl
@[simp] theorem State.raiseEvent_occ (d : Nat) (e : Event) : (s.raiseEvent d e).occ = s.occ := rfl
@[simp] theorem State.raiseEvent_compactDue (d : Nat) (e : Event) : (s.raiseEvent d e).compactDue = s.compactDue := rfl
@[simp] theorem State.raiseEvent_released (d : Nat) (e : Event) : (s.raiseEvent d e).released = s.released := rfl
@[simp] theorem State.raiseEvent_denied (d : Nat) (e : Event) : (s.raiseEvent d e).denied = s.denied := rfl
@[simp] theorem State.raiseEvent_ckRetryAt (d : Nat) (e : Event) : (s.raiseEvent d e).ckRetryAt = s.ckRetryAt := rfl
@[simp] theorem State.raiseEvent_ckParks (d : Nat) (e : Event) : (s.raiseEvent d e).ckParks = s.ckParks := rfl
@[simp] theorem State.raiseEvent_peerHeld (d : Nat) (e : Event) : (s.raiseEvent d e).peerHeld = s.peerHeld := rfl
@[simp] theorem State.raiseEvent_queued0 (d : Nat) (e : Event) : (s.raiseEvent d e).queued0 = s.queued0 := rfl
@[simp] theorem State.raiseEvent_searched (d : Nat) (e : Event) : (s.raiseEvent d e).searched = s.searched := rfl
@[simp] theorem State.raiseEvent_strips (d : Nat) (e : Event) : (s.raiseEvent d e).strips = s.strips := rfl
@[simp] theorem State.raiseEvent_chans (d : Nat) (e : Event) : (s.raiseEvent d e).chans = s.chans := rfl
@[simp] theorem State.raiseEvent_landings (d : Nat) (e : Event) : (s.raiseEvent d e).landings = s.landings := rfl
@[simp] theorem State.raiseEvent_sel (d : Nat) (e : Event) : (s.raiseEvent d e).sel = s.sel := rfl
@[simp] theorem State.raiseEvent_ckp (d : Nat) (e : Event) : (s.raiseEvent d e).ckp = s.ckp := rfl
@[simp] theorem State.raiseEvent_ckLand (d : Nat) (e : Event) : (s.raiseEvent d e).ckLand = s.ckLand := rfl
@[simp] theorem State.raiseEvent_syn (d : Nat) (e : Event) : (s.raiseEvent d e).syn = s.syn := rfl
@[simp] theorem State.raiseEvent_phasers (d : Nat) (e : Event) : (s.raiseEvent d e).phasers = s.phasers := rfl
@[simp] theorem State.raiseEvent_phWaits (d : Nat) (e : Event) : (s.raiseEvent d e).phWaits = s.phWaits := rfl
@[simp] theorem State.raiseEvent_members (d : Nat) (e : Event) : (s.raiseEvent d e).members = s.members := rfl
@[simp] theorem State.raiseEvent_phNreg (d : Nat) (e : Event) : (s.raiseEvent d e).phNreg = s.phNreg := rfl
@[simp] theorem State.raiseEvent_scopeOps (d : Nat) (e : Event) : (s.raiseEvent d e).scopeOps = s.scopeOps := rfl
@[simp] theorem State.raiseEvent_rawAcc (d : Nat) (e : Event) : (s.raiseEvent d e).rawAcc = s.rawAcc := rfl
@[simp] theorem State.raiseEvent_tenants (d : Nat) (e : Event) : (s.raiseEvent d e).tenants = s.tenants := rfl
@[simp] theorem State.raiseEvent_pageOver (d : Nat) (e : Event) : (s.raiseEvent d e).pageOver = s.pageOver := rfl
@[simp] theorem State.raiseEvent_tasks (d : Nat) (e : Event) : (s.raiseEvent d e).tasks = s.tasks := rfl
@[simp] theorem State.raiseEvent_nextId (d : Nat) (e : Event) : (s.raiseEvent d e).nextId = s.nextId := rfl
@[simp] theorem State.raiseEvent_replays (d : Nat) (e : Event) : (s.raiseEvent d e).replays = s.replays := rfl
@[simp] theorem State.raiseEvent_images (d : Nat) (e : Event) : (s.raiseEvent d e).images = s.images := rfl
@[simp] theorem State.raiseEvent_msgMasks (d : Nat) (e : Event) : (s.raiseEvent d e).msgMasks = s.msgMasks := rfl
@[simp] theorem State.raiseEvent_slow (d : Nat) (e : Event) : (s.raiseEvent d e).slow = s.slow := rfl
@[simp] theorem State.raiseEvent_routes (d : Nat) (e : Event) : (s.raiseEvent d e).routes = s.routes := rfl
@[simp] theorem State.raiseEvent_links (d : Nat) (e : Event) : (s.raiseEvent d e).links = s.links := rfl
@[simp] theorem State.raiseEvent_platform (d : Nat) (e : Event) : (s.raiseEvent d e).platform = s.platform := rfl
@[simp] theorem State.raiseEvent_hostRead (d : Nat) (e : Event) : (s.raiseEvent d e).hostRead = s.hostRead := rfl
@[simp] theorem State.raiseEvent_peerReply (d : Nat) (e : Event) : (s.raiseEvent d e).peerReply = s.peerReply := rfl
@[simp] theorem State.raiseEvent_inputs (d : Nat) (e : Event) : (s.raiseEvent d e).inputs = s.inputs := rfl
@[simp] theorem State.raiseEvent_issue (d : Nat) (e : Event) : (s.raiseEvent d e).issue = s.issue := rfl
@[simp] theorem State.raiseEvent_storeSeq (d : Nat) (e : Event) : (s.raiseEvent d e).storeSeq = s.storeSeq := rfl
@[simp] theorem State.raiseEvent_resultSeq (d : Nat) (e : Event) : (s.raiseEvent d e).resultSeq = s.resultSeq := rfl
@[simp] theorem State.raiseEvent_free (d : Nat) (e : Event) : (s.raiseEvent d e).free = s.free := rfl

/-! ## State.modStrip -/

@[simp] theorem State.modStrip_now (j : Nat) (f : Strip → Strip) : (s.modStrip j f).now = s.now := rfl
@[simp] theorem State.modStrip_coreNum (j : Nat) (f : Strip → Strip) : (s.modStrip j f).coreNum = s.coreNum := rfl
@[simp] theorem State.modStrip_mode (j : Nat) (f : Strip → Strip) : (s.modStrip j f).mode = s.mode := rfl
@[simp] theorem State.modStrip_lcores (j : Nat) (f : Strip → Strip) : (s.modStrip j f).lcores = s.lcores := rfl
@[simp] theorem State.modStrip_otherCores (j : Nat) (f : Strip → Strip) : (s.modStrip j f).otherCores = s.otherCores := rfl
@[simp] theorem State.modStrip_ctxs (j : Nat) (f : Strip → Strip) : (s.modStrip j f).ctxs = s.ctxs := rfl
@[simp] theorem State.modStrip_mem (j : Nat) (f : Strip → Strip) : (s.modStrip j f).mem = s.mem := rfl
@[simp] theorem State.modStrip_spad (j : Nat) (f : Strip → Strip) : (s.modStrip j f).spad = s.spad := rfl
@[simp] theorem State.modStrip_spad0 (j : Nat) (f : Strip → Strip) : (s.modStrip j f).spad0 = s.spad0 := rfl
@[simp] theorem State.modStrip_hostMem (j : Nat) (f : Strip → Strip) : (s.modStrip j f).hostMem = s.hostMem := rfl
@[simp] theorem State.modStrip_peerMem (j : Nat) (f : Strip → Strip) : (s.modStrip j f).peerMem = s.peerMem := rfl
@[simp] theorem State.modStrip_poisonG (j : Nat) (f : Strip → Strip) : (s.modStrip j f).poisonG = s.poisonG := rfl
@[simp] theorem State.modStrip_poisonS (j : Nat) (f : Strip → Strip) : (s.modStrip j f).poisonS = s.poisonS := rfl
@[simp] theorem State.modStrip_poisonS0 (j : Nat) (f : Strip → Strip) : (s.modStrip j f).poisonS0 = s.poisonS0 := rfl
@[simp] theorem State.modStrip_poisonP (j : Nat) (f : Strip → Strip) : (s.modStrip j f).poisonP = s.poisonP := rfl
@[simp] theorem State.modStrip_l1 (j : Nat) (f : Strip → Strip) : (s.modStrip j f).l1 = s.l1 := rfl
@[simp] theorem State.modStrip_icache (j : Nat) (f : Strip → Strip) : (s.modStrip j f).icache = s.icache := rfl
@[simp] theorem State.modStrip_iload (j : Nat) (f : Strip → Strip) : (s.modStrip j f).iload = s.iload := rfl
@[simp] theorem State.modStrip_tcache (j : Nat) (f : Strip → Strip) : (s.modStrip j f).tcache = s.tcache := rfl
@[simp] theorem State.modStrip_walks (j : Nat) (f : Strip → Strip) : (s.modStrip j f).walks = s.walks := rfl
@[simp] theorem State.modStrip_cal (j : Nat) (f : Strip → Strip) : (s.modStrip j f).cal = s.cal := rfl
@[simp] theorem State.modStrip_occ (j : Nat) (f : Strip → Strip) : (s.modStrip j f).occ = s.occ := rfl
@[simp] theorem State.modStrip_compactDue (j : Nat) (f : Strip → Strip) : (s.modStrip j f).compactDue = s.compactDue := rfl
@[simp] theorem State.modStrip_released (j : Nat) (f : Strip → Strip) : (s.modStrip j f).released = s.released := rfl
@[simp] theorem State.modStrip_denied (j : Nat) (f : Strip → Strip) : (s.modStrip j f).denied = s.denied := rfl
@[simp] theorem State.modStrip_ckRetryAt (j : Nat) (f : Strip → Strip) : (s.modStrip j f).ckRetryAt = s.ckRetryAt := rfl
@[simp] theorem State.modStrip_ckParks (j : Nat) (f : Strip → Strip) : (s.modStrip j f).ckParks = s.ckParks := rfl
@[simp] theorem State.modStrip_peerHeld (j : Nat) (f : Strip → Strip) : (s.modStrip j f).peerHeld = s.peerHeld := rfl
@[simp] theorem State.modStrip_queued0 (j : Nat) (f : Strip → Strip) : (s.modStrip j f).queued0 = s.queued0 := rfl
@[simp] theorem State.modStrip_searched (j : Nat) (f : Strip → Strip) : (s.modStrip j f).searched = s.searched := rfl
@[simp] theorem State.modStrip_chans (j : Nat) (f : Strip → Strip) : (s.modStrip j f).chans = s.chans := rfl
@[simp] theorem State.modStrip_landings (j : Nat) (f : Strip → Strip) : (s.modStrip j f).landings = s.landings := rfl
@[simp] theorem State.modStrip_sel (j : Nat) (f : Strip → Strip) : (s.modStrip j f).sel = s.sel := rfl
@[simp] theorem State.modStrip_ckp (j : Nat) (f : Strip → Strip) : (s.modStrip j f).ckp = s.ckp := rfl
@[simp] theorem State.modStrip_ckLand (j : Nat) (f : Strip → Strip) : (s.modStrip j f).ckLand = s.ckLand := rfl
@[simp] theorem State.modStrip_syn (j : Nat) (f : Strip → Strip) : (s.modStrip j f).syn = s.syn := rfl
@[simp] theorem State.modStrip_phasers (j : Nat) (f : Strip → Strip) : (s.modStrip j f).phasers = s.phasers := rfl
@[simp] theorem State.modStrip_phWaits (j : Nat) (f : Strip → Strip) : (s.modStrip j f).phWaits = s.phWaits := rfl
@[simp] theorem State.modStrip_members (j : Nat) (f : Strip → Strip) : (s.modStrip j f).members = s.members := rfl
@[simp] theorem State.modStrip_phNreg (j : Nat) (f : Strip → Strip) : (s.modStrip j f).phNreg = s.phNreg := rfl
@[simp] theorem State.modStrip_scopeOps (j : Nat) (f : Strip → Strip) : (s.modStrip j f).scopeOps = s.scopeOps := rfl
@[simp] theorem State.modStrip_rawAcc (j : Nat) (f : Strip → Strip) : (s.modStrip j f).rawAcc = s.rawAcc := rfl
@[simp] theorem State.modStrip_tenants (j : Nat) (f : Strip → Strip) : (s.modStrip j f).tenants = s.tenants := rfl
@[simp] theorem State.modStrip_dies (j : Nat) (f : Strip → Strip) : (s.modStrip j f).dies = s.dies := rfl
@[simp] theorem State.modStrip_pageOver (j : Nat) (f : Strip → Strip) : (s.modStrip j f).pageOver = s.pageOver := rfl
@[simp] theorem State.modStrip_tasks (j : Nat) (f : Strip → Strip) : (s.modStrip j f).tasks = s.tasks := rfl
@[simp] theorem State.modStrip_nextId (j : Nat) (f : Strip → Strip) : (s.modStrip j f).nextId = s.nextId := rfl
@[simp] theorem State.modStrip_replays (j : Nat) (f : Strip → Strip) : (s.modStrip j f).replays = s.replays := rfl
@[simp] theorem State.modStrip_images (j : Nat) (f : Strip → Strip) : (s.modStrip j f).images = s.images := rfl
@[simp] theorem State.modStrip_msgMasks (j : Nat) (f : Strip → Strip) : (s.modStrip j f).msgMasks = s.msgMasks := rfl
@[simp] theorem State.modStrip_slow (j : Nat) (f : Strip → Strip) : (s.modStrip j f).slow = s.slow := rfl
@[simp] theorem State.modStrip_routes (j : Nat) (f : Strip → Strip) : (s.modStrip j f).routes = s.routes := rfl
@[simp] theorem State.modStrip_links (j : Nat) (f : Strip → Strip) : (s.modStrip j f).links = s.links := rfl
@[simp] theorem State.modStrip_platform (j : Nat) (f : Strip → Strip) : (s.modStrip j f).platform = s.platform := rfl
@[simp] theorem State.modStrip_hostRead (j : Nat) (f : Strip → Strip) : (s.modStrip j f).hostRead = s.hostRead := rfl
@[simp] theorem State.modStrip_peerReply (j : Nat) (f : Strip → Strip) : (s.modStrip j f).peerReply = s.peerReply := rfl
@[simp] theorem State.modStrip_inputs (j : Nat) (f : Strip → Strip) : (s.modStrip j f).inputs = s.inputs := rfl
@[simp] theorem State.modStrip_issue (j : Nat) (f : Strip → Strip) : (s.modStrip j f).issue = s.issue := rfl
@[simp] theorem State.modStrip_storeSeq (j : Nat) (f : Strip → Strip) : (s.modStrip j f).storeSeq = s.storeSeq := rfl
@[simp] theorem State.modStrip_resultSeq (j : Nat) (f : Strip → Strip) : (s.modStrip j f).resultSeq = s.resultSeq := rfl
@[simp] theorem State.modStrip_free (j : Nat) (f : Strip → Strip) : (s.modStrip j f).free = s.free := rfl
theorem State.modStrip_strips (j : Nat) (f : Strip → Strip) : (s.modStrip j f).strips = vmod s.strips j f := rfl

/-! ## State.modNode -/

@[simp] theorem State.modNode_now (l : Nat) (f : Node → Node) : (s.modNode l f).now = s.now := rfl
@[simp] theorem State.modNode_coreNum (l : Nat) (f : Node → Node) : (s.modNode l f).coreNum = s.coreNum := rfl
@[simp] theorem State.modNode_mode (l : Nat) (f : Node → Node) : (s.modNode l f).mode = s.mode := rfl
@[simp] theorem State.modNode_lcores (l : Nat) (f : Node → Node) : (s.modNode l f).lcores = s.lcores := rfl
@[simp] theorem State.modNode_otherCores (l : Nat) (f : Node → Node) : (s.modNode l f).otherCores = s.otherCores := rfl
@[simp] theorem State.modNode_ctxs (l : Nat) (f : Node → Node) : (s.modNode l f).ctxs = s.ctxs := rfl
@[simp] theorem State.modNode_mem (l : Nat) (f : Node → Node) : (s.modNode l f).mem = s.mem := rfl
@[simp] theorem State.modNode_spad (l : Nat) (f : Node → Node) : (s.modNode l f).spad = s.spad := rfl
@[simp] theorem State.modNode_spad0 (l : Nat) (f : Node → Node) : (s.modNode l f).spad0 = s.spad0 := rfl
@[simp] theorem State.modNode_hostMem (l : Nat) (f : Node → Node) : (s.modNode l f).hostMem = s.hostMem := rfl
@[simp] theorem State.modNode_peerMem (l : Nat) (f : Node → Node) : (s.modNode l f).peerMem = s.peerMem := rfl
@[simp] theorem State.modNode_poisonG (l : Nat) (f : Node → Node) : (s.modNode l f).poisonG = s.poisonG := rfl
@[simp] theorem State.modNode_poisonS (l : Nat) (f : Node → Node) : (s.modNode l f).poisonS = s.poisonS := rfl
@[simp] theorem State.modNode_poisonS0 (l : Nat) (f : Node → Node) : (s.modNode l f).poisonS0 = s.poisonS0 := rfl
@[simp] theorem State.modNode_poisonP (l : Nat) (f : Node → Node) : (s.modNode l f).poisonP = s.poisonP := rfl
@[simp] theorem State.modNode_l1 (l : Nat) (f : Node → Node) : (s.modNode l f).l1 = s.l1 := rfl
@[simp] theorem State.modNode_icache (l : Nat) (f : Node → Node) : (s.modNode l f).icache = s.icache := rfl
@[simp] theorem State.modNode_iload (l : Nat) (f : Node → Node) : (s.modNode l f).iload = s.iload := rfl
@[simp] theorem State.modNode_tcache (l : Nat) (f : Node → Node) : (s.modNode l f).tcache = s.tcache := rfl
@[simp] theorem State.modNode_walks (l : Nat) (f : Node → Node) : (s.modNode l f).walks = s.walks := rfl
@[simp] theorem State.modNode_cal (l : Nat) (f : Node → Node) : (s.modNode l f).cal = s.cal := rfl
@[simp] theorem State.modNode_occ (l : Nat) (f : Node → Node) : (s.modNode l f).occ = s.occ := rfl
@[simp] theorem State.modNode_compactDue (l : Nat) (f : Node → Node) : (s.modNode l f).compactDue = s.compactDue := rfl
@[simp] theorem State.modNode_released (l : Nat) (f : Node → Node) : (s.modNode l f).released = s.released := rfl
@[simp] theorem State.modNode_denied (l : Nat) (f : Node → Node) : (s.modNode l f).denied = s.denied := rfl
@[simp] theorem State.modNode_ckRetryAt (l : Nat) (f : Node → Node) : (s.modNode l f).ckRetryAt = s.ckRetryAt := rfl
@[simp] theorem State.modNode_ckParks (l : Nat) (f : Node → Node) : (s.modNode l f).ckParks = s.ckParks := rfl
@[simp] theorem State.modNode_peerHeld (l : Nat) (f : Node → Node) : (s.modNode l f).peerHeld = s.peerHeld := rfl
@[simp] theorem State.modNode_queued0 (l : Nat) (f : Node → Node) : (s.modNode l f).queued0 = s.queued0 := rfl
@[simp] theorem State.modNode_searched (l : Nat) (f : Node → Node) : (s.modNode l f).searched = s.searched := rfl
@[simp] theorem State.modNode_strips (l : Nat) (f : Node → Node) : (s.modNode l f).strips = s.strips := rfl
@[simp] theorem State.modNode_chans (l : Nat) (f : Node → Node) : (s.modNode l f).chans = s.chans := rfl
@[simp] theorem State.modNode_landings (l : Nat) (f : Node → Node) : (s.modNode l f).landings = s.landings := rfl
@[simp] theorem State.modNode_sel (l : Nat) (f : Node → Node) : (s.modNode l f).sel = s.sel := rfl
@[simp] theorem State.modNode_ckp (l : Nat) (f : Node → Node) : (s.modNode l f).ckp = s.ckp := rfl
@[simp] theorem State.modNode_ckLand (l : Nat) (f : Node → Node) : (s.modNode l f).ckLand = s.ckLand := rfl
@[simp] theorem State.modNode_syn (l : Nat) (f : Node → Node) : (s.modNode l f).syn = s.syn := rfl
@[simp] theorem State.modNode_phasers (l : Nat) (f : Node → Node) : (s.modNode l f).phasers = s.phasers := rfl
@[simp] theorem State.modNode_phWaits (l : Nat) (f : Node → Node) : (s.modNode l f).phWaits = s.phWaits := rfl
@[simp] theorem State.modNode_members (l : Nat) (f : Node → Node) : (s.modNode l f).members = s.members := rfl
@[simp] theorem State.modNode_phNreg (l : Nat) (f : Node → Node) : (s.modNode l f).phNreg = s.phNreg := rfl
@[simp] theorem State.modNode_scopeOps (l : Nat) (f : Node → Node) : (s.modNode l f).scopeOps = s.scopeOps := rfl
@[simp] theorem State.modNode_rawAcc (l : Nat) (f : Node → Node) : (s.modNode l f).rawAcc = s.rawAcc := rfl
@[simp] theorem State.modNode_tenants (l : Nat) (f : Node → Node) : (s.modNode l f).tenants = s.tenants := rfl
@[simp] theorem State.modNode_dies (l : Nat) (f : Node → Node) : (s.modNode l f).dies = s.dies := rfl
@[simp] theorem State.modNode_pageOver (l : Nat) (f : Node → Node) : (s.modNode l f).pageOver = s.pageOver := rfl
@[simp] theorem State.modNode_tasks (l : Nat) (f : Node → Node) : (s.modNode l f).tasks = s.tasks := rfl
@[simp] theorem State.modNode_nextId (l : Nat) (f : Node → Node) : (s.modNode l f).nextId = s.nextId := rfl
@[simp] theorem State.modNode_images (l : Nat) (f : Node → Node) : (s.modNode l f).images = s.images := rfl
@[simp] theorem State.modNode_msgMasks (l : Nat) (f : Node → Node) : (s.modNode l f).msgMasks = s.msgMasks := rfl
@[simp] theorem State.modNode_slow (l : Nat) (f : Node → Node) : (s.modNode l f).slow = s.slow := rfl
@[simp] theorem State.modNode_routes (l : Nat) (f : Node → Node) : (s.modNode l f).routes = s.routes := rfl
@[simp] theorem State.modNode_links (l : Nat) (f : Node → Node) : (s.modNode l f).links = s.links := rfl
@[simp] theorem State.modNode_platform (l : Nat) (f : Node → Node) : (s.modNode l f).platform = s.platform := rfl
@[simp] theorem State.modNode_hostRead (l : Nat) (f : Node → Node) : (s.modNode l f).hostRead = s.hostRead := rfl
@[simp] theorem State.modNode_peerReply (l : Nat) (f : Node → Node) : (s.modNode l f).peerReply = s.peerReply := rfl
@[simp] theorem State.modNode_inputs (l : Nat) (f : Node → Node) : (s.modNode l f).inputs = s.inputs := rfl
@[simp] theorem State.modNode_issue (l : Nat) (f : Node → Node) : (s.modNode l f).issue = s.issue := rfl
@[simp] theorem State.modNode_storeSeq (l : Nat) (f : Node → Node) : (s.modNode l f).storeSeq = s.storeSeq := rfl
@[simp] theorem State.modNode_resultSeq (l : Nat) (f : Node → Node) : (s.modNode l f).resultSeq = s.resultSeq := rfl
@[simp] theorem State.modNode_free (l : Nat) (f : Node → Node) : (s.modNode l f).free = s.free := rfl

/-! ## State.writeSpad -/

@[simp] theorem State.writeSpad_now (k : Nat) (bs : List Byte) : (s.writeSpad k bs).now = s.now := rfl
@[simp] theorem State.writeSpad_coreNum (k : Nat) (bs : List Byte) : (s.writeSpad k bs).coreNum = s.coreNum := rfl
@[simp] theorem State.writeSpad_mode (k : Nat) (bs : List Byte) : (s.writeSpad k bs).mode = s.mode := rfl
@[simp] theorem State.writeSpad_lcores (k : Nat) (bs : List Byte) : (s.writeSpad k bs).lcores = s.lcores := rfl
@[simp] theorem State.writeSpad_otherCores (k : Nat) (bs : List Byte) : (s.writeSpad k bs).otherCores = s.otherCores := rfl
@[simp] theorem State.writeSpad_ctxs (k : Nat) (bs : List Byte) : (s.writeSpad k bs).ctxs = s.ctxs := rfl
@[simp] theorem State.writeSpad_mem (k : Nat) (bs : List Byte) : (s.writeSpad k bs).mem = s.mem := rfl
@[simp] theorem State.writeSpad_spad0 (k : Nat) (bs : List Byte) : (s.writeSpad k bs).spad0 = s.spad0 := rfl
@[simp] theorem State.writeSpad_hostMem (k : Nat) (bs : List Byte) : (s.writeSpad k bs).hostMem = s.hostMem := rfl
@[simp] theorem State.writeSpad_peerMem (k : Nat) (bs : List Byte) : (s.writeSpad k bs).peerMem = s.peerMem := rfl
@[simp] theorem State.writeSpad_poisonG (k : Nat) (bs : List Byte) : (s.writeSpad k bs).poisonG = s.poisonG := rfl
@[simp] theorem State.writeSpad_poisonP (k : Nat) (bs : List Byte) : (s.writeSpad k bs).poisonP = s.poisonP := rfl
@[simp] theorem State.writeSpad_l1 (k : Nat) (bs : List Byte) : (s.writeSpad k bs).l1 = s.l1 := rfl
@[simp] theorem State.writeSpad_icache (k : Nat) (bs : List Byte) : (s.writeSpad k bs).icache = s.icache := rfl
@[simp] theorem State.writeSpad_iload (k : Nat) (bs : List Byte) : (s.writeSpad k bs).iload = s.iload := rfl
@[simp] theorem State.writeSpad_tcache (k : Nat) (bs : List Byte) : (s.writeSpad k bs).tcache = s.tcache := rfl
@[simp] theorem State.writeSpad_walks (k : Nat) (bs : List Byte) : (s.writeSpad k bs).walks = s.walks := rfl
@[simp] theorem State.writeSpad_cal (k : Nat) (bs : List Byte) : (s.writeSpad k bs).cal = s.cal := rfl
@[simp] theorem State.writeSpad_occ (k : Nat) (bs : List Byte) : (s.writeSpad k bs).occ = s.occ := rfl
@[simp] theorem State.writeSpad_compactDue (k : Nat) (bs : List Byte) : (s.writeSpad k bs).compactDue = s.compactDue := rfl
@[simp] theorem State.writeSpad_released (k : Nat) (bs : List Byte) : (s.writeSpad k bs).released = s.released := rfl
@[simp] theorem State.writeSpad_denied (k : Nat) (bs : List Byte) : (s.writeSpad k bs).denied = s.denied := rfl
@[simp] theorem State.writeSpad_ckRetryAt (k : Nat) (bs : List Byte) : (s.writeSpad k bs).ckRetryAt = s.ckRetryAt := rfl
@[simp] theorem State.writeSpad_ckParks (k : Nat) (bs : List Byte) : (s.writeSpad k bs).ckParks = s.ckParks := rfl
@[simp] theorem State.writeSpad_peerHeld (k : Nat) (bs : List Byte) : (s.writeSpad k bs).peerHeld = s.peerHeld := rfl
@[simp] theorem State.writeSpad_queued0 (k : Nat) (bs : List Byte) : (s.writeSpad k bs).queued0 = s.queued0 := rfl
@[simp] theorem State.writeSpad_searched (k : Nat) (bs : List Byte) : (s.writeSpad k bs).searched = s.searched := rfl
@[simp] theorem State.writeSpad_strips (k : Nat) (bs : List Byte) : (s.writeSpad k bs).strips = s.strips := rfl
@[simp] theorem State.writeSpad_chans (k : Nat) (bs : List Byte) : (s.writeSpad k bs).chans = s.chans := rfl
@[simp] theorem State.writeSpad_landings (k : Nat) (bs : List Byte) : (s.writeSpad k bs).landings = s.landings := rfl
@[simp] theorem State.writeSpad_sel (k : Nat) (bs : List Byte) : (s.writeSpad k bs).sel = s.sel := rfl
@[simp] theorem State.writeSpad_ckp (k : Nat) (bs : List Byte) : (s.writeSpad k bs).ckp = s.ckp := rfl
@[simp] theorem State.writeSpad_ckLand (k : Nat) (bs : List Byte) : (s.writeSpad k bs).ckLand = s.ckLand := rfl
@[simp] theorem State.writeSpad_syn (k : Nat) (bs : List Byte) : (s.writeSpad k bs).syn = s.syn := rfl
@[simp] theorem State.writeSpad_phasers (k : Nat) (bs : List Byte) : (s.writeSpad k bs).phasers = s.phasers := rfl
@[simp] theorem State.writeSpad_phWaits (k : Nat) (bs : List Byte) : (s.writeSpad k bs).phWaits = s.phWaits := rfl
@[simp] theorem State.writeSpad_members (k : Nat) (bs : List Byte) : (s.writeSpad k bs).members = s.members := rfl
@[simp] theorem State.writeSpad_phNreg (k : Nat) (bs : List Byte) : (s.writeSpad k bs).phNreg = s.phNreg := rfl
@[simp] theorem State.writeSpad_scopeOps (k : Nat) (bs : List Byte) : (s.writeSpad k bs).scopeOps = s.scopeOps := rfl
@[simp] theorem State.writeSpad_rawAcc (k : Nat) (bs : List Byte) : (s.writeSpad k bs).rawAcc = s.rawAcc := rfl
@[simp] theorem State.writeSpad_tenants (k : Nat) (bs : List Byte) : (s.writeSpad k bs).tenants = s.tenants := rfl
@[simp] theorem State.writeSpad_dies (k : Nat) (bs : List Byte) : (s.writeSpad k bs).dies = s.dies := rfl
@[simp] theorem State.writeSpad_pageOver (k : Nat) (bs : List Byte) : (s.writeSpad k bs).pageOver = s.pageOver := rfl
@[simp] theorem State.writeSpad_tasks (k : Nat) (bs : List Byte) : (s.writeSpad k bs).tasks = s.tasks := rfl
@[simp] theorem State.writeSpad_nextId (k : Nat) (bs : List Byte) : (s.writeSpad k bs).nextId = s.nextId := rfl
@[simp] theorem State.writeSpad_replays (k : Nat) (bs : List Byte) : (s.writeSpad k bs).replays = s.replays := rfl
@[simp] theorem State.writeSpad_images (k : Nat) (bs : List Byte) : (s.writeSpad k bs).images = s.images := rfl
@[simp] theorem State.writeSpad_msgMasks (k : Nat) (bs : List Byte) : (s.writeSpad k bs).msgMasks = s.msgMasks := rfl
@[simp] theorem State.writeSpad_slow (k : Nat) (bs : List Byte) : (s.writeSpad k bs).slow = s.slow := rfl
@[simp] theorem State.writeSpad_routes (k : Nat) (bs : List Byte) : (s.writeSpad k bs).routes = s.routes := rfl
@[simp] theorem State.writeSpad_links (k : Nat) (bs : List Byte) : (s.writeSpad k bs).links = s.links := rfl
@[simp] theorem State.writeSpad_platform (k : Nat) (bs : List Byte) : (s.writeSpad k bs).platform = s.platform := rfl
@[simp] theorem State.writeSpad_hostRead (k : Nat) (bs : List Byte) : (s.writeSpad k bs).hostRead = s.hostRead := rfl
@[simp] theorem State.writeSpad_peerReply (k : Nat) (bs : List Byte) : (s.writeSpad k bs).peerReply = s.peerReply := rfl
@[simp] theorem State.writeSpad_inputs (k : Nat) (bs : List Byte) : (s.writeSpad k bs).inputs = s.inputs := rfl
@[simp] theorem State.writeSpad_issue (k : Nat) (bs : List Byte) : (s.writeSpad k bs).issue = s.issue := rfl
@[simp] theorem State.writeSpad_storeSeq (k : Nat) (bs : List Byte) : (s.writeSpad k bs).storeSeq = s.storeSeq := rfl
@[simp] theorem State.writeSpad_resultSeq (k : Nat) (bs : List Byte) : (s.writeSpad k bs).resultSeq = s.resultSeq := rfl
@[simp] theorem State.writeSpad_free (k : Nat) (bs : List Byte) : (s.writeSpad k bs).free = s.free := rfl
@[simp] theorem State.writeSpad_spad (k : Nat) (bs : List Byte) : (s.writeSpad k bs).spad = memWrite s.spad k bs := rfl
@[simp] theorem State.writeSpad_poisonS (k : Nat) (bs : List Byte) :
    (s.writeSpad k bs).poisonS = clearPoison s.poisonS k bs.length := rfl

/-! ## State.release -/

@[simp] theorem State.release_now (c t : Nat) : (s.release c t).now = s.now := rfl
@[simp] theorem State.release_coreNum (c t : Nat) : (s.release c t).coreNum = s.coreNum := rfl
@[simp] theorem State.release_mode (c t : Nat) : (s.release c t).mode = s.mode := rfl
@[simp] theorem State.release_lcores (c t : Nat) : (s.release c t).lcores = s.lcores := rfl
@[simp] theorem State.release_otherCores (c t : Nat) : (s.release c t).otherCores = s.otherCores := rfl
@[simp] theorem State.release_ctxs (c t : Nat) : (s.release c t).ctxs = s.ctxs := rfl
@[simp] theorem State.release_mem (c t : Nat) : (s.release c t).mem = s.mem := rfl
@[simp] theorem State.release_spad (c t : Nat) : (s.release c t).spad = s.spad := rfl
@[simp] theorem State.release_spad0 (c t : Nat) : (s.release c t).spad0 = s.spad0 := rfl
@[simp] theorem State.release_hostMem (c t : Nat) : (s.release c t).hostMem = s.hostMem := rfl
@[simp] theorem State.release_peerMem (c t : Nat) : (s.release c t).peerMem = s.peerMem := rfl
@[simp] theorem State.release_poisonG (c t : Nat) : (s.release c t).poisonG = s.poisonG := rfl
@[simp] theorem State.release_poisonS (c t : Nat) : (s.release c t).poisonS = s.poisonS := rfl
@[simp] theorem State.release_poisonS0 (c t : Nat) : (s.release c t).poisonS0 = s.poisonS0 := rfl
@[simp] theorem State.release_poisonP (c t : Nat) : (s.release c t).poisonP = s.poisonP := rfl
@[simp] theorem State.release_l1 (c t : Nat) : (s.release c t).l1 = s.l1 := rfl
@[simp] theorem State.release_icache (c t : Nat) : (s.release c t).icache = s.icache := rfl
@[simp] theorem State.release_iload (c t : Nat) : (s.release c t).iload = s.iload := rfl
@[simp] theorem State.release_tcache (c t : Nat) : (s.release c t).tcache = s.tcache := rfl
@[simp] theorem State.release_walks (c t : Nat) : (s.release c t).walks = s.walks := rfl
@[simp] theorem State.release_occ (c t : Nat) : (s.release c t).occ = s.occ := rfl
@[simp] theorem State.release_searched (c t : Nat) : (s.release c t).searched = s.searched := rfl
@[simp] theorem State.release_strips (c t : Nat) : (s.release c t).strips = s.strips := rfl
@[simp] theorem State.release_chans (c t : Nat) : (s.release c t).chans = s.chans := rfl
@[simp] theorem State.release_landings (c t : Nat) : (s.release c t).landings = s.landings := rfl
@[simp] theorem State.release_sel (c t : Nat) : (s.release c t).sel = s.sel := rfl
@[simp] theorem State.release_ckp (c t : Nat) : (s.release c t).ckp = s.ckp := rfl
@[simp] theorem State.release_ckLand (c t : Nat) : (s.release c t).ckLand = s.ckLand := rfl
@[simp] theorem State.release_syn (c t : Nat) : (s.release c t).syn = s.syn := rfl
@[simp] theorem State.release_phasers (c t : Nat) : (s.release c t).phasers = s.phasers := rfl
@[simp] theorem State.release_phWaits (c t : Nat) : (s.release c t).phWaits = s.phWaits := rfl
@[simp] theorem State.release_members (c t : Nat) : (s.release c t).members = s.members := rfl
@[simp] theorem State.release_phNreg (c t : Nat) : (s.release c t).phNreg = s.phNreg := rfl
@[simp] theorem State.release_scopeOps (c t : Nat) : (s.release c t).scopeOps = s.scopeOps := rfl
@[simp] theorem State.release_rawAcc (c t : Nat) : (s.release c t).rawAcc = s.rawAcc := rfl
@[simp] theorem State.release_tenants (c t : Nat) : (s.release c t).tenants = s.tenants := rfl
@[simp] theorem State.release_dies (c t : Nat) : (s.release c t).dies = s.dies := rfl
@[simp] theorem State.release_pageOver (c t : Nat) : (s.release c t).pageOver = s.pageOver := rfl
@[simp] theorem State.release_tasks (c t : Nat) : (s.release c t).tasks = s.tasks := rfl
@[simp] theorem State.release_nextId (c t : Nat) : (s.release c t).nextId = s.nextId := rfl
@[simp] theorem State.release_replays (c t : Nat) : (s.release c t).replays = s.replays := rfl
@[simp] theorem State.release_images (c t : Nat) : (s.release c t).images = s.images := rfl
@[simp] theorem State.release_msgMasks (c t : Nat) : (s.release c t).msgMasks = s.msgMasks := rfl
@[simp] theorem State.release_slow (c t : Nat) : (s.release c t).slow = s.slow := rfl
@[simp] theorem State.release_routes (c t : Nat) : (s.release c t).routes = s.routes := rfl
@[simp] theorem State.release_links (c t : Nat) : (s.release c t).links = s.links := rfl
@[simp] theorem State.release_platform (c t : Nat) : (s.release c t).platform = s.platform := rfl
@[simp] theorem State.release_hostRead (c t : Nat) : (s.release c t).hostRead = s.hostRead := rfl
@[simp] theorem State.release_peerReply (c t : Nat) : (s.release c t).peerReply = s.peerReply := rfl
@[simp] theorem State.release_inputs (c t : Nat) : (s.release c t).inputs = s.inputs := rfl
@[simp] theorem State.release_issue (c t : Nat) : (s.release c t).issue = s.issue := rfl
@[simp] theorem State.release_storeSeq (c t : Nat) : (s.release c t).storeSeq = s.storeSeq := rfl
@[simp] theorem State.release_resultSeq (c t : Nat) : (s.release c t).resultSeq = s.resultSeq := rfl
@[simp] theorem State.release_free (c t : Nat) : (s.release c t).free = s.free := rfl
@[simp] theorem State.release_compactDue (c t : Nat) : (s.release c t).compactDue = s.compactDue := rfl
@[simp] theorem State.release_released (c t : Nat) : (s.release c t).released = true := rfl
@[simp] theorem State.release_denied (c t : Nat) : (s.release c t).denied = s.denied := rfl
@[simp] theorem State.release_ckRetryAt (c t : Nat) : (s.release c t).ckRetryAt = s.ckRetryAt := rfl
@[simp] theorem State.release_ckParks (c t : Nat) : (s.release c t).ckParks = s.ckParks := rfl
@[simp] theorem State.release_peerHeld (c t : Nat) : (s.release c t).peerHeld = s.peerHeld := rfl
@[simp] theorem State.release_queued0 (c t : Nat) : (s.release c t).queued0 = s.queued0 := rfl

/-! ## State.modPlatform -/

@[simp] theorem State.modPlatform_now (f : Platform → Platform) : (s.modPlatform f).now = s.now := rfl
@[simp] theorem State.modPlatform_coreNum (f : Platform → Platform) : (s.modPlatform f).coreNum = s.coreNum := rfl
@[simp] theorem State.modPlatform_mode (f : Platform → Platform) : (s.modPlatform f).mode = s.mode := rfl
@[simp] theorem State.modPlatform_lcores (f : Platform → Platform) : (s.modPlatform f).lcores = s.lcores := rfl
@[simp] theorem State.modPlatform_otherCores (f : Platform → Platform) : (s.modPlatform f).otherCores = s.otherCores := rfl
@[simp] theorem State.modPlatform_ctxs (f : Platform → Platform) : (s.modPlatform f).ctxs = s.ctxs := rfl
@[simp] theorem State.modPlatform_mem (f : Platform → Platform) : (s.modPlatform f).mem = s.mem := rfl
@[simp] theorem State.modPlatform_spad (f : Platform → Platform) : (s.modPlatform f).spad = s.spad := rfl
@[simp] theorem State.modPlatform_spad0 (f : Platform → Platform) : (s.modPlatform f).spad0 = s.spad0 := rfl
@[simp] theorem State.modPlatform_hostMem (f : Platform → Platform) : (s.modPlatform f).hostMem = s.hostMem := rfl
@[simp] theorem State.modPlatform_peerMem (f : Platform → Platform) : (s.modPlatform f).peerMem = s.peerMem := rfl
@[simp] theorem State.modPlatform_poisonG (f : Platform → Platform) : (s.modPlatform f).poisonG = s.poisonG := rfl
@[simp] theorem State.modPlatform_poisonS (f : Platform → Platform) : (s.modPlatform f).poisonS = s.poisonS := rfl
@[simp] theorem State.modPlatform_poisonS0 (f : Platform → Platform) : (s.modPlatform f).poisonS0 = s.poisonS0 := rfl
@[simp] theorem State.modPlatform_poisonP (f : Platform → Platform) : (s.modPlatform f).poisonP = s.poisonP := rfl
@[simp] theorem State.modPlatform_l1 (f : Platform → Platform) : (s.modPlatform f).l1 = s.l1 := rfl
@[simp] theorem State.modPlatform_icache (f : Platform → Platform) : (s.modPlatform f).icache = s.icache := rfl
@[simp] theorem State.modPlatform_iload (f : Platform → Platform) : (s.modPlatform f).iload = s.iload := rfl
@[simp] theorem State.modPlatform_tcache (f : Platform → Platform) : (s.modPlatform f).tcache = s.tcache := rfl
@[simp] theorem State.modPlatform_walks (f : Platform → Platform) : (s.modPlatform f).walks = s.walks := rfl
@[simp] theorem State.modPlatform_cal (f : Platform → Platform) : (s.modPlatform f).cal = s.cal := rfl
@[simp] theorem State.modPlatform_occ (f : Platform → Platform) : (s.modPlatform f).occ = s.occ := rfl
@[simp] theorem State.modPlatform_compactDue (f : Platform → Platform) : (s.modPlatform f).compactDue = s.compactDue := rfl
@[simp] theorem State.modPlatform_released (f : Platform → Platform) : (s.modPlatform f).released = s.released := rfl
@[simp] theorem State.modPlatform_denied (f : Platform → Platform) : (s.modPlatform f).denied = s.denied := rfl
@[simp] theorem State.modPlatform_ckRetryAt (f : Platform → Platform) : (s.modPlatform f).ckRetryAt = s.ckRetryAt := rfl
@[simp] theorem State.modPlatform_ckParks (f : Platform → Platform) : (s.modPlatform f).ckParks = s.ckParks := rfl
@[simp] theorem State.modPlatform_peerHeld (f : Platform → Platform) : (s.modPlatform f).peerHeld = s.peerHeld := rfl
@[simp] theorem State.modPlatform_queued0 (f : Platform → Platform) : (s.modPlatform f).queued0 = s.queued0 := rfl
@[simp] theorem State.modPlatform_searched (f : Platform → Platform) : (s.modPlatform f).searched = s.searched := rfl
@[simp] theorem State.modPlatform_strips (f : Platform → Platform) : (s.modPlatform f).strips = s.strips := rfl
@[simp] theorem State.modPlatform_chans (f : Platform → Platform) : (s.modPlatform f).chans = s.chans := rfl
@[simp] theorem State.modPlatform_landings (f : Platform → Platform) : (s.modPlatform f).landings = s.landings := rfl
@[simp] theorem State.modPlatform_sel (f : Platform → Platform) : (s.modPlatform f).sel = s.sel := rfl
@[simp] theorem State.modPlatform_ckp (f : Platform → Platform) : (s.modPlatform f).ckp = s.ckp := rfl
@[simp] theorem State.modPlatform_ckLand (f : Platform → Platform) : (s.modPlatform f).ckLand = s.ckLand := rfl
@[simp] theorem State.modPlatform_syn (f : Platform → Platform) : (s.modPlatform f).syn = s.syn := rfl
@[simp] theorem State.modPlatform_phasers (f : Platform → Platform) : (s.modPlatform f).phasers = s.phasers := rfl
@[simp] theorem State.modPlatform_phWaits (f : Platform → Platform) : (s.modPlatform f).phWaits = s.phWaits := rfl
@[simp] theorem State.modPlatform_members (f : Platform → Platform) : (s.modPlatform f).members = s.members := rfl
@[simp] theorem State.modPlatform_phNreg (f : Platform → Platform) : (s.modPlatform f).phNreg = s.phNreg := rfl
@[simp] theorem State.modPlatform_scopeOps (f : Platform → Platform) : (s.modPlatform f).scopeOps = s.scopeOps := rfl
@[simp] theorem State.modPlatform_rawAcc (f : Platform → Platform) : (s.modPlatform f).rawAcc = s.rawAcc := rfl
@[simp] theorem State.modPlatform_tenants (f : Platform → Platform) : (s.modPlatform f).tenants = s.tenants := rfl
@[simp] theorem State.modPlatform_dies (f : Platform → Platform) : (s.modPlatform f).dies = s.dies := rfl
@[simp] theorem State.modPlatform_pageOver (f : Platform → Platform) : (s.modPlatform f).pageOver = s.pageOver := rfl
@[simp] theorem State.modPlatform_tasks (f : Platform → Platform) : (s.modPlatform f).tasks = s.tasks := rfl
@[simp] theorem State.modPlatform_nextId (f : Platform → Platform) : (s.modPlatform f).nextId = s.nextId := rfl
@[simp] theorem State.modPlatform_replays (f : Platform → Platform) : (s.modPlatform f).replays = s.replays := rfl
@[simp] theorem State.modPlatform_images (f : Platform → Platform) : (s.modPlatform f).images = s.images := rfl
@[simp] theorem State.modPlatform_msgMasks (f : Platform → Platform) : (s.modPlatform f).msgMasks = s.msgMasks := rfl
@[simp] theorem State.modPlatform_slow (f : Platform → Platform) : (s.modPlatform f).slow = s.slow := rfl
@[simp] theorem State.modPlatform_routes (f : Platform → Platform) : (s.modPlatform f).routes = s.routes := rfl
@[simp] theorem State.modPlatform_links (f : Platform → Platform) : (s.modPlatform f).links = s.links := rfl
@[simp] theorem State.modPlatform_hostRead (f : Platform → Platform) : (s.modPlatform f).hostRead = s.hostRead := rfl
@[simp] theorem State.modPlatform_peerReply (f : Platform → Platform) : (s.modPlatform f).peerReply = s.peerReply := rfl
@[simp] theorem State.modPlatform_inputs (f : Platform → Platform) : (s.modPlatform f).inputs = s.inputs := rfl
@[simp] theorem State.modPlatform_issue (f : Platform → Platform) : (s.modPlatform f).issue = s.issue := rfl
@[simp] theorem State.modPlatform_storeSeq (f : Platform → Platform) : (s.modPlatform f).storeSeq = s.storeSeq := rfl
@[simp] theorem State.modPlatform_resultSeq (f : Platform → Platform) : (s.modPlatform f).resultSeq = s.resultSeq := rfl
@[simp] theorem State.modPlatform_free (f : Platform → Platform) : (s.modPlatform f).free = s.free := rfl
@[simp] theorem State.modPlatform_platform (f : Platform → Platform) : (s.modPlatform f).platform = f s.platform := rfl

/-! ## State.finishOp -/

@[simp] theorem State.finishOp_now (c i n : Nat) : (s.finishOp c i n).now = s.now := rfl
@[simp] theorem State.finishOp_coreNum (c i n : Nat) : (s.finishOp c i n).coreNum = s.coreNum := rfl
@[simp] theorem State.finishOp_mode (c i n : Nat) : (s.finishOp c i n).mode = s.mode := rfl
@[simp] theorem State.finishOp_lcores (c i n : Nat) : (s.finishOp c i n).lcores = s.lcores := rfl
@[simp] theorem State.finishOp_otherCores (c i n : Nat) : (s.finishOp c i n).otherCores = s.otherCores := rfl
@[simp] theorem State.finishOp_mem (c i n : Nat) : (s.finishOp c i n).mem = s.mem := rfl
@[simp] theorem State.finishOp_spad (c i n : Nat) : (s.finishOp c i n).spad = s.spad := rfl
@[simp] theorem State.finishOp_spad0 (c i n : Nat) : (s.finishOp c i n).spad0 = s.spad0 := rfl
@[simp] theorem State.finishOp_hostMem (c i n : Nat) : (s.finishOp c i n).hostMem = s.hostMem := rfl
@[simp] theorem State.finishOp_peerMem (c i n : Nat) : (s.finishOp c i n).peerMem = s.peerMem := rfl
@[simp] theorem State.finishOp_poisonG (c i n : Nat) : (s.finishOp c i n).poisonG = s.poisonG := rfl
@[simp] theorem State.finishOp_poisonS (c i n : Nat) : (s.finishOp c i n).poisonS = s.poisonS := rfl
@[simp] theorem State.finishOp_poisonS0 (c i n : Nat) : (s.finishOp c i n).poisonS0 = s.poisonS0 := rfl
@[simp] theorem State.finishOp_poisonP (c i n : Nat) : (s.finishOp c i n).poisonP = s.poisonP := rfl
@[simp] theorem State.finishOp_l1 (c i n : Nat) : (s.finishOp c i n).l1 = s.l1 := rfl
@[simp] theorem State.finishOp_icache (c i n : Nat) : (s.finishOp c i n).icache = s.icache := rfl
@[simp] theorem State.finishOp_iload (c i n : Nat) : (s.finishOp c i n).iload = s.iload := rfl
@[simp] theorem State.finishOp_tcache (c i n : Nat) : (s.finishOp c i n).tcache = s.tcache := rfl
@[simp] theorem State.finishOp_walks (c i n : Nat) : (s.finishOp c i n).walks = s.walks := rfl
@[simp] theorem State.finishOp_cal (c i n : Nat) : (s.finishOp c i n).cal = s.cal := rfl
@[simp] theorem State.finishOp_occ (c i n : Nat) : (s.finishOp c i n).occ = s.occ := rfl
@[simp] theorem State.finishOp_compactDue (c i n : Nat) : (s.finishOp c i n).compactDue = s.compactDue := rfl
@[simp] theorem State.finishOp_released (c i n : Nat) : (s.finishOp c i n).released = s.released := rfl
@[simp] theorem State.finishOp_denied (c i n : Nat) : (s.finishOp c i n).denied = s.denied := rfl
@[simp] theorem State.finishOp_ckRetryAt (c i n : Nat) : (s.finishOp c i n).ckRetryAt = s.ckRetryAt := rfl
@[simp] theorem State.finishOp_ckParks (c i n : Nat) : (s.finishOp c i n).ckParks = s.ckParks := rfl
@[simp] theorem State.finishOp_peerHeld (c i n : Nat) : (s.finishOp c i n).peerHeld = s.peerHeld := rfl
@[simp] theorem State.finishOp_queued0 (c i n : Nat) : (s.finishOp c i n).queued0 = s.queued0 := rfl
@[simp] theorem State.finishOp_searched (c i n : Nat) : (s.finishOp c i n).searched = s.searched := rfl
@[simp] theorem State.finishOp_strips (c i n : Nat) : (s.finishOp c i n).strips = s.strips := rfl
@[simp] theorem State.finishOp_chans (c i n : Nat) : (s.finishOp c i n).chans = s.chans := rfl
@[simp] theorem State.finishOp_landings (c i n : Nat) : (s.finishOp c i n).landings = s.landings := rfl
@[simp] theorem State.finishOp_sel (c i n : Nat) : (s.finishOp c i n).sel = s.sel := rfl
@[simp] theorem State.finishOp_ckp (c i n : Nat) : (s.finishOp c i n).ckp = s.ckp := rfl
@[simp] theorem State.finishOp_ckLand (c i n : Nat) : (s.finishOp c i n).ckLand = s.ckLand := rfl
@[simp] theorem State.finishOp_syn (c i n : Nat) : (s.finishOp c i n).syn = s.syn := rfl
@[simp] theorem State.finishOp_phasers (c i n : Nat) : (s.finishOp c i n).phasers = s.phasers := rfl
@[simp] theorem State.finishOp_phWaits (c i n : Nat) : (s.finishOp c i n).phWaits = s.phWaits := rfl
@[simp] theorem State.finishOp_members (c i n : Nat) : (s.finishOp c i n).members = s.members := rfl
@[simp] theorem State.finishOp_phNreg (c i n : Nat) : (s.finishOp c i n).phNreg = s.phNreg := rfl
@[simp] theorem State.finishOp_scopeOps (c i n : Nat) : (s.finishOp c i n).scopeOps = s.scopeOps := rfl
@[simp] theorem State.finishOp_rawAcc (c i n : Nat) : (s.finishOp c i n).rawAcc = s.rawAcc := rfl
@[simp] theorem State.finishOp_tenants (c i n : Nat) : (s.finishOp c i n).tenants = s.tenants := rfl
@[simp] theorem State.finishOp_dies (c i n : Nat) : (s.finishOp c i n).dies = s.dies := rfl
@[simp] theorem State.finishOp_pageOver (c i n : Nat) : (s.finishOp c i n).pageOver = s.pageOver := rfl
@[simp] theorem State.finishOp_tasks (c i n : Nat) : (s.finishOp c i n).tasks = s.tasks := rfl
@[simp] theorem State.finishOp_nextId (c i n : Nat) : (s.finishOp c i n).nextId = s.nextId := rfl
@[simp] theorem State.finishOp_replays (c i n : Nat) : (s.finishOp c i n).replays = s.replays := rfl
@[simp] theorem State.finishOp_images (c i n : Nat) : (s.finishOp c i n).images = s.images := rfl
@[simp] theorem State.finishOp_msgMasks (c i n : Nat) : (s.finishOp c i n).msgMasks = s.msgMasks := rfl
@[simp] theorem State.finishOp_slow (c i n : Nat) : (s.finishOp c i n).slow = s.slow := rfl
@[simp] theorem State.finishOp_routes (c i n : Nat) : (s.finishOp c i n).routes = s.routes := rfl
@[simp] theorem State.finishOp_links (c i n : Nat) : (s.finishOp c i n).links = s.links := rfl
@[simp] theorem State.finishOp_platform (c i n : Nat) : (s.finishOp c i n).platform = s.platform := rfl
@[simp] theorem State.finishOp_hostRead (c i n : Nat) : (s.finishOp c i n).hostRead = s.hostRead := rfl
@[simp] theorem State.finishOp_peerReply (c i n : Nat) : (s.finishOp c i n).peerReply = s.peerReply := rfl
@[simp] theorem State.finishOp_inputs (c i n : Nat) : (s.finishOp c i n).inputs = s.inputs := rfl
@[simp] theorem State.finishOp_issue (c i n : Nat) : (s.finishOp c i n).issue = s.issue := rfl
@[simp] theorem State.finishOp_storeSeq (c i n : Nat) : (s.finishOp c i n).storeSeq = s.storeSeq := rfl
@[simp] theorem State.finishOp_resultSeq (c i n : Nat) : (s.finishOp c i n).resultSeq = s.resultSeq := rfl
@[simp] theorem State.finishOp_free (c i n : Nat) : (s.finishOp c i n).free = s.free := rfl

/-! ## State.latchDenial -/

@[simp] theorem State.latchDenial_now (c i va num : Nat) (p : Bool) : (s.latchDenial c i va num p).now = s.now := rfl
@[simp] theorem State.latchDenial_coreNum (c i va num : Nat) (p : Bool) : (s.latchDenial c i va num p).coreNum = s.coreNum := rfl
@[simp] theorem State.latchDenial_mode (c i va num : Nat) (p : Bool) : (s.latchDenial c i va num p).mode = s.mode := rfl
@[simp] theorem State.latchDenial_lcores (c i va num : Nat) (p : Bool) : (s.latchDenial c i va num p).lcores = s.lcores := rfl
@[simp] theorem State.latchDenial_otherCores (c i va num : Nat) (p : Bool) : (s.latchDenial c i va num p).otherCores = s.otherCores := rfl
@[simp] theorem State.latchDenial_mem (c i va num : Nat) (p : Bool) : (s.latchDenial c i va num p).mem = s.mem := rfl
@[simp] theorem State.latchDenial_spad (c i va num : Nat) (p : Bool) : (s.latchDenial c i va num p).spad = s.spad := rfl
@[simp] theorem State.latchDenial_spad0 (c i va num : Nat) (p : Bool) : (s.latchDenial c i va num p).spad0 = s.spad0 := rfl
@[simp] theorem State.latchDenial_hostMem (c i va num : Nat) (p : Bool) : (s.latchDenial c i va num p).hostMem = s.hostMem := rfl
@[simp] theorem State.latchDenial_peerMem (c i va num : Nat) (p : Bool) : (s.latchDenial c i va num p).peerMem = s.peerMem := rfl
@[simp] theorem State.latchDenial_poisonG (c i va num : Nat) (p : Bool) : (s.latchDenial c i va num p).poisonG = s.poisonG := rfl
@[simp] theorem State.latchDenial_poisonS (c i va num : Nat) (p : Bool) : (s.latchDenial c i va num p).poisonS = s.poisonS := rfl
@[simp] theorem State.latchDenial_poisonS0 (c i va num : Nat) (p : Bool) : (s.latchDenial c i va num p).poisonS0 = s.poisonS0 := rfl
@[simp] theorem State.latchDenial_poisonP (c i va num : Nat) (p : Bool) : (s.latchDenial c i va num p).poisonP = s.poisonP := rfl
@[simp] theorem State.latchDenial_l1 (c i va num : Nat) (p : Bool) : (s.latchDenial c i va num p).l1 = s.l1 := rfl
@[simp] theorem State.latchDenial_icache (c i va num : Nat) (p : Bool) : (s.latchDenial c i va num p).icache = s.icache := rfl
@[simp] theorem State.latchDenial_iload (c i va num : Nat) (p : Bool) : (s.latchDenial c i va num p).iload = s.iload := rfl
@[simp] theorem State.latchDenial_tcache (c i va num : Nat) (p : Bool) : (s.latchDenial c i va num p).tcache = s.tcache := rfl
@[simp] theorem State.latchDenial_walks (c i va num : Nat) (p : Bool) : (s.latchDenial c i va num p).walks = s.walks := rfl
@[simp] theorem State.latchDenial_cal (c i va num : Nat) (p : Bool) : (s.latchDenial c i va num p).cal = s.cal := rfl
@[simp] theorem State.latchDenial_occ (c i va num : Nat) (p : Bool) : (s.latchDenial c i va num p).occ = s.occ := rfl
@[simp] theorem State.latchDenial_compactDue (c i va num : Nat) (p : Bool) : (s.latchDenial c i va num p).compactDue = s.compactDue := rfl
@[simp] theorem State.latchDenial_released (c i va num : Nat) (p : Bool) : (s.latchDenial c i va num p).released = s.released := rfl
@[simp] theorem State.latchDenial_denied (c i va num : Nat) (p : Bool) : (s.latchDenial c i va num p).denied = s.denied := rfl
@[simp] theorem State.latchDenial_ckRetryAt (c i va num : Nat) (p : Bool) : (s.latchDenial c i va num p).ckRetryAt = s.ckRetryAt := rfl
@[simp] theorem State.latchDenial_ckParks (c i va num : Nat) (p : Bool) : (s.latchDenial c i va num p).ckParks = s.ckParks := rfl
@[simp] theorem State.latchDenial_peerHeld (c i va num : Nat) (p : Bool) : (s.latchDenial c i va num p).peerHeld = s.peerHeld := rfl
@[simp] theorem State.latchDenial_queued0 (c i va num : Nat) (p : Bool) : (s.latchDenial c i va num p).queued0 = s.queued0 := rfl
@[simp] theorem State.latchDenial_searched (c i va num : Nat) (p : Bool) : (s.latchDenial c i va num p).searched = s.searched := rfl
@[simp] theorem State.latchDenial_strips (c i va num : Nat) (p : Bool) : (s.latchDenial c i va num p).strips = s.strips := rfl
@[simp] theorem State.latchDenial_chans (c i va num : Nat) (p : Bool) : (s.latchDenial c i va num p).chans = s.chans := rfl
@[simp] theorem State.latchDenial_landings (c i va num : Nat) (p : Bool) : (s.latchDenial c i va num p).landings = s.landings := rfl
@[simp] theorem State.latchDenial_sel (c i va num : Nat) (p : Bool) : (s.latchDenial c i va num p).sel = s.sel := rfl
@[simp] theorem State.latchDenial_ckp (c i va num : Nat) (p : Bool) : (s.latchDenial c i va num p).ckp = s.ckp := rfl
@[simp] theorem State.latchDenial_ckLand (c i va num : Nat) (p : Bool) : (s.latchDenial c i va num p).ckLand = s.ckLand := rfl
@[simp] theorem State.latchDenial_syn (c i va num : Nat) (p : Bool) : (s.latchDenial c i va num p).syn = s.syn := rfl
@[simp] theorem State.latchDenial_phasers (c i va num : Nat) (p : Bool) : (s.latchDenial c i va num p).phasers = s.phasers := rfl
@[simp] theorem State.latchDenial_phWaits (c i va num : Nat) (p : Bool) : (s.latchDenial c i va num p).phWaits = s.phWaits := rfl
@[simp] theorem State.latchDenial_members (c i va num : Nat) (p : Bool) : (s.latchDenial c i va num p).members = s.members := rfl
@[simp] theorem State.latchDenial_phNreg (c i va num : Nat) (p : Bool) : (s.latchDenial c i va num p).phNreg = s.phNreg := rfl
@[simp] theorem State.latchDenial_scopeOps (c i va num : Nat) (p : Bool) : (s.latchDenial c i va num p).scopeOps = s.scopeOps := rfl
@[simp] theorem State.latchDenial_rawAcc (c i va num : Nat) (p : Bool) : (s.latchDenial c i va num p).rawAcc = s.rawAcc := rfl
@[simp] theorem State.latchDenial_tenants (c i va num : Nat) (p : Bool) : (s.latchDenial c i va num p).tenants = s.tenants := rfl
@[simp] theorem State.latchDenial_dies (c i va num : Nat) (p : Bool) : (s.latchDenial c i va num p).dies = s.dies := rfl
@[simp] theorem State.latchDenial_pageOver (c i va num : Nat) (p : Bool) : (s.latchDenial c i va num p).pageOver = s.pageOver := rfl
@[simp] theorem State.latchDenial_tasks (c i va num : Nat) (p : Bool) : (s.latchDenial c i va num p).tasks = s.tasks := rfl
@[simp] theorem State.latchDenial_nextId (c i va num : Nat) (p : Bool) : (s.latchDenial c i va num p).nextId = s.nextId := rfl
@[simp] theorem State.latchDenial_replays (c i va num : Nat) (p : Bool) : (s.latchDenial c i va num p).replays = s.replays := rfl
@[simp] theorem State.latchDenial_images (c i va num : Nat) (p : Bool) : (s.latchDenial c i va num p).images = s.images := rfl
@[simp] theorem State.latchDenial_msgMasks (c i va num : Nat) (p : Bool) : (s.latchDenial c i va num p).msgMasks = s.msgMasks := rfl
@[simp] theorem State.latchDenial_slow (c i va num : Nat) (p : Bool) : (s.latchDenial c i va num p).slow = s.slow := rfl
@[simp] theorem State.latchDenial_routes (c i va num : Nat) (p : Bool) : (s.latchDenial c i va num p).routes = s.routes := rfl
@[simp] theorem State.latchDenial_links (c i va num : Nat) (p : Bool) : (s.latchDenial c i va num p).links = s.links := rfl
@[simp] theorem State.latchDenial_platform (c i va num : Nat) (p : Bool) : (s.latchDenial c i va num p).platform = s.platform := rfl
@[simp] theorem State.latchDenial_hostRead (c i va num : Nat) (p : Bool) : (s.latchDenial c i va num p).hostRead = s.hostRead := rfl
@[simp] theorem State.latchDenial_peerReply (c i va num : Nat) (p : Bool) : (s.latchDenial c i va num p).peerReply = s.peerReply := rfl
@[simp] theorem State.latchDenial_inputs (c i va num : Nat) (p : Bool) : (s.latchDenial c i va num p).inputs = s.inputs := rfl
@[simp] theorem State.latchDenial_issue (c i va num : Nat) (p : Bool) : (s.latchDenial c i va num p).issue = s.issue := rfl
@[simp] theorem State.latchDenial_storeSeq (c i va num : Nat) (p : Bool) : (s.latchDenial c i va num p).storeSeq = s.storeSeq := rfl
@[simp] theorem State.latchDenial_resultSeq (c i va num : Nat) (p : Bool) : (s.latchDenial c i va num p).resultSeq = s.resultSeq := rfl
@[simp] theorem State.latchDenial_free (c i va num : Nat) (p : Bool) : (s.latchDenial c i va num p).free = s.free := rfl

/-! ## Fresh free values -/

@[simp] theorem State.delay_now : s.delay.2.now = s.now := rfl
@[simp] theorem State.delay_coreNum : s.delay.2.coreNum = s.coreNum := rfl
@[simp] theorem State.delay_mode : s.delay.2.mode = s.mode := rfl
@[simp] theorem State.delay_lcores : s.delay.2.lcores = s.lcores := rfl
@[simp] theorem State.delay_otherCores : s.delay.2.otherCores = s.otherCores := rfl
@[simp] theorem State.delay_ctxs : s.delay.2.ctxs = s.ctxs := rfl
@[simp] theorem State.delay_mem : s.delay.2.mem = s.mem := rfl
@[simp] theorem State.delay_spad : s.delay.2.spad = s.spad := rfl
@[simp] theorem State.delay_spad0 : s.delay.2.spad0 = s.spad0 := rfl
@[simp] theorem State.delay_hostMem : s.delay.2.hostMem = s.hostMem := rfl
@[simp] theorem State.delay_peerMem : s.delay.2.peerMem = s.peerMem := rfl
@[simp] theorem State.delay_poisonG : s.delay.2.poisonG = s.poisonG := rfl
@[simp] theorem State.delay_poisonS : s.delay.2.poisonS = s.poisonS := rfl
@[simp] theorem State.delay_poisonS0 : s.delay.2.poisonS0 = s.poisonS0 := rfl
@[simp] theorem State.delay_poisonP : s.delay.2.poisonP = s.poisonP := rfl
@[simp] theorem State.delay_l1 : s.delay.2.l1 = s.l1 := rfl
@[simp] theorem State.delay_icache : s.delay.2.icache = s.icache := rfl
@[simp] theorem State.delay_iload : s.delay.2.iload = s.iload := rfl
@[simp] theorem State.delay_tcache : s.delay.2.tcache = s.tcache := rfl
@[simp] theorem State.delay_walks : s.delay.2.walks = s.walks := rfl
@[simp] theorem State.delay_cal : s.delay.2.cal = s.cal := rfl
@[simp] theorem State.delay_occ : s.delay.2.occ = s.occ := rfl
@[simp] theorem State.delay_compactDue : s.delay.2.compactDue = s.compactDue := rfl
@[simp] theorem State.delay_searched : s.delay.2.searched = s.searched := rfl
@[simp] theorem State.delay_strips : s.delay.2.strips = s.strips := rfl
@[simp] theorem State.delay_chans : s.delay.2.chans = s.chans := rfl
@[simp] theorem State.delay_landings : s.delay.2.landings = s.landings := rfl
@[simp] theorem State.delay_sel : s.delay.2.sel = s.sel := rfl
@[simp] theorem State.delay_ckp : s.delay.2.ckp = s.ckp := rfl
@[simp] theorem State.delay_ckLand : s.delay.2.ckLand = s.ckLand := rfl
@[simp] theorem State.delay_syn : s.delay.2.syn = s.syn := rfl
@[simp] theorem State.delay_phasers : s.delay.2.phasers = s.phasers := rfl
@[simp] theorem State.delay_phWaits : s.delay.2.phWaits = s.phWaits := rfl
@[simp] theorem State.delay_members : s.delay.2.members = s.members := rfl
@[simp] theorem State.delay_phNreg : s.delay.2.phNreg = s.phNreg := rfl
@[simp] theorem State.delay_scopeOps : s.delay.2.scopeOps = s.scopeOps := rfl
@[simp] theorem State.delay_rawAcc : s.delay.2.rawAcc = s.rawAcc := rfl
@[simp] theorem State.delay_tenants : s.delay.2.tenants = s.tenants := rfl
@[simp] theorem State.delay_dies : s.delay.2.dies = s.dies := rfl
@[simp] theorem State.delay_pageOver : s.delay.2.pageOver = s.pageOver := rfl
@[simp] theorem State.delay_tasks : s.delay.2.tasks = s.tasks := rfl
@[simp] theorem State.delay_nextId : s.delay.2.nextId = s.nextId := rfl
@[simp] theorem State.delay_replays : s.delay.2.replays = s.replays := rfl
@[simp] theorem State.delay_images : s.delay.2.images = s.images := rfl
@[simp] theorem State.delay_msgMasks : s.delay.2.msgMasks = s.msgMasks := rfl
@[simp] theorem State.delay_slow : s.delay.2.slow = s.slow := rfl
@[simp] theorem State.delay_routes : s.delay.2.routes = s.routes := rfl
@[simp] theorem State.delay_links : s.delay.2.links = s.links := rfl
@[simp] theorem State.delay_platform : s.delay.2.platform = s.platform := rfl
@[simp] theorem State.delay_hostRead : s.delay.2.hostRead = s.hostRead := rfl
@[simp] theorem State.delay_peerReply : s.delay.2.peerReply = s.peerReply := rfl
@[simp] theorem State.delay_inputs : s.delay.2.inputs = s.inputs := rfl
@[simp] theorem State.delay_issue : s.delay.2.issue = s.issue := rfl
@[simp] theorem State.delay_storeSeq : s.delay.2.storeSeq = s.storeSeq := rfl
@[simp] theorem State.delay_resultSeq : s.delay.2.resultSeq = s.resultSeq := rfl
@[simp] theorem State.delay_free : s.delay.2.free = s.free + 1 := rfl
@[simp] theorem State.choice_now : s.choice.2.now = s.now := rfl
@[simp] theorem State.choice_coreNum : s.choice.2.coreNum = s.coreNum := rfl
@[simp] theorem State.choice_mode : s.choice.2.mode = s.mode := rfl
@[simp] theorem State.choice_lcores : s.choice.2.lcores = s.lcores := rfl
@[simp] theorem State.choice_otherCores : s.choice.2.otherCores = s.otherCores := rfl
@[simp] theorem State.choice_ctxs : s.choice.2.ctxs = s.ctxs := rfl
@[simp] theorem State.choice_mem : s.choice.2.mem = s.mem := rfl
@[simp] theorem State.choice_spad : s.choice.2.spad = s.spad := rfl
@[simp] theorem State.choice_spad0 : s.choice.2.spad0 = s.spad0 := rfl
@[simp] theorem State.choice_hostMem : s.choice.2.hostMem = s.hostMem := rfl
@[simp] theorem State.choice_peerMem : s.choice.2.peerMem = s.peerMem := rfl
@[simp] theorem State.choice_poisonG : s.choice.2.poisonG = s.poisonG := rfl
@[simp] theorem State.choice_poisonS : s.choice.2.poisonS = s.poisonS := rfl
@[simp] theorem State.choice_poisonS0 : s.choice.2.poisonS0 = s.poisonS0 := rfl
@[simp] theorem State.choice_poisonP : s.choice.2.poisonP = s.poisonP := rfl
@[simp] theorem State.choice_l1 : s.choice.2.l1 = s.l1 := rfl
@[simp] theorem State.choice_icache : s.choice.2.icache = s.icache := rfl
@[simp] theorem State.choice_iload : s.choice.2.iload = s.iload := rfl
@[simp] theorem State.choice_tcache : s.choice.2.tcache = s.tcache := rfl
@[simp] theorem State.choice_walks : s.choice.2.walks = s.walks := rfl
@[simp] theorem State.choice_cal : s.choice.2.cal = s.cal := rfl
@[simp] theorem State.choice_occ : s.choice.2.occ = s.occ := rfl
@[simp] theorem State.choice_compactDue : s.choice.2.compactDue = s.compactDue := rfl
@[simp] theorem State.choice_searched : s.choice.2.searched = s.searched := rfl
@[simp] theorem State.choice_strips : s.choice.2.strips = s.strips := rfl
@[simp] theorem State.choice_chans : s.choice.2.chans = s.chans := rfl
@[simp] theorem State.choice_landings : s.choice.2.landings = s.landings := rfl
@[simp] theorem State.choice_sel : s.choice.2.sel = s.sel := rfl
@[simp] theorem State.choice_ckp : s.choice.2.ckp = s.ckp := rfl
@[simp] theorem State.choice_ckLand : s.choice.2.ckLand = s.ckLand := rfl
@[simp] theorem State.choice_syn : s.choice.2.syn = s.syn := rfl
@[simp] theorem State.choice_phasers : s.choice.2.phasers = s.phasers := rfl
@[simp] theorem State.choice_phWaits : s.choice.2.phWaits = s.phWaits := rfl
@[simp] theorem State.choice_members : s.choice.2.members = s.members := rfl
@[simp] theorem State.choice_phNreg : s.choice.2.phNreg = s.phNreg := rfl
@[simp] theorem State.choice_scopeOps : s.choice.2.scopeOps = s.scopeOps := rfl
@[simp] theorem State.choice_rawAcc : s.choice.2.rawAcc = s.rawAcc := rfl
@[simp] theorem State.choice_tenants : s.choice.2.tenants = s.tenants := rfl
@[simp] theorem State.choice_dies : s.choice.2.dies = s.dies := rfl
@[simp] theorem State.choice_pageOver : s.choice.2.pageOver = s.pageOver := rfl
@[simp] theorem State.choice_tasks : s.choice.2.tasks = s.tasks := rfl
@[simp] theorem State.choice_nextId : s.choice.2.nextId = s.nextId := rfl
@[simp] theorem State.choice_replays : s.choice.2.replays = s.replays := rfl
@[simp] theorem State.choice_images : s.choice.2.images = s.images := rfl
@[simp] theorem State.choice_msgMasks : s.choice.2.msgMasks = s.msgMasks := rfl
@[simp] theorem State.choice_slow : s.choice.2.slow = s.slow := rfl
@[simp] theorem State.choice_routes : s.choice.2.routes = s.routes := rfl
@[simp] theorem State.choice_links : s.choice.2.links = s.links := rfl
@[simp] theorem State.choice_platform : s.choice.2.platform = s.platform := rfl
@[simp] theorem State.choice_hostRead : s.choice.2.hostRead = s.hostRead := rfl
@[simp] theorem State.choice_peerReply : s.choice.2.peerReply = s.peerReply := rfl
@[simp] theorem State.choice_inputs : s.choice.2.inputs = s.inputs := rfl
@[simp] theorem State.choice_issue : s.choice.2.issue = s.issue := rfl
@[simp] theorem State.choice_storeSeq : s.choice.2.storeSeq = s.storeSeq := rfl
@[simp] theorem State.choice_resultSeq : s.choice.2.resultSeq = s.resultSeq := rfl
@[simp] theorem State.choice_free : s.choice.2.free = s.free + 1 := rfl
@[simp] theorem State.freeBits_now : s.freeBits.2.now = s.now := rfl
@[simp] theorem State.freeBits_coreNum : s.freeBits.2.coreNum = s.coreNum := rfl
@[simp] theorem State.freeBits_mode : s.freeBits.2.mode = s.mode := rfl
@[simp] theorem State.freeBits_lcores : s.freeBits.2.lcores = s.lcores := rfl
@[simp] theorem State.freeBits_otherCores : s.freeBits.2.otherCores = s.otherCores := rfl
@[simp] theorem State.freeBits_ctxs : s.freeBits.2.ctxs = s.ctxs := rfl
@[simp] theorem State.freeBits_mem : s.freeBits.2.mem = s.mem := rfl
@[simp] theorem State.freeBits_spad : s.freeBits.2.spad = s.spad := rfl
@[simp] theorem State.freeBits_spad0 : s.freeBits.2.spad0 = s.spad0 := rfl
@[simp] theorem State.freeBits_hostMem : s.freeBits.2.hostMem = s.hostMem := rfl
@[simp] theorem State.freeBits_peerMem : s.freeBits.2.peerMem = s.peerMem := rfl
@[simp] theorem State.freeBits_poisonG : s.freeBits.2.poisonG = s.poisonG := rfl
@[simp] theorem State.freeBits_poisonS : s.freeBits.2.poisonS = s.poisonS := rfl
@[simp] theorem State.freeBits_poisonS0 : s.freeBits.2.poisonS0 = s.poisonS0 := rfl
@[simp] theorem State.freeBits_poisonP : s.freeBits.2.poisonP = s.poisonP := rfl
@[simp] theorem State.freeBits_l1 : s.freeBits.2.l1 = s.l1 := rfl
@[simp] theorem State.freeBits_icache : s.freeBits.2.icache = s.icache := rfl
@[simp] theorem State.freeBits_iload : s.freeBits.2.iload = s.iload := rfl
@[simp] theorem State.freeBits_tcache : s.freeBits.2.tcache = s.tcache := rfl
@[simp] theorem State.freeBits_walks : s.freeBits.2.walks = s.walks := rfl
@[simp] theorem State.freeBits_cal : s.freeBits.2.cal = s.cal := rfl
@[simp] theorem State.freeBits_occ : s.freeBits.2.occ = s.occ := rfl
@[simp] theorem State.freeBits_compactDue : s.freeBits.2.compactDue = s.compactDue := rfl
@[simp] theorem State.freeBits_searched : s.freeBits.2.searched = s.searched := rfl
@[simp] theorem State.freeBits_strips : s.freeBits.2.strips = s.strips := rfl
@[simp] theorem State.freeBits_chans : s.freeBits.2.chans = s.chans := rfl
@[simp] theorem State.freeBits_landings : s.freeBits.2.landings = s.landings := rfl
@[simp] theorem State.freeBits_sel : s.freeBits.2.sel = s.sel := rfl
@[simp] theorem State.freeBits_ckp : s.freeBits.2.ckp = s.ckp := rfl
@[simp] theorem State.freeBits_ckLand : s.freeBits.2.ckLand = s.ckLand := rfl
@[simp] theorem State.freeBits_syn : s.freeBits.2.syn = s.syn := rfl
@[simp] theorem State.freeBits_phasers : s.freeBits.2.phasers = s.phasers := rfl
@[simp] theorem State.freeBits_phWaits : s.freeBits.2.phWaits = s.phWaits := rfl
@[simp] theorem State.freeBits_members : s.freeBits.2.members = s.members := rfl
@[simp] theorem State.freeBits_phNreg : s.freeBits.2.phNreg = s.phNreg := rfl
@[simp] theorem State.freeBits_scopeOps : s.freeBits.2.scopeOps = s.scopeOps := rfl
@[simp] theorem State.freeBits_rawAcc : s.freeBits.2.rawAcc = s.rawAcc := rfl
@[simp] theorem State.freeBits_tenants : s.freeBits.2.tenants = s.tenants := rfl
@[simp] theorem State.freeBits_dies : s.freeBits.2.dies = s.dies := rfl
@[simp] theorem State.freeBits_pageOver : s.freeBits.2.pageOver = s.pageOver := rfl
@[simp] theorem State.freeBits_tasks : s.freeBits.2.tasks = s.tasks := rfl
@[simp] theorem State.freeBits_nextId : s.freeBits.2.nextId = s.nextId := rfl
@[simp] theorem State.freeBits_replays : s.freeBits.2.replays = s.replays := rfl
@[simp] theorem State.freeBits_images : s.freeBits.2.images = s.images := rfl
@[simp] theorem State.freeBits_msgMasks : s.freeBits.2.msgMasks = s.msgMasks := rfl
@[simp] theorem State.freeBits_slow : s.freeBits.2.slow = s.slow := rfl
@[simp] theorem State.freeBits_routes : s.freeBits.2.routes = s.routes := rfl
@[simp] theorem State.freeBits_links : s.freeBits.2.links = s.links := rfl
@[simp] theorem State.freeBits_platform : s.freeBits.2.platform = s.platform := rfl
@[simp] theorem State.freeBits_hostRead : s.freeBits.2.hostRead = s.hostRead := rfl
@[simp] theorem State.freeBits_peerReply : s.freeBits.2.peerReply = s.peerReply := rfl
@[simp] theorem State.freeBits_inputs : s.freeBits.2.inputs = s.inputs := rfl
@[simp] theorem State.freeBits_issue : s.freeBits.2.issue = s.issue := rfl
@[simp] theorem State.freeBits_storeSeq : s.freeBits.2.storeSeq = s.storeSeq := rfl
@[simp] theorem State.freeBits_resultSeq : s.freeBits.2.resultSeq = s.resultSeq := rfl
@[simp] theorem State.freeBits_free : s.freeBits.2.free = s.free + 1 := rfl

/-! ## What is read of a part another update changes -/

@[simp] theorem State.setCtx_taskOf (c : Nat) (x : Ctx) (at_ : Nat) : (s.setCtx c x).task at_ = s.task at_ := rfl
@[simp] theorem State.setCtx_tenantOf (c : Nat) (x : Ctx) (at_ : Nat) : (s.setCtx c x).tenant at_ = s.tenant at_ := rfl
@[simp] theorem State.setCtx_dieOf (c : Nat) (x : Ctx) (at_ : Nat) : (s.setCtx c x).die at_ = s.die at_ := rfl
@[simp] theorem State.modCtx_taskOf (c : Nat) (f : Ctx → Ctx) (at_ : Nat) : (s.modCtx c f).task at_ = s.task at_ := rfl
@[simp] theorem State.modCtx_tenantOf (c : Nat) (f : Ctx → Ctx) (at_ : Nat) : (s.modCtx c f).tenant at_ = s.tenant at_ := rfl
@[simp] theorem State.modCtx_dieOf (c : Nat) (f : Ctx → Ctx) (at_ : Nat) : (s.modCtx c f).die at_ = s.die at_ := rfl
@[simp] theorem State.modTask_ctxOf (i : Nat) (f : Task → Task) (at_ : Nat) : (s.modTask i f).ctx at_ = s.ctx at_ := rfl
@[simp] theorem State.modTask_tenantOf (i : Nat) (f : Task → Task) (at_ : Nat) : (s.modTask i f).tenant at_ = s.tenant at_ := rfl
@[simp] theorem State.modTask_dieOf (i : Nat) (f : Task → Task) (at_ : Nat) : (s.modTask i f).die at_ = s.die at_ := rfl
@[simp] theorem State.modTenant_ctxOf (t : Nat) (f : Tenant → Tenant) (at_ : Nat) : (s.modTenant t f).ctx at_ = s.ctx at_ := rfl
@[simp] theorem State.modTenant_taskOf (t : Nat) (f : Tenant → Tenant) (at_ : Nat) : (s.modTenant t f).task at_ = s.task at_ := rfl
@[simp] theorem State.modTenant_dieOf (t : Nat) (f : Tenant → Tenant) (at_ : Nat) : (s.modTenant t f).die at_ = s.die at_ := rfl
@[simp] theorem State.modDie_ctxOf (d : Nat) (f : Die → Die) (at_ : Nat) : (s.modDie d f).ctx at_ = s.ctx at_ := rfl
@[simp] theorem State.modDie_taskOf (d : Nat) (f : Die → Die) (at_ : Nat) : (s.modDie d f).task at_ = s.task at_ := rfl
@[simp] theorem State.modDie_tenantOf (d : Nat) (f : Die → Die) (at_ : Nat) : (s.modDie d f).tenant at_ = s.tenant at_ := rfl
@[simp] theorem State.raiseEvent_ctxOf (d : Nat) (e : Event) (at_ : Nat) : (s.raiseEvent d e).ctx at_ = s.ctx at_ := rfl
@[simp] theorem State.raiseEvent_taskOf (d : Nat) (e : Event) (at_ : Nat) : (s.raiseEvent d e).task at_ = s.task at_ := rfl
@[simp] theorem State.raiseEvent_tenantOf (d : Nat) (e : Event) (at_ : Nat) : (s.raiseEvent d e).tenant at_ = s.tenant at_ := rfl
@[simp] theorem State.modStrip_ctxOf (j : Nat) (f : Strip → Strip) (at_ : Nat) : (s.modStrip j f).ctx at_ = s.ctx at_ := rfl
@[simp] theorem State.modStrip_taskOf (j : Nat) (f : Strip → Strip) (at_ : Nat) : (s.modStrip j f).task at_ = s.task at_ := rfl
@[simp] theorem State.modStrip_tenantOf (j : Nat) (f : Strip → Strip) (at_ : Nat) : (s.modStrip j f).tenant at_ = s.tenant at_ := rfl
@[simp] theorem State.modStrip_dieOf (j : Nat) (f : Strip → Strip) (at_ : Nat) : (s.modStrip j f).die at_ = s.die at_ := rfl
@[simp] theorem State.modNode_ctxOf (l : Nat) (f : Node → Node) (at_ : Nat) : (s.modNode l f).ctx at_ = s.ctx at_ := rfl
@[simp] theorem State.modNode_taskOf (l : Nat) (f : Node → Node) (at_ : Nat) : (s.modNode l f).task at_ = s.task at_ := rfl
@[simp] theorem State.modNode_tenantOf (l : Nat) (f : Node → Node) (at_ : Nat) : (s.modNode l f).tenant at_ = s.tenant at_ := rfl
@[simp] theorem State.modNode_dieOf (l : Nat) (f : Node → Node) (at_ : Nat) : (s.modNode l f).die at_ = s.die at_ := rfl
@[simp] theorem State.writeSpad_ctxOf (k : Nat) (bs : List Byte) (at_ : Nat) : (s.writeSpad k bs).ctx at_ = s.ctx at_ := rfl
@[simp] theorem State.writeSpad_taskOf (k : Nat) (bs : List Byte) (at_ : Nat) : (s.writeSpad k bs).task at_ = s.task at_ := rfl
@[simp] theorem State.writeSpad_tenantOf (k : Nat) (bs : List Byte) (at_ : Nat) : (s.writeSpad k bs).tenant at_ = s.tenant at_ := rfl
@[simp] theorem State.writeSpad_dieOf (k : Nat) (bs : List Byte) (at_ : Nat) : (s.writeSpad k bs).die at_ = s.die at_ := rfl
@[simp] theorem State.release_ctxOf (c t : Nat) (at_ : Nat) : (s.release c t).ctx at_ = s.ctx at_ := rfl
@[simp] theorem State.release_taskOf (c t : Nat) (at_ : Nat) : (s.release c t).task at_ = s.task at_ := rfl
@[simp] theorem State.release_tenantOf (c t : Nat) (at_ : Nat) : (s.release c t).tenant at_ = s.tenant at_ := rfl
@[simp] theorem State.release_dieOf (c t : Nat) (at_ : Nat) : (s.release c t).die at_ = s.die at_ := rfl
@[simp] theorem State.modPlatform_ctxOf (f : Platform → Platform) (at_ : Nat) : (s.modPlatform f).ctx at_ = s.ctx at_ := rfl
@[simp] theorem State.modPlatform_taskOf (f : Platform → Platform) (at_ : Nat) : (s.modPlatform f).task at_ = s.task at_ := rfl
@[simp] theorem State.modPlatform_tenantOf (f : Platform → Platform) (at_ : Nat) : (s.modPlatform f).tenant at_ = s.tenant at_ := rfl
@[simp] theorem State.modPlatform_dieOf (f : Platform → Platform) (at_ : Nat) : (s.modPlatform f).die at_ = s.die at_ := rfl
@[simp] theorem State.finishOp_taskOf (c i n : Nat) (at_ : Nat) : (s.finishOp c i n).task at_ = s.task at_ := rfl
@[simp] theorem State.finishOp_tenantOf (c i n : Nat) (at_ : Nat) : (s.finishOp c i n).tenant at_ = s.tenant at_ := rfl
@[simp] theorem State.finishOp_dieOf (c i n : Nat) (at_ : Nat) : (s.finishOp c i n).die at_ = s.die at_ := rfl
@[simp] theorem State.latchDenial_taskOf (c i va num : Nat) (p : Bool) (at_ : Nat) : (s.latchDenial c i va num p).task at_ = s.task at_ := rfl
@[simp] theorem State.latchDenial_tenantOf (c i va num : Nat) (p : Bool) (at_ : Nat) : (s.latchDenial c i va num p).tenant at_ = s.tenant at_ := rfl
@[simp] theorem State.latchDenial_dieOf (c i va num : Nat) (p : Bool) (at_ : Nat) : (s.latchDenial c i va num p).die at_ = s.die at_ := rfl

variable (x : Ctx)


/-! ## Ctx.modCol -/

@[simp] theorem Ctx.modCol_clusters (j : Nat) (f : Column → Column) : (x.modCol j f).clusters = x.clusters := rfl
@[simp] theorem Ctx.modCol_rd (j : Nat) (f : Column → Column) : (x.modCol j f).rd = x.rd := rfl
@[simp] theorem Ctx.modCol_guards (j : Nat) (f : Column → Column) : (x.modCol j f).guards = x.guards := rfl
@[simp] theorem Ctx.modCol_parked (j : Nat) (f : Column → Column) : (x.modCol j f).parked = x.parked := rfl
@[simp] theorem Ctx.modCol_lc (j : Nat) (f : Column → Column) : (x.modCol j f).lc = x.lc := rfl
@[simp] theorem Ctx.modCol_rb (j : Nat) (f : Column → Column) : (x.modCol j f).rb = x.rb := rfl
@[simp] theorem Ctx.modCol_cq (j : Nat) (f : Column → Column) : (x.modCol j f).cq = x.cq := rfl
@[simp] theorem Ctx.modCol_wid (j : Nat) (f : Column → Column) : (x.modCol j f).wid = x.wid := rfl
@[simp] theorem Ctx.modCol_nst (j : Nat) (f : Column → Column) : (x.modCol j f).nst = x.nst := rfl
@[simp] theorem Ctx.modCol_rnk (j : Nat) (f : Column → Column) : (x.modCol j f).rnk = x.rnk := rfl
@[simp] theorem Ctx.modCol_rnc (j : Nat) (f : Column → Column) : (x.modCol j f).rnc = x.rnc := rfl
@[simp] theorem Ctx.modCol_wcol (j : Nat) (f : Column → Column) : (x.modCol j f).wcol = x.wcol := rfl
@[simp] theorem Ctx.modCol_held (j : Nat) (f : Column → Column) : (x.modCol j f).held = x.held := rfl
@[simp] theorem Ctx.modCol_loops (j : Nat) (f : Column → Column) : (x.modCol j f).loops = x.loops := rfl
@[simp] theorem Ctx.modCol_pst (j : Nat) (f : Column → Column) : (x.modCol j f).pst = x.pst := rfl
@[simp] theorem Ctx.modCol_fel (j : Nat) (f : Column → Column) : (x.modCol j f).fel = x.fel := rfl
@[simp] theorem Ctx.modCol_fer (j : Nat) (f : Column → Column) : (x.modCol j f).fer = x.fer := rfl
@[simp] theorem Ctx.modCol_pl (j : Nat) (f : Column → Column) : (x.modCol j f).pl = x.pl := rfl
@[simp] theorem Ctx.modCol_strt (j : Nat) (f : Column → Column) : (x.modCol j f).strt = x.strt := rfl
@[simp] theorem Ctx.modCol_rem (j : Nat) (f : Column → Column) : (x.modCol j f).rem = x.rem := rfl
@[simp] theorem Ctx.modCol_links (j : Nat) (f : Column → Column) : (x.modCol j f).links = x.links := rfl
@[simp] theorem Ctx.modCol_tvec (j : Nat) (f : Column → Column) : (x.modCol j f).tvec = x.tvec := rfl
@[simp] theorem Ctx.modCol_tcs (j : Nat) (f : Column → Column) : (x.modCol j f).tcs = x.tcs := rfl
@[simp] theorem Ctx.modCol_tpc (j : Nat) (f : Column → Column) : (x.modCol j f).tpc = x.tpc := rfl
@[simp] theorem Ctx.modCol_tres (j : Nat) (f : Column → Column) : (x.modCol j f).tres = x.tres := rfl
@[simp] theorem Ctx.modCol_tinf (j : Nat) (f : Column → Column) : (x.modCol j f).tinf = x.tinf := rfl
@[simp] theorem Ctx.modCol_tseg (j : Nat) (f : Column → Column) : (x.modCol j f).tseg = x.tseg := rfl
@[simp] theorem Ctx.modCol_pc (j : Nat) (f : Column → Column) : (x.modCol j f).pc = x.pc := rfl
@[simp] theorem Ctx.modCol_tl (j : Nat) (f : Column → Column) : (x.modCol j f).tl = x.tl := rfl
@[simp] theorem Ctx.modCol_scopes (j : Nat) (f : Column → Column) : (x.modCol j f).scopes = x.scopes := rfl
@[simp] theorem Ctx.modCol_flight (j : Nat) (f : Column → Column) : (x.modCol j f).flight = x.flight := rfl
@[simp] theorem Ctx.modCol_replay (j : Nat) (f : Column → Column) : (x.modCol j f).replay = x.replay := rfl
@[simp] theorem Ctx.modCol_fills (j : Nat) (f : Column → Column) : (x.modCol j f).fills = x.fills := rfl
@[simp] theorem Ctx.modCol_synQ (j : Nat) (f : Column → Column) : (x.modCol j f).synQ = x.synQ := rfl
@[simp] theorem Ctx.modCol_perf (j : Nat) (f : Column → Column) : (x.modCol j f).perf = x.perf := rfl
@[simp] theorem Ctx.modCol_perfNow (j : Nat) (f : Column → Column) : (x.modCol j f).perfNow = x.perfNow := rfl
@[simp] theorem Ctx.modCol_cxid (j : Nat) (f : Column → Column) : (x.modCol j f).cxid = x.cxid := rfl
@[simp] theorem Ctx.modCol_relBarrier (j : Nat) (f : Column → Column) : (x.modCol j f).relBarrier = x.relBarrier := rfl
@[simp] theorem Ctx.modCol_relSp (j : Nat) (f : Column → Column) : (x.modCol j f).relSp = x.relSp := rfl
@[simp] theorem Ctx.modCol_acq (j : Nat) (f : Column → Column) : (x.modCol j f).acq = x.acq := rfl
@[simp] theorem Ctx.modCol_seen (j : Nat) (f : Column → Column) : (x.modCol j f).seen = x.seen := rfl
@[simp] theorem Ctx.modCol_stranded (j : Nat) (f : Column → Column) : (x.modCol j f).stranded = x.stranded := rfl
@[simp] theorem Ctx.modCol_lost (j : Nat) (f : Column → Column) : (x.modCol j f).lost = x.lost := rfl
@[simp] theorem Ctx.modCol_wrote (j : Nat) (f : Column → Column) : (x.modCol j f).wrote = x.wrote := rfl
@[simp] theorem Ctx.modCol_acquires (j : Nat) (f : Column → Column) : (x.modCol j f).acquires = x.acquires := rfl
@[simp] theorem Ctx.modCol_run (j : Nat) (f : Column → Column) : (x.modCol j f).run = x.run := rfl
@[simp] theorem Ctx.modCol_task (j : Nat) (f : Column → Column) : (x.modCol j f).task = x.task := rfl
@[simp] theorem Ctx.modCol_seg (j : Nat) (f : Column → Column) : (x.modCol j f).seg = x.seg := rfl
@[simp] theorem Ctx.modCol_start (j : Nat) (f : Column → Column) : (x.modCol j f).start = x.start := rfl
@[simp] theorem Ctx.modCol_shift (j : Nat) (f : Column → Column) : (x.modCol j f).shift = x.shift := rfl
@[simp] theorem Ctx.modCol_base (j : Nat) (f : Column → Column) : (x.modCol j f).base = x.base := rfl
@[simp] theorem Ctx.modCol_aged (j : Nat) (f : Column → Column) : (x.modCol j f).aged = x.aged := rfl
@[simp] theorem Ctx.modCol_pendL (j : Nat) (f : Column → Column) : (x.modCol j f).pendL = x.pendL := rfl
@[simp] theorem Ctx.modCol_pendP (j : Nat) (f : Column → Column) : (x.modCol j f).pendP = x.pendP := rfl
@[simp] theorem Ctx.modCol_pendO (j : Nat) (f : Column → Column) : (x.modCol j f).pendO = x.pendO := rfl
@[simp] theorem Ctx.modCol_nowFlags (j : Nat) (f : Column → Column) : (x.modCol j f).nowFlags = x.nowFlags := rfl
@[simp] theorem Ctx.modCol_nextFlags (j : Nat) (f : Column → Column) : (x.modCol j f).nextFlags = x.nextFlags := rfl
@[simp] theorem Ctx.modCol_walked (j : Nat) (f : Column → Column) : (x.modCol j f).walked = x.walked := rfl
@[simp] theorem Ctx.modCol_preReq (j : Nat) (f : Column → Column) : (x.modCol j f).preReq = x.preReq := rfl
@[simp] theorem Ctx.modCol_slice (j : Nat) (f : Column → Column) : (x.modCol j f).slice = x.slice := rfl
@[simp] theorem Ctx.modCol_issuedAt (j : Nat) (f : Column → Column) : (x.modCol j f).issuedAt = x.issuedAt := rfl
theorem Ctx.modCol_cols (j : Nat) (f : Column → Column) : (x.modCol j f).cols = vmod x.cols j f := rfl

/-! ## Ctx.modCluster -/

@[simp] theorem Ctx.modCluster_cols (j : Nat) (f : Cluster → Cluster) : (x.modCluster j f).cols = x.cols := rfl
@[simp] theorem Ctx.modCluster_rd (j : Nat) (f : Cluster → Cluster) : (x.modCluster j f).rd = x.rd := rfl
@[simp] theorem Ctx.modCluster_guards (j : Nat) (f : Cluster → Cluster) : (x.modCluster j f).guards = x.guards := rfl
@[simp] theorem Ctx.modCluster_parked (j : Nat) (f : Cluster → Cluster) : (x.modCluster j f).parked = x.parked := rfl
@[simp] theorem Ctx.modCluster_lc (j : Nat) (f : Cluster → Cluster) : (x.modCluster j f).lc = x.lc := rfl
@[simp] theorem Ctx.modCluster_rb (j : Nat) (f : Cluster → Cluster) : (x.modCluster j f).rb = x.rb := rfl
@[simp] theorem Ctx.modCluster_cq (j : Nat) (f : Cluster → Cluster) : (x.modCluster j f).cq = x.cq := rfl
@[simp] theorem Ctx.modCluster_wid (j : Nat) (f : Cluster → Cluster) : (x.modCluster j f).wid = x.wid := rfl
@[simp] theorem Ctx.modCluster_nst (j : Nat) (f : Cluster → Cluster) : (x.modCluster j f).nst = x.nst := rfl
@[simp] theorem Ctx.modCluster_rnk (j : Nat) (f : Cluster → Cluster) : (x.modCluster j f).rnk = x.rnk := rfl
@[simp] theorem Ctx.modCluster_rnc (j : Nat) (f : Cluster → Cluster) : (x.modCluster j f).rnc = x.rnc := rfl
@[simp] theorem Ctx.modCluster_wcol (j : Nat) (f : Cluster → Cluster) : (x.modCluster j f).wcol = x.wcol := rfl
@[simp] theorem Ctx.modCluster_held (j : Nat) (f : Cluster → Cluster) : (x.modCluster j f).held = x.held := rfl
@[simp] theorem Ctx.modCluster_loops (j : Nat) (f : Cluster → Cluster) : (x.modCluster j f).loops = x.loops := rfl
@[simp] theorem Ctx.modCluster_pst (j : Nat) (f : Cluster → Cluster) : (x.modCluster j f).pst = x.pst := rfl
@[simp] theorem Ctx.modCluster_fel (j : Nat) (f : Cluster → Cluster) : (x.modCluster j f).fel = x.fel := rfl
@[simp] theorem Ctx.modCluster_fer (j : Nat) (f : Cluster → Cluster) : (x.modCluster j f).fer = x.fer := rfl
@[simp] theorem Ctx.modCluster_pl (j : Nat) (f : Cluster → Cluster) : (x.modCluster j f).pl = x.pl := rfl
@[simp] theorem Ctx.modCluster_strt (j : Nat) (f : Cluster → Cluster) : (x.modCluster j f).strt = x.strt := rfl
@[simp] theorem Ctx.modCluster_rem (j : Nat) (f : Cluster → Cluster) : (x.modCluster j f).rem = x.rem := rfl
@[simp] theorem Ctx.modCluster_links (j : Nat) (f : Cluster → Cluster) : (x.modCluster j f).links = x.links := rfl
@[simp] theorem Ctx.modCluster_tvec (j : Nat) (f : Cluster → Cluster) : (x.modCluster j f).tvec = x.tvec := rfl
@[simp] theorem Ctx.modCluster_tcs (j : Nat) (f : Cluster → Cluster) : (x.modCluster j f).tcs = x.tcs := rfl
@[simp] theorem Ctx.modCluster_tpc (j : Nat) (f : Cluster → Cluster) : (x.modCluster j f).tpc = x.tpc := rfl
@[simp] theorem Ctx.modCluster_tres (j : Nat) (f : Cluster → Cluster) : (x.modCluster j f).tres = x.tres := rfl
@[simp] theorem Ctx.modCluster_tinf (j : Nat) (f : Cluster → Cluster) : (x.modCluster j f).tinf = x.tinf := rfl
@[simp] theorem Ctx.modCluster_tseg (j : Nat) (f : Cluster → Cluster) : (x.modCluster j f).tseg = x.tseg := rfl
@[simp] theorem Ctx.modCluster_pc (j : Nat) (f : Cluster → Cluster) : (x.modCluster j f).pc = x.pc := rfl
@[simp] theorem Ctx.modCluster_tl (j : Nat) (f : Cluster → Cluster) : (x.modCluster j f).tl = x.tl := rfl
@[simp] theorem Ctx.modCluster_scopes (j : Nat) (f : Cluster → Cluster) : (x.modCluster j f).scopes = x.scopes := rfl
@[simp] theorem Ctx.modCluster_flight (j : Nat) (f : Cluster → Cluster) : (x.modCluster j f).flight = x.flight := rfl
@[simp] theorem Ctx.modCluster_replay (j : Nat) (f : Cluster → Cluster) : (x.modCluster j f).replay = x.replay := rfl
@[simp] theorem Ctx.modCluster_fills (j : Nat) (f : Cluster → Cluster) : (x.modCluster j f).fills = x.fills := rfl
@[simp] theorem Ctx.modCluster_synQ (j : Nat) (f : Cluster → Cluster) : (x.modCluster j f).synQ = x.synQ := rfl
@[simp] theorem Ctx.modCluster_perf (j : Nat) (f : Cluster → Cluster) : (x.modCluster j f).perf = x.perf := rfl
@[simp] theorem Ctx.modCluster_perfNow (j : Nat) (f : Cluster → Cluster) : (x.modCluster j f).perfNow = x.perfNow := rfl
@[simp] theorem Ctx.modCluster_cxid (j : Nat) (f : Cluster → Cluster) : (x.modCluster j f).cxid = x.cxid := rfl
@[simp] theorem Ctx.modCluster_relBarrier (j : Nat) (f : Cluster → Cluster) : (x.modCluster j f).relBarrier = x.relBarrier := rfl
@[simp] theorem Ctx.modCluster_relSp (j : Nat) (f : Cluster → Cluster) : (x.modCluster j f).relSp = x.relSp := rfl
@[simp] theorem Ctx.modCluster_acq (j : Nat) (f : Cluster → Cluster) : (x.modCluster j f).acq = x.acq := rfl
@[simp] theorem Ctx.modCluster_seen (j : Nat) (f : Cluster → Cluster) : (x.modCluster j f).seen = x.seen := rfl
@[simp] theorem Ctx.modCluster_stranded (j : Nat) (f : Cluster → Cluster) : (x.modCluster j f).stranded = x.stranded := rfl
@[simp] theorem Ctx.modCluster_lost (j : Nat) (f : Cluster → Cluster) : (x.modCluster j f).lost = x.lost := rfl
@[simp] theorem Ctx.modCluster_wrote (j : Nat) (f : Cluster → Cluster) : (x.modCluster j f).wrote = x.wrote := rfl
@[simp] theorem Ctx.modCluster_acquires (j : Nat) (f : Cluster → Cluster) : (x.modCluster j f).acquires = x.acquires := rfl
@[simp] theorem Ctx.modCluster_run (j : Nat) (f : Cluster → Cluster) : (x.modCluster j f).run = x.run := rfl
@[simp] theorem Ctx.modCluster_task (j : Nat) (f : Cluster → Cluster) : (x.modCluster j f).task = x.task := rfl
@[simp] theorem Ctx.modCluster_seg (j : Nat) (f : Cluster → Cluster) : (x.modCluster j f).seg = x.seg := rfl
@[simp] theorem Ctx.modCluster_start (j : Nat) (f : Cluster → Cluster) : (x.modCluster j f).start = x.start := rfl
@[simp] theorem Ctx.modCluster_shift (j : Nat) (f : Cluster → Cluster) : (x.modCluster j f).shift = x.shift := rfl
@[simp] theorem Ctx.modCluster_base (j : Nat) (f : Cluster → Cluster) : (x.modCluster j f).base = x.base := rfl
@[simp] theorem Ctx.modCluster_aged (j : Nat) (f : Cluster → Cluster) : (x.modCluster j f).aged = x.aged := rfl
@[simp] theorem Ctx.modCluster_pendL (j : Nat) (f : Cluster → Cluster) : (x.modCluster j f).pendL = x.pendL := rfl
@[simp] theorem Ctx.modCluster_pendP (j : Nat) (f : Cluster → Cluster) : (x.modCluster j f).pendP = x.pendP := rfl
@[simp] theorem Ctx.modCluster_pendO (j : Nat) (f : Cluster → Cluster) : (x.modCluster j f).pendO = x.pendO := rfl
@[simp] theorem Ctx.modCluster_nowFlags (j : Nat) (f : Cluster → Cluster) : (x.modCluster j f).nowFlags = x.nowFlags := rfl
@[simp] theorem Ctx.modCluster_nextFlags (j : Nat) (f : Cluster → Cluster) : (x.modCluster j f).nextFlags = x.nextFlags := rfl
@[simp] theorem Ctx.modCluster_walked (j : Nat) (f : Cluster → Cluster) : (x.modCluster j f).walked = x.walked := rfl
@[simp] theorem Ctx.modCluster_preReq (j : Nat) (f : Cluster → Cluster) : (x.modCluster j f).preReq = x.preReq := rfl
@[simp] theorem Ctx.modCluster_slice (j : Nat) (f : Cluster → Cluster) : (x.modCluster j f).slice = x.slice := rfl
@[simp] theorem Ctx.modCluster_issuedAt (j : Nat) (f : Cluster → Cluster) : (x.modCluster j f).issuedAt = x.issuedAt := rfl
theorem Ctx.modCluster_clusters (j : Nat) (f : Cluster → Cluster) : (x.modCluster j f).clusters = vmod x.clusters j f := rfl

/-! ## Ctx.count -/

@[simp] theorem Ctx.count_clusters (i n : Nat) : (x.count i n).clusters = x.clusters := rfl
@[simp] theorem Ctx.count_cols (i n : Nat) : (x.count i n).cols = x.cols := rfl
@[simp] theorem Ctx.count_rd (i n : Nat) : (x.count i n).rd = x.rd := rfl
@[simp] theorem Ctx.count_guards (i n : Nat) : (x.count i n).guards = x.guards := rfl
@[simp] theorem Ctx.count_parked (i n : Nat) : (x.count i n).parked = x.parked := rfl
@[simp] theorem Ctx.count_lc (i n : Nat) : (x.count i n).lc = x.lc := rfl
@[simp] theorem Ctx.count_rb (i n : Nat) : (x.count i n).rb = x.rb := rfl
@[simp] theorem Ctx.count_cq (i n : Nat) : (x.count i n).cq = x.cq := rfl
@[simp] theorem Ctx.count_wid (i n : Nat) : (x.count i n).wid = x.wid := rfl
@[simp] theorem Ctx.count_nst (i n : Nat) : (x.count i n).nst = x.nst := rfl
@[simp] theorem Ctx.count_rnk (i n : Nat) : (x.count i n).rnk = x.rnk := rfl
@[simp] theorem Ctx.count_rnc (i n : Nat) : (x.count i n).rnc = x.rnc := rfl
@[simp] theorem Ctx.count_wcol (i n : Nat) : (x.count i n).wcol = x.wcol := rfl
@[simp] theorem Ctx.count_held (i n : Nat) : (x.count i n).held = x.held := rfl
@[simp] theorem Ctx.count_loops (i n : Nat) : (x.count i n).loops = x.loops := rfl
@[simp] theorem Ctx.count_pst (i n : Nat) : (x.count i n).pst = x.pst := rfl
@[simp] theorem Ctx.count_fel (i n : Nat) : (x.count i n).fel = x.fel := rfl
@[simp] theorem Ctx.count_fer (i n : Nat) : (x.count i n).fer = x.fer := rfl
@[simp] theorem Ctx.count_pl (i n : Nat) : (x.count i n).pl = x.pl := rfl
@[simp] theorem Ctx.count_strt (i n : Nat) : (x.count i n).strt = x.strt := rfl
@[simp] theorem Ctx.count_rem (i n : Nat) : (x.count i n).rem = x.rem := rfl
@[simp] theorem Ctx.count_links (i n : Nat) : (x.count i n).links = x.links := rfl
@[simp] theorem Ctx.count_tvec (i n : Nat) : (x.count i n).tvec = x.tvec := rfl
@[simp] theorem Ctx.count_tcs (i n : Nat) : (x.count i n).tcs = x.tcs := rfl
@[simp] theorem Ctx.count_tpc (i n : Nat) : (x.count i n).tpc = x.tpc := rfl
@[simp] theorem Ctx.count_tres (i n : Nat) : (x.count i n).tres = x.tres := rfl
@[simp] theorem Ctx.count_tinf (i n : Nat) : (x.count i n).tinf = x.tinf := rfl
@[simp] theorem Ctx.count_tseg (i n : Nat) : (x.count i n).tseg = x.tseg := rfl
@[simp] theorem Ctx.count_pc (i n : Nat) : (x.count i n).pc = x.pc := rfl
@[simp] theorem Ctx.count_tl (i n : Nat) : (x.count i n).tl = x.tl := rfl
@[simp] theorem Ctx.count_scopes (i n : Nat) : (x.count i n).scopes = x.scopes := rfl
@[simp] theorem Ctx.count_flight (i n : Nat) : (x.count i n).flight = x.flight := rfl
@[simp] theorem Ctx.count_replay (i n : Nat) : (x.count i n).replay = x.replay := rfl
@[simp] theorem Ctx.count_fills (i n : Nat) : (x.count i n).fills = x.fills := rfl
@[simp] theorem Ctx.count_synQ (i n : Nat) : (x.count i n).synQ = x.synQ := rfl
@[simp] theorem Ctx.count_cxid (i n : Nat) : (x.count i n).cxid = x.cxid := rfl
@[simp] theorem Ctx.count_relBarrier (i n : Nat) : (x.count i n).relBarrier = x.relBarrier := rfl
@[simp] theorem Ctx.count_relSp (i n : Nat) : (x.count i n).relSp = x.relSp := rfl
@[simp] theorem Ctx.count_acq (i n : Nat) : (x.count i n).acq = x.acq := rfl
@[simp] theorem Ctx.count_seen (i n : Nat) : (x.count i n).seen = x.seen := rfl
@[simp] theorem Ctx.count_stranded (i n : Nat) : (x.count i n).stranded = x.stranded := rfl
@[simp] theorem Ctx.count_lost (i n : Nat) : (x.count i n).lost = x.lost := rfl
@[simp] theorem Ctx.count_wrote (i n : Nat) : (x.count i n).wrote = x.wrote := rfl
@[simp] theorem Ctx.count_acquires (i n : Nat) : (x.count i n).acquires = x.acquires := rfl
@[simp] theorem Ctx.count_run (i n : Nat) : (x.count i n).run = x.run := rfl
@[simp] theorem Ctx.count_task (i n : Nat) : (x.count i n).task = x.task := rfl
@[simp] theorem Ctx.count_seg (i n : Nat) : (x.count i n).seg = x.seg := rfl
@[simp] theorem Ctx.count_start (i n : Nat) : (x.count i n).start = x.start := rfl
@[simp] theorem Ctx.count_shift (i n : Nat) : (x.count i n).shift = x.shift := rfl
@[simp] theorem Ctx.count_base (i n : Nat) : (x.count i n).base = x.base := rfl
@[simp] theorem Ctx.count_aged (i n : Nat) : (x.count i n).aged = x.aged := rfl
@[simp] theorem Ctx.count_pendL (i n : Nat) : (x.count i n).pendL = x.pendL := rfl
@[simp] theorem Ctx.count_pendP (i n : Nat) : (x.count i n).pendP = x.pendP := rfl
@[simp] theorem Ctx.count_pendO (i n : Nat) : (x.count i n).pendO = x.pendO := rfl
@[simp] theorem Ctx.count_nowFlags (i n : Nat) : (x.count i n).nowFlags = x.nowFlags := rfl
@[simp] theorem Ctx.count_nextFlags (i n : Nat) : (x.count i n).nextFlags = x.nextFlags := rfl
@[simp] theorem Ctx.count_walked (i n : Nat) : (x.count i n).walked = x.walked := rfl
@[simp] theorem Ctx.count_preReq (i n : Nat) : (x.count i n).preReq = x.preReq := rfl
@[simp] theorem Ctx.count_slice (i n : Nat) : (x.count i n).slice = x.slice := rfl
@[simp] theorem Ctx.count_issuedAt (i n : Nat) : (x.count i n).issuedAt = x.issuedAt := rfl

end Sys2Proof.Machine
end

