-- ==== Sys2Proof/Laws/Memory.lean ====
section
/-! SUPPORT. Memory: reading after writing, and the canonical form every operation over memory keeps. -/

namespace Sys2Proof.Machine

/-! ## The canonical form -/

@[simp] theorem Memory.wfFrom_nil (lo : Option Nat) : Memory.wfFrom lo [] = true := by cases lo <;> rfl

@[simp] theorem Memory.wfFrom_none (a : Nat) (b : Byte) (m : Memory) :
    Memory.wfFrom none ((a, b) :: m) = true ↔ b ≠ 0 ∧ Memory.wfFrom (some a) m = true := by
  simp [Memory.wfFrom]

@[simp] theorem Memory.wfFrom_some (l a : Nat) (b : Byte) (m : Memory) :
    Memory.wfFrom (some l) ((a, b) :: m) = true ↔ l < a ∧ b ≠ 0 ∧ Memory.wfFrom (some a) m = true := by
  simp [Memory.wfFrom, and_assoc]

/-- A lower bound may be lowered. -/
theorem Memory.wfFrom_lower {l l' : Nat} {m : Memory} (hl : l' ≤ l) (h : Memory.wfFrom (some l) m = true) :
    Memory.wfFrom (some l') m = true := by
  cases m with
  | nil => simp
  | cons p m => obtain ⟨a, b⟩ := p; simp only [Memory.wfFrom_some] at *; exact ⟨by omega, h.2⟩

theorem Memory.wfFrom_wf {l : Nat} {m : Memory} (h : Memory.wfFrom (some l) m = true) : m.wf = true := by
  cases m with
  | nil => simp [Memory.wf]
  | cons p m => obtain ⟨a, b⟩ := p; simp only [Memory.wf, Memory.wfFrom_none, Memory.wfFrom_some] at *; exact h.2

/-- Nothing is listed at or below the lower bound. -/
theorem memGet_below {l : Nat} {m : Memory} (h : Memory.wfFrom (some l) m = true) {x : Nat} (hx : x ≤ l) : memGet m x = 0 := by
  induction m generalizing l with
  | nil => rfl
  | cons p m ih =>
    obtain ⟨a, b⟩ := p
    simp only [Memory.wfFrom_some] at h
    simp only [memGet, if_neg (show ¬ a = x by omega)]
    exact ih h.2.2 (by omega)

/-! ## One byte -/

theorem Memory.wfFrom_memPut {l : Nat} {m : Memory} (h : Memory.wfFrom (some l) m = true) {x : Nat} (hx : l < x) (v : Byte) :
    Memory.wfFrom (some l) (memPut m x v) = true := by
  induction m generalizing l with
  | nil => by_cases hv : v = 0#8 <;> simp [memPut, hv, hx]
  | cons p m ih =>
    obtain ⟨a, b⟩ := p
    simp only [Memory.wfFrom_some] at h
    simp only [memPut]
    rcases Nat.lt_trichotomy x a with hlt | rfl | hgt
    · by_cases hv : v = 0#8
      · simpa [hlt, hv] using h
      · simpa [hlt, hv, hx] using h.2
    · by_cases hv : v = 0#8
      · simpa [hv] using Memory.wfFrom_lower (Nat.le_of_lt hx) h.2.2
      · simpa [hv, hx] using h.2.2
    · simpa [show ¬ x < a by omega, show ¬ x = a by omega] using ⟨h.1, h.2.1, ih h.2.2 hgt⟩

theorem Memory.wf_memPut {m : Memory} (h : m.wf = true) (x : Nat) (v : Byte) : (memPut m x v).wf = true := by
  cases m with
  | nil => by_cases hv : v = 0#8 <;> simp [memPut, hv, Memory.wf]
  | cons p m =>
    obtain ⟨a, b⟩ := p
    simp only [Memory.wf, Memory.wfFrom_none] at h
    simp only [memPut]
    rcases Nat.lt_trichotomy x a with hlt | rfl | hgt
    · by_cases hv : v = 0#8
      · simpa [Memory.wf, hlt, hv] using h
      · simpa [Memory.wf, hlt, hv] using h
    · by_cases hv : v = 0#8
      · simpa [hv] using Memory.wfFrom_wf h.2
      · simpa [Memory.wf, hv] using h.2
    · simpa [Memory.wf, show ¬ x < a by omega, show ¬ x = a by omega] using ⟨h.1, Memory.wfFrom_memPut h.2 hgt v⟩

theorem memGet_memPut_from {l : Nat} {m : Memory} (h : Memory.wfFrom (some l) m = true) (x y : Nat) (v : Byte) :
    memGet (memPut m x v) y = if y = x then v else memGet m y := by
  induction m generalizing l with
  | nil => by_cases hv : v = 0#8 <;> by_cases hy : y = x <;> simp [memPut, memGet, hv, hy, Ne.symm (a := y) (b := x)]
  | cons p m ih =>
    obtain ⟨a, b⟩ := p
    simp only [Memory.wfFrom_some] at h
    have low : ∀ {z}, z ≤ a → memGet m z = 0 := fun hz => memGet_below h.2.2 hz
    simp only [memPut]
    rcases Nat.lt_trichotomy x a with hlt | rfl | hgt
    · by_cases hy : y = x
      · subst hy
        by_cases hv : v = 0#8 <;> simp [hlt, hv, memGet, show ¬ a = y by omega, low (Nat.le_of_lt hlt)]
      · by_cases hv : v = 0#8 <;> simp [hlt, hv, memGet, hy, show ¬ x = y by omega]
    · by_cases hy : y = x
      · subst hy
        by_cases hv : v = 0#8 <;> simp [hv, memGet, low (Nat.le_refl _)]
      · by_cases hv : v = 0#8 <;> simp [hv, memGet, hy, show ¬ x = y by omega]
    · simp only [show ¬ x < a by omega, show ¬ x = a by omega, if_false, memGet]
      by_cases ha : a = y
      · simp [ha, show ¬ y = x by omega]
      · simpa [ha] using ih h.2.2

/-- What one byte written reads as, and every other byte as before. -/
theorem memGet_memPut {m : Memory} (h : m.wf = true) (x y : Nat) (v : Byte) :
    memGet (memPut m x v) y = if y = x then v else memGet m y := by
  cases m with
  | nil => exact memGet_memPut_from (l := 0) (by simp) x y v
  | cons p m =>
    obtain ⟨a, b⟩ := p
    simp only [Memory.wf, Memory.wfFrom_none] at h
    rcases Nat.eq_zero_or_pos a with rfl | ha
    · have low : ∀ {z}, z ≤ 0 → memGet m z = 0 := fun hz => memGet_below h.2 hz
      simp only [memPut, Nat.not_lt_zero, if_false]
      by_cases hx : x = 0
      · subst hx
        by_cases hy : y = 0
        · subst hy; by_cases hv : v = 0#8 <;> simp [hv, memGet, low]
        · by_cases hv : v = 0#8 <;> simp [hv, memGet, hy, Ne.symm hy]
      · simp only [hx, if_false, memGet]
        by_cases hy : y = 0
        · simp [hy, Ne.symm hx]
        · simpa [Ne.symm hy] using memGet_memPut_from h.2 x y v
    · exact memGet_memPut_from (l := a - 1) (by simp only [Memory.wfFrom_some]; exact ⟨by omega, h⟩) x y v

/-! ## A run of bytes -/

theorem Memory.wf_memWrite {m : Memory} (h : m.wf = true) (x : Nat) (bs : List Byte) : (memWrite m x bs).wf = true := by
  induction bs generalizing m x with
  | nil => exact h
  | cons b bs ih => exact ih (Memory.wf_memPut h x b) (x + 1)

theorem memGet_memWrite_outside {m : Memory} (h : m.wf = true) {x : Nat} {bs : List Byte} {y : Nat}
    (hy : y < x ∨ x + bs.length ≤ y) : memGet (memWrite m x bs) y = memGet m y := by
  induction bs generalizing m x with
  | nil => rfl
  | cons b bs ih =>
    simp only [List.length_cons] at hy
    rw [memWrite, ih (Memory.wf_memPut h x b) (by omega), memGet_memPut h, if_neg (by omega)]

theorem memGet_memWrite_inside {m : Memory} (h : m.wf = true) {x : Nat} {bs : List Byte} {i : Nat} (hi : i < bs.length) :
    memGet (memWrite m x bs) (x + i) = bs[i] := by
  induction bs generalizing m x i with
  | nil => simp at hi
  | cons b bs ih =>
    cases i with
    | zero => rw [memWrite, memGet_memWrite_outside (Memory.wf_memPut h x b) (by omega), memGet_memPut h]; simp
    | succ i =>
      rw [memWrite, show x + (i + 1) = x + 1 + i by omega, ih (Memory.wf_memPut h x b) (by simpa using hi)]
      simp

@[simp] theorem memRead_length (m : Memory) (x n : Nat) : (memRead m x n).length = n := by
  induction n generalizing x with
  | zero => rfl
  | succ n ih => simp [memRead, ih]

/-- A filter of the list keeps the form. -/
theorem Memory.wfFrom_filter {l : Nat} {m : Memory} (h : Memory.wfFrom (some l) m = true) (p : Host.Cell → Bool) :
    Memory.wfFrom (some l) (m.filter p) = true := by
  induction m generalizing l with
  | nil => simp
  | cons c m ih =>
    obtain ⟨a, b⟩ := c
    simp only [Memory.wfFrom_some] at h
    by_cases hp : p (a, b) = true
    · simpa [List.filter, hp] using ⟨h.1, h.2.1, ih h.2.2⟩
    · simpa [List.filter, hp] using ih (Memory.wfFrom_lower (Nat.le_of_lt h.1) h.2.2)

theorem Memory.wf_filter {m : Memory} (h : m.wf = true) (p : Host.Cell → Bool) : Memory.wf (m.filter p) = true := by
  cases m with
  | nil => simp [Memory.wf]
  | cons c m =>
    obtain ⟨a, b⟩ := c
    simp only [Memory.wf, Memory.wfFrom_none] at h
    by_cases hp : p (a, b) = true
    · simpa [Memory.wf, List.filter, hp] using ⟨h.1, Memory.wfFrom_filter h.2 p⟩
    · simpa [List.filter, hp] using Memory.wfFrom_wf (Memory.wfFrom_filter h.2 p)

/-! ## The named writes -/

theorem State.wf_writeGlobal (s : State) (h : s.mem.wf = true) (pa : Nat) (bs : List Byte) (cx : Option Nat) :
    (s.writeGlobal pa bs cx).mem.wf = true := by
  unfold State.writeGlobal
  split
  · exact h
  · exact Memory.wf_memWrite h pa bs

@[simp] theorem State.writeGlobal_spad (s : State) (pa : Nat) (bs : List Byte) (cx : Option Nat) :
    (s.writeGlobal pa bs cx).spad = s.spad := by
  unfold State.writeGlobal; split <;> rfl

@[simp] theorem State.writeGlobal_ctxs (s : State) (pa : Nat) (bs : List Byte) (cx : Option Nat) :
    (s.writeGlobal pa bs cx).ctxs = s.ctxs := by
  unfold State.writeGlobal; split <;> rfl

@[simp] theorem State.writeGlobal_hostMem (s : State) (pa : Nat) (bs : List Byte) (cx : Option Nat) :
    (s.writeGlobal pa bs cx).hostMem = s.hostMem := by
  unfold State.writeGlobal; split <;> rfl

@[simp] theorem State.writeGlobal_peerMem (s : State) (pa : Nat) (bs : List Byte) (cx : Option Nat) :
    (s.writeGlobal pa bs cx).peerMem = s.peerMem := by
  unfold State.writeGlobal; split <;> rfl

theorem State.writeGlobal_mem (s : State) (pa : Nat) (bs : List Byte) (cx : Option Nat) :
    (s.writeGlobal pa bs cx).mem = memWrite s.mem pa bs := by
  unfold State.writeGlobal
  split
  · rename_i h; simp [List.isEmpty_iff.mp h, memWrite]
  · rfl

theorem State.wf_writeSpad (s : State) (h : s.spad.wf = true) (k : Nat) (bs : List Byte) : (s.writeSpad k bs).spad.wf = true :=
  Memory.wf_memWrite h k bs

/-! ## All memories at once -/

/-- What does not write a memory keeps their forms. -/
theorem State.memoriesOk_of_eq {s t : State} (h : s.MemoriesOk) (h1 : t.mem = s.mem) (h2 : t.spad = s.spad) (h3 : t.spad0 = s.spad0)
    (h4 : t.hostMem = s.hostMem) (h5 : t.peerMem = s.peerMem) : t.MemoriesOk := by
  unfold State.MemoriesOk
  rw [h1, h2, h3, h4, h5]
  exact h

theorem State.memoriesOk_writeGlobal {s : State} (h : s.MemoriesOk) (pa : Nat) (bs : List Byte) (cx : Option Nat) :
    (s.writeGlobal pa bs cx).MemoriesOk := by
  refine ⟨State.wf_writeGlobal s h.1 pa bs cx, by simpa using h.2.1, ?_, by simpa using h.2.2.2.1, by simpa using h.2.2.2.2⟩
  unfold State.writeGlobal
  split
  · exact h.2.2.1
  · exact h.2.2.1

theorem State.memoriesOk_writeSpad {s : State} (h : s.MemoriesOk) (k : Nat) (bs : List Byte) : (s.writeSpad k bs).MemoriesOk :=
  ⟨h.1, State.wf_writeSpad s h.2.1 k bs, h.2.2⟩

/-- A landing's part keeps every memory in its form. -/
theorem State.memoriesOk_putPart {s : State} (h : s.MemoriesOk) (who : Option Writer) (poison : Bool) (p : Space × Nat × List Byte) :
    (s.putPart who poison p).MemoriesOk := by
  obtain ⟨sp, a, bs⟩ := p
  cases sp with
  | scratch _ => exact State.memoriesOk_of_eq (State.memoriesOk_writeSpad h a bs) rfl rfl rfl rfl rfl
  | global =>
    cases who <;> exact State.memoriesOk_of_eq (State.memoriesOk_writeGlobal h a bs _) rfl rfl rfl rfl rfl
  | peer d => exact ⟨h.1, h.2.1, h.2.2.1, h.2.2.2.1, Memory.wf_memWrite h.2.2.2.2 _ bs⟩
  | host => exact ⟨h.1, h.2.1, h.2.2.1, Memory.wf_memWrite h.2.2.2.1 a bs, h.2.2.2.2⟩

theorem State.memoriesOk_setSpad {s : State} (h : s.MemoriesOk) {m : Memory} (hm : m.wf = true) : ({ s with spad := m } : State).MemoriesOk :=
  ⟨h.1, hm, h.2.2⟩

theorem State.memoriesOk_arrive {s : State} (h : s.MemoriesOk) (key b : Nat) : (s.arrive key b).MemoriesOk := by
  unfold State.arrive
  exact State.memoriesOk_setSpad h (Memory.wf_memWrite h.2.1 _ _)

theorem State.memoriesOk_zeroColumns {s : State} (h : s.MemoriesOk) (core : Nat) (cols : List Nat) :
    (s.zeroColumns core cols).MemoriesOk :=
  ⟨h.1, Memory.wf_filter h.2.1 _, Memory.wf_filter h.2.2.1 _, h.2.2.2⟩

end Sys2Proof.Machine
end

