-- ==== Sys2Proof/Laws/Translate.lean ====
section
/-! SUPPORT. A walk level by level (R287), the reads of it that a store above leaves alone, and the lengths of frame bytes. -/

namespace Sys2Proof.Machine

theorem memRead_memWrite_above {m : Memory} (h : m.wf = true) {x : Nat} {bs : List Byte} :
    ∀ {n a : Nat}, a + n ≤ x → memRead (memWrite m x bs) a n = memRead m a n
  | 0, _, _ => rfl
  | n + 1, a, ha => by
    rw [memRead, memRead, memGet_memWrite_outside h (by omega), memRead_memWrite_above h (by omega)]

/-- The walk above level 0. -/
theorem walkFrom_succ (s : State) (tenant va lv a : Nat) : walkFrom s tenant va (lv + 1) a =
    let ea := a + 8 * fld va (12 + 9 * (lv + 1)) 9
    if isPoisoned s.poisonG ea 8 then .poisoned ea
    else
      let e := memNat s.mem ea 8
      if !bitAt e 0 then .absent
      else if bitAt e 1 then (if lv + 1 ≤ 1 then leafEntry tenant va (lv + 1) ea e else .bad ea)
      else if fld e 2 10 != 0 || fld e 52 12 != 0 || fld e 12 40 * 4096 + 4096 > Config.hbmEnd then .bad ea
      else walkFrom s tenant va lv (fld e 12 40 * 4096) := rfl

/-- The walk at level 0. -/
theorem walkFrom_zero (s : State) (tenant va a : Nat) : walkFrom s tenant va 0 a =
    let ea := a + 8 * fld va 12 9
    if isPoisoned s.poisonG ea 8 then .poisoned ea
    else
      let e := memNat s.mem ea 8
      if !bitAt e 0 then .absent
      else if bitAt e 1 then leafEntry tenant va 0 ea e
      else .bad ea := rfl

/-- An entry that is valid, no leaf, and names a table in HBM leads to the next level. -/
theorem walkFrom_next {s : State} {tenant va lv a e next : Nat} (hi : fld va (12 + 9 * (lv + 1)) 9 = 0) (hp : s.poisonG = [])
    (hm : memNat s.mem a 8 = e) (he : (bitAt e 0 && !bitAt e 1 && fld e 2 10 == 0 && fld e 52 12 == 0 && fld e 12 40 * 4096 == next &&
      decide (next + 4096 ≤ Config.hbmEnd)) = true) : walkFrom s tenant va (lv + 1) a = walkFrom s tenant va lv next := by
  simp only [Bool.and_eq_true, Bool.not_eq_true', beq_iff_eq, decide_eq_true_eq] at he
  obtain ⟨⟨⟨⟨⟨h0, h1⟩, h2⟩, h3⟩, rfl⟩, h5⟩ := he
  rw [walkFrom_succ]
  simp only [hi, hp, isPoisoned, List.any_nil, hm, h0, h1, h2, h3, Nat.not_lt.mpr h5, Nat.mul_zero, Nat.add_zero, bne_self_eq_false,
    Bool.or_false, decide_false, Bool.not_true, Bool.false_eq_true, if_false]

/-- A leaf at level 0 ends the walk. -/
theorem walkFrom_leaf {s : State} {tenant va a e : Nat} (hi : fld va 12 9 = 0) (hp : s.poisonG = []) (hm : memNat s.mem a 8 = e)
    (he : (bitAt e 0 && bitAt e 1) = true) : walkFrom s tenant va 0 a = leafEntry tenant va 0 a e := by
  simp only [Bool.and_eq_true] at he
  rw [walkFrom_zero]
  simp only [hi, hp, isPoisoned, List.any_nil, hm, he.1, he.2, Nat.mul_zero, Nat.add_zero, Bool.not_true, Bool.false_eq_true, if_false, if_true]

theorem pieces64_length : ∀ (n : Nat) (l : List Byte), (pieces64 n l).length ≤ n
  | 0, _ => Nat.le_refl _
  | n + 1, l => by
    rw [pieces64]
    split
    · exact Nat.zero_le _
    · exact Nat.succ_le_succ (pieces64_length n _)

theorem freeBytes_length (a n : Nat) : (freeBytes a n).length ≤ n := by simp [freeBytes]

end Sys2Proof.Machine
end

