-- ==== Sys2Proof/Laws/Trigger.lean ====
section
/-! SUPPORT. A trigger in a bundle of its own, or beside a move to rm: what it is given, and that its bundle commits what it does. -/

namespace Sys2Proof.Machine

open Host

/-- What a trigger with a satisfied guard is given, in slot `n`, under the rounding code `code`. -/
def trigEnv (s : State) (c n : Nat) (h : MoveHead) (t : List (Alt 2048)) (code : Nat := 0) : TrigEnv :=
  { slot := n, col := n / 2, g := .yes, t := t.map fun a => { a with hold := false },
    rnd := { code := code, rnk := (s.ctx c).rnk.toNat, rnc := (s.ctx c).rnc.toNat % 2 ^ 64 }, trapEmpty := h.trapEmpty }

/-- The working record of a bundle whose columns round by `rm`. -/
def rmWork (s : State) (c : Nat) (k : Kernel) (rm : List (Nat × Nat)) : Work :=
  { startWork s c k (fun _ => none) with rm := rm, writes := rm.map fun p => (.rm p.1, []) }

/-- The rounding code of a column. -/
def codeOf (rm : List (Nat × Nat)) (col : Nat) : Nat := ((rm.find? (·.1 == col)).map (·.2)).getD 0

/-- The working record that such a trigger works on. -/
def trigWork (s : State) (c n : Nat) (k : Kernel) (h : MoveHead) (t : Trig) (rm : List (Nat × Nat) := []) : Work :=
  { rmWork s c k rm with
    s := s.readBy c h.src
    units := [if t.unit == 4 then 16 else n / 2 * 4 + t.unit]
    rsOps := if t.rounds && codeOf rm (n / 2) == 4 then 1 else 0 }

theorem read_full {w : Work} {slot col : Nat} {h : MoveHead} (he : (w.s0.source w.c w.k col (w.imm col) h.src).empty = none)
    (hs : w.s = w.s0) :
    w.read slot col h = (w.s0.source w.c w.k col (w.imm col) h.src, { w with s := w.s0.readBy w.c h.src }) := by
  unfold Work.read
  dsimp only
  simp only [he]
  cases hsrc : h.src <;> simp [State.readBy, hs] <;> (cases w; simp_all)

theorem trigger_runs {s : State} {c n : Nat} {k : Kernel} {h : MoveHead} {t : Trig} {as : List (Alt 2048)}
    (hg : (s.ctx c).Satisfied h.inv h.g) (hs : s.Supplies c k (n / 2) h.src t.wide as) (rm : List (Nat × Nat)) :
    (rmWork s c k rm).trigger n h t = t.run (trigWork s c n k h t rm) (trigEnv s c n h as (codeOf rm (n / 2))) := by
  obtain ⟨he, rfl⟩ := hs
  unfold Work.trigger
  have hgs : (rmWork s c k rm).gstate h = .yes := hg
  dsimp only
  simp only [hgs]
  have hu : ∀ key, (rmWork s c k rm).useUnit n key = { rmWork s c k rm with units := [key] } := by
    intro key; simp [Work.useUnit, rmWork, startWork]
  simp only [hu]
  have hsrc : ((rmWork s c k rm).s0.source (rmWork s c k rm).c (rmWork s c k rm).k (n / 2) ((rmWork s c k rm).imm (n / 2)) h.src) =
    s.source c k (n / 2) none h.src := rfl
  rw [if_neg (by decide)]
  simp only [hsrc, he]
  rw [read_full (by exact he) rfl]
  simp only [rmWork, startWork, he, trigWork, trigEnv, Work.rounding, Work.x0, codeOf, Option.isSome_none, Nat.zero_add, Nat.add_zero,
    Bool.false_eq_true, if_false]
  congr 1
  split <;> simp only [*, if_true, Bool.false_eq_true, if_false]

/-- The ops of a rounded bundle that holds a trigger. -/
theorem RoundsIn.after {k : Kernel} {n code : Nat} {pre post : List Instr} (hr : RoundsIn k n pre post code) (h : MoveHead) (t : Trig)
    (s : State) (c : Nat) :
    ∃ rm, codeOf rm (n / 2) = code ∧
      let ops := (pre.map slotOf ++ .trig h t :: post.map slotOf).zipIdx (n - pre.length)
      decodeFaultOf k ops = none ∧ Slots.ctls ops = [] ∧ (∀ op ∈ pre.map slotOf ++ .trig h t :: post.map slotOf, ∀ v, op ≠ .imm v) ∧
        ∀ sl, (startWork s c k fun _ => none).after sl ops = (rmWork s c k rm).trigger n h t := by
  have hmv : ∀ m : Fin 5, slotOf (rmMove m) = .move
      { hold := false, trapEmpty := false, inv := false, g := 0, src := .small ⟨8 + m.val, by omega⟩ } .rm := fun _ => rfl
  have early : ∀ (m : Fin 5) (i : Nat) (sl : Slots), i / 2 = n / 2 →
      (startWork s c k fun _ => none).early sl (slotOf (rmMove m), i) = rmWork s c k [(n / 2, m.val)] := by
    intro m i sl hi
    rw [hmv]
    unfold Work.early
    dsimp only
    rw [hi]
    fin_cases m <;> rfl
  have late : ∀ (w : Work) (m : Fin 5) (i : Nat), w.late (slotOf (rmMove m), i) = w := by
    intro w m i
    rw [hmv]
    unfold Work.late Work.moveLate
    dsimp only
    split <;> rfl
  have dec : ∀ m : Fin 5, 0 < k.width → (slotOf (rmMove m)).decodeFault k = none := by
    intro m hk
    rw [hmv]
    unfold SlotOp.decodeFault
    exact if_neg (by simp [destCluster]; omega)
  cases hr with
  | nearest => exact ⟨[], rfl, rfl, rfl, by simp, fun _ => rfl⟩
  | above m hn hk =>
    refine ⟨[(n / 2, m.val)], by simp [codeOf], ?_, rfl, by simp [hmv], fun sl => ?_⟩
    · simp only [decodeFaultOf, List.map_nil, List.map_cons, List.nil_append, List.zipIdx_cons, List.zipIdx_nil, List.findSome?_cons,
        List.findSome?_nil, dec m hk]
      rfl
    · simp only [Work.after, List.map_nil, List.map_cons, List.nil_append, List.zipIdx_cons, List.zipIdx_nil, List.foldl_cons,
        List.foldl_nil, List.length_nil, Nat.sub_zero]
      rw [show ∀ w : Work, w.early sl (.trig h t, n) = w from fun _ => rfl, early m (n + 1) sl (by omega), late]
      rfl
  | below m hn hk =>
    refine ⟨[(n / 2, m.val)], by simp [codeOf], ?_, rfl, by simp [hmv], fun sl => ?_⟩
    · simp only [decodeFaultOf, List.map_nil, List.map_cons, List.cons_append, List.nil_append, List.zipIdx_cons, List.zipIdx_nil,
        List.findSome?_cons, List.findSome?_nil, dec m hk]
      rfl
    · simp only [Work.after, List.map_nil, List.map_cons, List.cons_append, List.nil_append, List.zipIdx_cons, List.zipIdx_nil,
        List.foldl_cons, List.foldl_nil, List.length_cons, List.length_nil]
      rw [early m (n - (0 + 1)) sl (by omega), late, show n - (0 + 1) + 1 = n by omega]
      rfl

/-! ## Values -/

theorem IsValue.mk' (v : Vec) (a : Alt 2048) (hv : a.val = v) (h1 : a.void = false) (h2 : a.term = []) (h3 : a.grey = none) :
    IsValue v [a] := ⟨a, rfl, hv, h1, h2, h3⟩

theorem operand_value {w : Work} {col : Nat} {p : Port} {v : Vec} (h : w.x.PortIs col p v) :
    ∃ as, w.operand col p = some as ∧ IsValue v as := by
  rcases h with ⟨a, ha, hv, h1, h2, h3⟩ | ⟨ha, hv⟩
  · exact ⟨[a], by simp [Work.operand, ha, dropVoid, h1], a, rfl, hv, h1, h2, h3⟩
  · exact ⟨[{ val := v }], by simp [Work.operand, ha, dropVoid, hv], _, rfl, rfl, rfl, rfl, rfl⟩

/-- Operands that are single values, in order. -/
inductive Values : List (List (Alt 2048)) → List Vec → Prop
  | nil : Values [] []
  | cons {as : List (Alt 2048)} {v : Vec} {rest : List (List (Alt 2048))} {vs : List Vec} :
      IsValue v as → Values rest vs → Values (as :: rest) (v :: vs)

theorem Values.append {a b : List (List (Alt 2048))} {x y : List Vec} (h : Values a x) (k : Values b y) : Values (a ++ b) (x ++ y) := by
  induction h with
  | nil => exact k
  | cons h1 _ ih => exact .cons h1 ih

theorem Values.one {as : List (Alt 2048)} {v : Vec} (h : IsValue v as) : Values [as] [v] := .cons h .nil

/-- The one combination of single values. -/
theorem combos_values {ops : List (List (Alt 2048))} {vs : List Vec} (h : Values ops vs) :
    ∃ fl own, combos [] ops = [{ vals := vs, flags := fl, own := own }] := by
  unfold combos
  suffices H : ∀ (pre : List Vec) (f o : Flags), ∃ fl own,
      ops.foldl (fun (cs : List Combo) as => cs.flatMap fun c => (orVoid as).filterMap fun a => c.with a)
          [({ vals := pre, flags := f, own := o } : Combo)] = [({ vals := pre ++ vs, flags := fl, own := own } : Combo)] by
    exact H [] 0 0
  induction h with
  | nil => intro pre f o; exact ⟨f, o, by simp⟩
  | cons h1 _ ih =>
    intro pre f o
    obtain ⟨a, rfl, rfl, hv, ht, hg⟩ := h1
    obtain ⟨fl, own, hr⟩ := ih (pre ++ [a.val]) (f ||| a.flags) (o ||| a.own)
    refine ⟨fl, own, ?_⟩
    rw [List.foldl_cons]
    simpa [orVoid, Combo.with, ht, hg, hv, Term.conj] using hr

/-- A result of single values. -/
theorem formResult_values {ops : List (List (Alt 2048))} {vs : List Vec} (h : Values ops vs) (f : List Vec → Comp) :
    formResult .yes ops f = { alts := [{ val := (f vs).val }], flags := (f vs).flags, fault := (f vs).fault } := by
  obtain ⟨fl, own, hc⟩ := combos_values h
  unfold formResult
  simp only [GState.term, hc]
  simp [formAlt]

@[simp] theorem depthOk_value (v : Vec) : depthOk [({ val := v } : Alt 2048)] = true := rfl

theorem Work.operands_values {w : Work} {e : TrigEnv} {ports : List Port} {vs ms : List Vec} {t : Vec} {mid : List (List (Alt 2048))}
    (hp : List.Forall₂ (fun p v => w.x.PortIs e.col p v) ports vs) (hm : Values mid ms) (ht : IsValue t e.t) :
    Values (w.operands e ports mid) (vs ++ ms ++ [t]) ∧ w.missing e ports = false := by
  have h1 : Values (ports.map fun p => (w.operand e.col p).getD []) vs ∧ w.missing e ports = false := by
    induction hp with
    | nil => exact ⟨.nil, rfl⟩
    | cons h _ ih =>
      obtain ⟨as, ha, hv⟩ := operand_value h
      refine ⟨by simpa [ha] using .cons hv ih.1, ?_⟩
      have := ih.2
      simp_all [Work.missing]
  exact ⟨(h1.1.append hm).append (.one ht), h1.2⟩

/-! ## Frames of consumption -/

/-- The fields of a context that consumption leaves alone are all but its columns. -/
theorem Ctx.setAlts_port (x : Ctx) (j : Nat) (p : Port) (as : List (Alt 2048)) (full : Bool) :
    x.setAlts (.port j p) as full = { x with cols := vmod x.cols j fun c => c.setPort p as } := rfl

theorem Ctx.consumed_cols (x : Ctx) (j : Nat) (g : GState) (ps : List Port) : ∃ cs, x.consumed j g ps = { x with cols := cs } := by
  unfold Ctx.consumed
  induction ps generalizing x with
  | nil => exact ⟨x.cols, rfl⟩
  | cons p ps ih =>
    obtain ⟨cs, h⟩ := ih (x.setAlts (.port j p) (consume g (x.alts (.port j p))))
    exact ⟨cs, by rw [List.foldl_cons, h, Ctx.setAlts_port]⟩

@[simp] theorem Ctx.consumed_flight (x : Ctx) (j : Nat) (g : GState) (ps : List Port) : (x.consumed j g ps).flight = x.flight := by
  obtain ⟨cs, h⟩ := x.consumed_cols j g ps; rw [h]

@[simp] theorem Ctx.consumed_pc (x : Ctx) (j : Nat) (g : GState) (ps : List Port) : (x.consumed j g ps).pc = x.pc := by
  obtain ⟨cs, h⟩ := x.consumed_cols j g ps; rw [h]

@[simp] theorem Ctx.consumed_clusters (x : Ctx) (j : Nat) (g : GState) (ps : List Port) :
    (x.consumed j g ps).clusters = x.clusters := by
  obtain ⟨cs, h⟩ := x.consumed_cols j g ps; rw [h]

/-! ## Firing -/

/-- A result that lands alone is sent. -/
theorem Work.post_alone {w : Work} {e : TrigEnv} {rank lat : Nat} {dest : Loc} {v : Vec} {fl : Flags} {sp : Option (Loc × Vec)}
    {rd : List Term} {red : Option RedStep}
    (hl : w.s.LandsAlone w.c dest lat) (hn : w.s.now = w.s0.now) (hpc : w.x.pc = w.x0.pc) :
    w.post e rank dest lat [{ val := v }] fl sp none rd red = { w with s := w.s.sent w.c e.slot dest lat rank v fl sp red } := by
  have hs : w.x.flight.filter (fun o => o.land == w.now + lat && o.dest == dest) = [] := by
    rw [List.filter_eq_nil_iff]
    intro f hf
    have := hl f hf
    simp only [Work.now, ← hn, Bool.and_eq_true, beq_iff_eq, not_and] at this ⊢
    intro h1 h2
    exact this h1 h2
  unfold Work.post
  dsimp only
  simp only [hs, List.isEmpty_nil, Bool.not_true, Bool.false_and, Bool.false_eq_true, if_false]
  have hx : w.x = w.s.ctx w.c := rfl
  simp only [Work.modX, State.sent, State.sends, Work.now, hn, ← hpc]
  congr 1
  congr 1
  rw [← State.modCtx_ctx w.s w.c (fun x => _), ← State.modCtx_ctx w.s w.c (fun x => { x with flight := x.flight ++
      [{ land := w.s0.now + lat, seq := w.s.resultSeq, slot := e.slot, pc := x.pc, rank := rank, dest := dest, alts := [{ val := v }],
         flags := fl, spill := sp, red := red }] })]
  rfl

/-- A trigger on single values: its ports are consumed and its result is on its way. -/
theorem Work.fire_values {w : Work} {e : TrigEnv} {ports : List Port} {dest : Loc} {lat rank : Nat} {f : List Vec → Comp}
    {mid : List (List (Alt 2048))} {red : Bool → Option RedStep} {vs ms : List Vec} {t : Vec}
    (hg : e.g = .yes) (hp : List.Forall₂ (fun p v => w.x.PortIs e.col p v) ports vs) (hm : Values mid ms) (ht : IsValue t e.t)
    (hf : (f (vs ++ ms ++ [t])).fault = none) (hl : w.s.LandsAlone w.c dest lat) (hn : w.s.now = w.s0.now) (hx : w.x.pc = w.x0.pc)
    (hc : w.c < 8) :
    w.fire e ports dest lat rank f mid red =
      { w with s := (w.s.consumed w.c e.col ports).sent w.c e.slot dest lat rank (f (vs ++ ms ++ [t])).val (f (vs ++ ms ++ [t])).flags
                      none (red false) } := by
  obtain ⟨hv, hmiss⟩ := Work.operands_values hp hm ht
  unfold Work.fire
  dsimp only
  rw [hg, formResult_values hv f]
  simp only [depthOk_value, Bool.not_true, Bool.false_eq_true, if_false, hmiss, hf, List.isEmpty_cons]
  rw [Work.post_alone]
  · simp [Work.consumePorts, Work.modX, State.consumed, hg]
  · intro r hr
    simp only [Work.consumePorts, Work.modX, State.ctx_modCtx_same _ _ hc, Ctx.consumed_flight] at hr
    exact hl r hr
  · exact hn
  · simp only [Work.consumePorts, Work.modX, Work.x, State.ctx_modCtx_same _ _ hc, Ctx.consumed_pc]
    exact hx

/-! ## The bundle of a trigger -/

@[simp] theorem State.readBy_ctx (s : State) (c d : Nat) (src : Source) : (s.readBy c src).ctx d = s.ctx d := by
  cases src <;> rfl

@[simp] theorem State.readBy_now (s : State) (c : Nat) (src : Source) : (s.readBy c src).now = s.now := by
  cases src <;> rfl

/-- A trigger with a satisfied guard and a full source commits what it does, where nothing it does keeps the bundle. -/
theorem issue_trigger {s : State} {c n : Nat} {k : Kernel} {h : MoveHead} {t : Trig} {as : List (Alt 2048)} {pre post : List Instr}
    {code : Nat} (hA : Issues s c n k pre post) (hr : RoundsIn k n pre post code) (hg : (s.ctx c).Satisfied h.inv h.g)
    (hs : s.Supplies c k (n / 2) h.src t.wide as) {w : List (Nat × Nat) → Work}
    (hw : ∀ rm, codeOf rm (n / 2) = code → t.run (trigWork s c n k h t rm) (trigEnv s c n h as code) = w rm)
    (hp : ∀ rm, (w rm).Plain) (hk : ∀ rm, (w rm).k = k) (hc : ∀ rm, (w rm).c = c) (h0 : ∀ rm, (w rm).s0 = s)
    (hn : ∀ rm, (w rm).s.now = s.now) (hpool : ∀ rm j, j < 4 → poolUse (vget (w rm).x.clusters j Cluster.init) ≤ 16)
    (hgo : ∀ rm, (w rm).x.GoesOn k) {out : State} (hout : ∀ rm, codeOf rm (n / 2) = code → (w rm).s.retired c (w rm).rsOps = out) :
    issueSlot (.trig h t) s = .next out := by
  obtain ⟨rm, hcode, hd, hctl, himm, hafter⟩ := hr.after h t s c
  rw [← hout rm hcode]
  refine issueSlot_plain hA rfl hd hctl ?_ (hp rm) (hk rm) (hc rm) (h0 rm) (hn rm) (hpool rm) (hgo rm)
  intro m
  dsimp only
  rw [immediate_mid _ _ _ himm, hafter, trigger_runs hg hs, hcode, hw rm hcode]

/-- A trigger that has consumed its ports and sent its result changed the columns and the results in flight of its context. -/
theorem State.sent_ctx (s : State) {c : Nat} (hc : c < 8) (j : Nat) (ps : List Port) (n : Nat) (dest : Loc) (lat rank : Nat) (v : Vec)
    (fl : Flags) (red : Option RedStep) :
    ∃ cs fs, ((s.consumed c j ps).sent c n dest lat rank v fl none red).ctx c = { s.ctx c with cols := cs, flight := fs } := by
  obtain ⟨cs, hcs⟩ := (s.ctx c).consumed_cols j .yes ps
  unfold State.sent State.sends
  refine ⟨cs, ?_, ?_⟩
  rotate_left
  · change (State.modCtx _ c _).ctx c = _
    rw [State.ctx_modCtx_same _ _ hc]
    unfold State.consumed
    rw [State.ctx_modCtx_same _ _ hc, hcs]

/-- By how much a trigger that rounds under the code moves rnc. -/
def Trig.draws (t : Trig) (code : Nat) : Nat := if t.rounds && code == 4 then 1 else 0

/-- A trigger that fires on single values; `red` is what a fold keeps of its operands. -/
theorem issue_fold {s : State} {c n : Nat} {k : Kernel} {h : MoveHead} {t : Trig} {ports : List Port} {dest : Loc} {lat rank : Nat}
    {f : List Vec → Comp} {mid : List (List (Alt 2048))} {red : List (Alt 2048) → Bool → Option RedStep} {vs ms : List Vec} {v : Vec}
    {pre post : List Instr} {code : Nat} (hA : Issues s c n k pre post) (hr : RoundsIn k n pre post code)
    (hg : (s.ctx c).Satisfied h.inv h.g) (hs : s.SourceIs c k (n / 2) h.src t.wide v)
    (hgo : (s.ctx c).GoesOn k) (hp : List.Forall₂ (fun p v => (s.ctx c).PortIs (n / 2) p v) ports vs) (hm : Values mid ms)
    (hl : s.LandsAlone c dest lat)
    (hrun : ∀ as rm, t.run (trigWork s c n k h t rm) (trigEnv s c n h as code) =
      (trigWork s c n k h t rm).fire (trigEnv s c n h as code) ports dest lat rank f mid (red as))
    (hf : (f (vs ++ ms ++ [v])).fault = none) :
    ∃ as, s.Supplies c k (n / 2) h.src t.wide as ∧
      issueSlot (.trig h t) s = .next ((((s.readBy c h.src).consumed c (n / 2) ports).sent c n dest lat rank
        (f (vs ++ ms ++ [v])).val (f (vs ++ ms ++ [v])).flags none (red as false)).retired c (t.draws code)) := by
  obtain ⟨as, hsup, hv⟩ := hs
  refine ⟨as, hsup, ?_⟩
  have hl' : (s.readBy c h.src).LandsAlone c dest lat := by
    intro r hr
    rw [State.readBy_ctx] at hr
    rw [State.readBy_now]
    exact hl r hr
  have hval : IsValue v (trigEnv s c n h as code).t := by
    obtain ⟨a, rfl, h1, h2, h3, h4⟩ := hv
    exact ⟨_, rfl, h1, h2, h3, h4⟩
  have hx : ∀ rm, (trigWork s c n k h t rm).x = s.ctx c := fun _ => State.readBy_ctx s c c h.src
  have hfire := fun rm => (hrun as rm).trans (Work.fire_values (w := trigWork s c n k h t rm) (e := trigEnv s c n h as code)
    (ports := ports) (dest := dest) (lat := lat) (rank := rank) (f := f) (mid := mid) (red := red as) rfl (by rw [hx]; exact hp) hm
    hval hf hl' (State.readBy_now s c h.src) (by rw [hx]; rfl) hA.lt)
  obtain ⟨cs, fl, hctx⟩ := State.sent_ctx (s.readBy c h.src) hA.lt (n / 2) ports n dest lat rank (f (vs ++ ms ++ [v])).val
    (f (vs ++ ms ++ [v])).flags (red as false)
  rw [State.readBy_ctx] at hctx
  refine issue_trigger hA hr hg hsup (fun rm _ => hfire rm) (fun rm => ⟨⟨rfl, rfl, rfl, rfl, rfl, rfl⟩, rfl, rfl, .inl rfl, rfl, rfl, rfl⟩)
    (fun _ => rfl) (fun _ => rfl) (fun _ => rfl) (fun _ => State.readBy_now s c h.src) (fun rm j hj => ?_) (fun rm => ?_)
    (fun rm hcode => ?_)
  · change poolUse (vget (State.ctx _ c).clusters j Cluster.init) ≤ 16
    erw [hctx]
    exact hA.pools j hj
  · change Ctx.GoesOn (State.ctx _ c) k
    erw [hctx]
    exact hgo.of_flow rfl rfl
  · subst hcode
    rfl

/-- A trigger that fires on single values. -/
theorem issue_fire {s : State} {c n : Nat} {k : Kernel} {h : MoveHead} {t : Trig} {ports : List Port} {dest : Loc} {lat rank : Nat}
    {f : List Vec → Comp} {mid : List (List (Alt 2048))} {vs ms : List Vec} {v : Vec}
    {pre post : List Instr} {code : Nat} (hA : Issues s c n k pre post) (hr : RoundsIn k n pre post code)
    (hg : (s.ctx c).Satisfied h.inv h.g) (hs : s.SourceIs c k (n / 2) h.src t.wide v)
    (hgo : (s.ctx c).GoesOn k) (hp : List.Forall₂ (fun p v => (s.ctx c).PortIs (n / 2) p v) ports vs) (hm : Values mid ms)
    (hl : s.LandsAlone c dest lat)
    (hrun : ∀ as rm, t.run (trigWork s c n k h t rm) (trigEnv s c n h as code) =
      (trigWork s c n k h t rm).fire (trigEnv s c n h as code) ports dest lat rank f mid)
    (hf : (f (vs ++ ms ++ [v])).fault = none) :
    issueSlot (.trig h t) s = .next ((((s.readBy c h.src).consumed c (n / 2) ports).sent c n dest lat rank
      (f (vs ++ ms ++ [v])).val (f (vs ++ ms ++ [v])).flags).retired c (t.draws code)) :=
  (issue_fold (red := fun _ _ => none) hA hr hg hs hgo hp hm hl hrun hf).elim fun _ h => h.2

theorem Fires.forall₂ {s : State} {c n : Nat} {k : Kernel} {h : MoveHead} {ports : List (Port × Vec)} {wide : Bool} {t : Vec}
    {dest : Loc} {lat : Nat} {pre post : List Instr} (hf : Fires s c n k h ports wide t dest lat pre post) :
    List.Forall₂ (fun p v => (s.ctx c).PortIs (n / 2) p v) (ports.map (·.1)) (ports.map (·.2)) := by
  have := hf.ports
  clear hf
  induction ports with
  | nil => exact .nil
  | cons p ps ih => exact .cons (this p (by simp)) (ih fun q hq => this q (by simp [hq]))

/-- The same, in the words of the statements. -/
theorem issue_fires {s : State} {c n : Nat} {k : Kernel} {h : MoveHead} {t : Trig} {ports : List (Port × Vec)} {dest : Loc} {lat rank : Nat}
    {f : List Vec → Comp} {mid : List (List (Alt 2048))} {ms : List Vec} {v : Vec} {pre post : List Instr} {code : Nat}
    (hF : Fires s c n k h ports t.wide v dest lat pre post) (hr : RoundsIn k n pre post code) (hm : Values mid ms)
    (hrun : ∀ as rm, t.run (trigWork s c n k h t rm) (trigEnv s c n h as code) =
      (trigWork s c n k h t rm).fire (trigEnv s c n h as code) (ports.map (·.1)) dest lat rank f mid)
    (hf : (f (ports.map (·.2) ++ ms ++ [v])).fault = none) :
    issueSlot (.trig h t) s = .next (s.fired c n h (ports.map (·.1)) dest lat rank
      (f (ports.map (·.2) ++ ms ++ [v])).val (f (ports.map (·.2) ++ ms ++ [v])).flags (rs := t.draws code)) :=
  issue_fire hF.alone hr hF.guard hF.source hF.goesOn hF.forall₂ hm hF.lands hrun hf

end Sys2Proof.Machine
end

