-- ==== Sys2Proof/Laws/Vec.lean ====
section
/-! SUPPORT. Triggers of the vector unit and the special-function unit on single values. -/

namespace Sys2Proof.Machine

open Host

theorem ofWord_toNat (a : Word) : (ofWord a).toNat = a.toNat := by
  simp only [ofWord, BitVec.toNat_setWidth]
  exact Nat.mod_eq_of_lt (lt_of_lt_of_le a.isLt (Nat.pow_le_pow_right (by decide) (by decide)))

theorem bitAt_toNat {w : Nat} (a : BitVec w) (i : Nat) : bitAt a.toNat i = a.getLsbD i := by
  simp only [bitAt, BitVec.getLsbD, Nat.testBit, Nat.and_comm]
  cases h : (a.toNat >>> i % 2 == 1) <;> simp_all

theorem active_ofWord (m : Word) (i : Nat) : active 32 (ofWord m) i = m.getLsbD i := by
  simp [active, ofWord_toNat, bitAt_toNat]

theorem elem32 (v : Vec) (i : Nat) : elem 32 v i = (laneW v i).toNat := by simp [laneW_toNat, elem, lane]

theorem toSigned_toInt (x : BitVec 32) : toSigned 32 x.toNat = x.toInt := by
  have := x.isLt
  simp [toSigned, BitVec.toInt_eq_toNat_cond, Nat.mod_eq_of_lt this]
  split <;> split <;> omega

/-- A trigger on single values whose result is `r`. -/
theorem vec_fire {s : State} {c n : Nat} {k : Kernel} {h : MoveHead} {t : Trig} {ports : List (Port × Vec)} {dest : Loc} {lat rank : Nat}
    {v : Vec} {pre post : List Instr} {code : Nat} (f : List Vec → Comp) (vs : List Vec) {r : Comp}
    (hF : Fires s c n k h ports t.wide v dest lat pre post) (hr : RoundsIn k n pre post code)
    (hrun : ∀ as rm, t.run (trigWork s c n k h t rm) (trigEnv s c n h as code) =
      (trigWork s c n k h t rm).fire (trigEnv s c n h as code) (ports.map (·.1)) dest lat rank f)
    (hvs : ports.map (·.2) ++ [v] = vs) (hv : f vs = r) (hf : r.fault = none) :
    issueSlot (.trig h t) s = .next (s.fired c n h (ports.map (·.1)) dest lat rank r.val r.flags
      (rs := t.draws code)) := by
  subst hvs
  subst hv
  have := issue_fires hF hr .nil hrun (by simpa using hf)
  simpa using this

theorem mapElems_fault (w : Nat) (m t : Vec) (f : Nat → Nat × Flags) : (mapElems w m t f).fault = none := rfl

theorem elems_fault (w : Nat) (es : List (Nat × Flags)) : (Comp.elems w es).fault = none := rfl

/-! ## Reading a result element by element -/

theorem word_of_byElement {m : Word} {t r : Vec} {fl : Flags} {f : Nat → Nat × Flags} {g : Nat → BitVec 32}
    (hB : ByElement 32 (ofWord m) t f r fl) (hf : ∀ i, i < 64 → (f i).1 % 2 ^ 32 = (g i).toNat) :
    ∀ i, i < 64 → laneW r i = if m.getLsbD i then g i else laneW t i := by
  intro i hi
  apply BitVec.eq_of_toNat_eq
  have := hB.value i hi
  rw [active_ofWord, elem32, elem32] at this
  rw [this]
  split
  · exact hf i hi
  · rfl

theorem noflags_of_byElement {w : Nat} {m t r : Vec} {fl : Flags} {f : Nat → Nat × Flags} (hB : ByElement w m t f r fl)
    (hf : ∀ i, (f i).2 = 0) : fl = 0 := by
  apply BitVec.eq_of_getLsbD_eq
  intro b hb
  have := hB.flags b
  simp [hf] at this
  simp [this]

/-- Elements computed without a mask. -/
theorem elems_byElement {f : Nat → Nat × Flags} (t : Vec) :
    ByElement 32 (BitVec.allOnes 2048) t f (Comp.elems 32 ((List.range 64).map f)).val (Comp.elems 32 ((List.range 64).map f)).flags := by
  have ha : ∀ i, i < 64 → active 32 (BitVec.allOnes 2048) i = true := by
    intro i hi
    simp only [active, bitAt_toNat, BitVec.getLsbD_allOnes, decide_eq_true_eq]
    simp only [beq_self_eq_true, if_true]
    omega
  constructor
  · intro e he
    unfold Comp.elems
    dsimp only
    rw [elem_packElems (by simp), if_pos (ha e he)]
    simp only [List.map_map, List.getD_eq_getElem?_getD, List.getElem?_map]
    rw [List.getElem?_range he]
    rfl
  · intro b
    unfold Comp.elems
    dsimp only
    rw [packElems_flags]
    constructor
    · rintro ⟨e, he, hb⟩
      simp only [List.mem_map, List.mem_range] at he
      obtain ⟨i, hi, rfl⟩ := he
      exact ⟨i, hi, ha i hi, hb⟩
    · rintro ⟨i, hi, _, hb⟩
      exact ⟨_, List.mem_map.2 ⟨i, List.mem_range.2 hi, rfl⟩, hb⟩

/-! ## The operations -/

theorem trigEnv_rnd (s : State) (c n : Nat) (h : MoveHead) (t : List (Alt 2048)) (code : Nat) :
    (trigEnv s c n h t code).rnd = s.rnd c code := by
  simp [trigEnv, State.rnd, Nat.mod_eq_of_lt (s.ctx c).rnc.isLt]

theorem vecInt_fires {s : State} {c n : Nat} {k : Kernel} {h : MoveHead} {a t m : Vec} {f : Nat → Nat → Nat × Flags}
    (hF : Fires s c n k h [(.vaA, a), (.vaM, m)] true t (.vaO (n / 2)) 3) :
    issueSlot (.trig h { unit := 1, wide := true, run := fun w e => w.vecInt e f }) s = .next (s.fired c n h [.vaA, .vaM] (.vaO (n / 2)) 3 (n / 2 * 4 + 1)
      (mapElems 32 m t fun i => f (lane a i) (lane t i)).val (mapElems 32 m t fun i => f (lane a i) (lane t i)).flags) := by
  obtain ⟨r, hv⟩ : ∃ r, r = mapElems 32 m t fun i => f (lane a i) (lane t i) := ⟨_, rfl⟩
  rw [← hv]
  refine vec_fire (ports := [(.vaA, a), (.vaM, m)]) (t := { unit := 1, wide := true, run := fun w e => w.vecInt e f })
    (fun vs => match vs with
      | [a, m, t] => mapElems 32 m t fun i => f (lane a i) (lane t i)
      | _ => {}) [a, m, t] hF .nearest ?_ rfl ?_ (by rw [hv]; exact (mapElems_fault _ _ _ _))
  · intro as rm
    unfold Work.vecInt Work.vecOp
    rfl
  · exact hv.symm

theorem vecFloat_fires {s : State} {c n : Nat} {k : Kernel} {h : MoveHead} {a t m : Vec} {f : Fmt} {op : RMode → Nat → Nat → FRes} {rounds : Bool}
    {pre post : List Instr} {code : Nat}
    (hF : Fires s c n k h [(.vaA, a), (.vaM, m)] true t (.vaO (n / 2)) 3 pre post) (hr : RoundsIn k n pre post code) :
    issueSlot (.trig h { unit := 1, wide := true, rounds := rounds, run := fun w e => w.vecFloat e f op }) s = .next (s.fired c n h [.vaA, .vaM] (.vaO (n / 2)) 3 (n / 2 * 4 + 1)
      (mapElems f.width m t fun i => op ((s.rnd c code).at i) (elem f.width a i) (elem f.width t i)).val (mapElems f.width m t fun i => op ((s.rnd c code).at i) (elem f.width a i) (elem f.width t i)).flags (rs := if rounds && code == 4 then 1 else 0)) := by
  obtain ⟨r, hv⟩ : ∃ r, r = mapElems f.width m t fun i => op ((s.rnd c code).at i) (elem f.width a i) (elem f.width t i) := ⟨_, rfl⟩
  rw [← hv]
  refine vec_fire (ports := [(.vaA, a), (.vaM, m)]) (t := { unit := 1, wide := true, rounds := rounds, run := fun w e => w.vecFloat e f op })
    (fun vs => match vs with
      | [a, m, t] => mapElems f.width m t fun i => op ((s.rnd c code).at i) (elem f.width a i) (elem f.width t i)
      | _ => {}) [a, m, t] hF hr ?_ rfl ?_ (by rw [hv]; exact (mapElems_fault _ _ _ _))
  · intro as rm
    unfold Work.vecFloat Work.vecOp
    simp only [trigEnv_rnd]
    rfl
  · exact hv.symm

theorem vecFma_fires {s : State} {c n : Nat} {k : Kernel} {h : MoveHead} {a b t m : Vec} {f : Fmt} {rounds : Bool}
    {pre post : List Instr} {code : Nat}
    (hF : Fires s c n k h [(.vaA, a), (.vaB, b), (.vaM, m)] true t (.vaO (n / 2)) 4 pre post) (hr : RoundsIn k n pre post code) :
    issueSlot (.trig h { unit := 1, wide := true, rounds := rounds, run := fun w e => w.vecFma e f }) s = .next (s.fired c n h [.vaA, .vaB, .vaM] (.vaO (n / 2)) 4 (n / 2 * 4 + 1)
      (mapElems f.width m t fun i => fFma f ((s.rnd c code).at i) (elem f.width a i) (elem f.width b i) (elem f.width t i)).val (mapElems f.width m t fun i => fFma f ((s.rnd c code).at i) (elem f.width a i) (elem f.width b i) (elem f.width t i)).flags (rs := if rounds && code == 4 then 1 else 0)) := by
  obtain ⟨r, hv⟩ : ∃ r, r = mapElems f.width m t fun i => fFma f ((s.rnd c code).at i) (elem f.width a i) (elem f.width b i) (elem f.width t i) := ⟨_, rfl⟩
  rw [← hv]
  refine vec_fire (ports := [(.vaA, a), (.vaB, b), (.vaM, m)]) (t := { unit := 1, wide := true, rounds := rounds, run := fun w e => w.vecFma e f })
    (fun vs => match vs with
      | [a, b, m, t] => mapElems f.width m t fun i => fFma f ((s.rnd c code).at i) (elem f.width a i) (elem f.width b i) (elem f.width t i)
      | _ => {}) [a, b, m, t] hF hr ?_ rfl ?_ (by rw [hv]; exact (mapElems_fault _ _ _ _))
  · intro as rm
    unfold Work.vecFma Work.vecOp
    simp only [trigEnv_rnd]
    rfl
  · exact hv.symm

theorem vecCmp_fires {s : State} {c n : Nat} {k : Kernel} {h : MoveHead} {a t m : Vec} {f : Nat → Nat → Bool × Flags}
    (hF : Fires s c n k h [(.vaA, a), (.vaM, m)] true t (.vaO (n / 2)) 3) :
    issueSlot (.trig h { unit := 1, wide := true, run := fun w e => w.vecCmp e f }) s = .next (s.fired c n h [.vaA, .vaM] (.vaO (n / 2)) 3 (n / 2 * 4 + 1)
      (Comp.elems 1 ((List.range 64).map fun i => if active 32 m i then (let p := f (lane a i) (lane t i); (p.1.toNat, p.2)) else (0, 0))).val (Comp.elems 1 ((List.range 64).map fun i => if active 32 m i then (let p := f (lane a i) (lane t i); (p.1.toNat, p.2)) else (0, 0))).flags) := by
  obtain ⟨r, hv⟩ : ∃ r, r = Comp.elems 1 ((List.range 64).map fun i => if active 32 m i then (let p := f (lane a i) (lane t i); (p.1.toNat, p.2)) else (0, 0)) := ⟨_, rfl⟩
  rw [← hv]
  refine vec_fire (ports := [(.vaA, a), (.vaM, m)]) (t := { unit := 1, wide := true, run := fun w e => w.vecCmp e f })
    (fun vs => match vs with
      | [a, m, t] => Comp.elems 1 ((List.range 64).map fun i => if active 32 m i then (let p := f (lane a i) (lane t i); (p.1.toNat, p.2)) else (0, 0))
      | _ => {}) [a, m, t] hF .nearest ?_ rfl ?_ (by rw [hv]; exact (elems_fault _ _))
  · intro as rm
    unfold Work.vecCmp Work.vecOp
    rfl
  · exact hv.symm

theorem vecSign_fires {s : State} {c n : Nat} {k : Kernel} {h : MoveHead} {t m : Vec} {f : Nat → Nat}
    (hF : Fires s c n k h [(.vaM, m)] true t (.vaO (n / 2)) 3) :
    issueSlot (.trig h { unit := 1, wide := true, run := fun w e => w.vecSign e f }) s = .next (s.fired c n h [.vaM] (.vaO (n / 2)) 3 (n / 2 * 4 + 1)
      (mapElems 32 m t fun i => (f (lane t i), 0)).val (mapElems 32 m t fun i => (f (lane t i), 0)).flags) := by
  obtain ⟨r, hv⟩ : ∃ r, r = mapElems 32 m t fun i => (f (lane t i), 0) := ⟨_, rfl⟩
  rw [← hv]
  refine vec_fire (ports := [(.vaM, m)]) (t := { unit := 1, wide := true, run := fun w e => w.vecSign e f })
    (fun vs => match vs with
      | [m, t] => mapElems 32 m t fun i => (f (lane t i), 0)
      | _ => {}) [m, t] hF .nearest ?_ rfl ?_ (by rw [hv]; exact (mapElems_fault _ _ _ _))
  · intro as rm
    unfold Work.vecSign Work.vecOp
    rfl
  · exact hv.symm

theorem vecLanes_fires {s : State} {c n : Nat} {k : Kernel} {h : MoveHead} {t : Vec} {f : RMode → Nat → FRes} {rounds : Bool}
    {pre post : List Instr} {code : Nat}
    (hF : Fires s c n k h [] true t (.vaO (n / 2)) 3 pre post) (hr : RoundsIn k n pre post code) :
    issueSlot (.trig h { unit := 1, wide := true, rounds := rounds, run := fun w e => w.vecLanes e f }) s = .next (s.fired c n h [] (.vaO (n / 2)) 3 (n / 2 * 4 + 1)
      (Comp.elems 32 ((List.range 64).map fun i => f ((s.rnd c code).at i) (lane t i))).val (Comp.elems 32 ((List.range 64).map fun i => f ((s.rnd c code).at i) (lane t i))).flags (rs := if rounds && code == 4 then 1 else 0)) := by
  obtain ⟨r, hv⟩ : ∃ r, r = Comp.elems 32 ((List.range 64).map fun i => f ((s.rnd c code).at i) (lane t i)) := ⟨_, rfl⟩
  rw [← hv]
  refine vec_fire (ports := []) (t := { unit := 1, wide := true, rounds := rounds, run := fun w e => w.vecLanes e f })
    (fun vs => Comp.elems 32 ((List.range 64).map fun i => f ((s.rnd c code).at i) (lane (vs.headD 0) i))) [t] hF hr ?_ rfl ?_ (by rw [hv]; exact (elems_fault _ _))
  · intro as rm
    unfold Work.vecLanes Work.vecOp
    simp only [trigEnv_rnd]
    rfl
  · exact hv.symm

theorem sfn_fires {s : State} {c n : Nat} {k : Kernel} {h : MoveHead} {t : Vec} {f : RMode → Nat → FRes} {rounds : Bool}
    {pre post : List Instr} {code : Nat} {lat : Nat}
    (hF : Fires s c n k h [] true t (.sfO (n / 2)) lat pre post) (hr : RoundsIn k n pre post code) :
    issueSlot (.trig h { unit := 2, wide := true, rounds := rounds, run := fun w e => w.sfn e lat f }) s = .next (s.fired c n h [] (.sfO (n / 2)) lat (n / 2 * 4 + 2)
      (Comp.elems 32 ((List.range 64).map fun i => f ((s.rnd c code).at i) (lane t i))).val (Comp.elems 32 ((List.range 64).map fun i => f ((s.rnd c code).at i) (lane t i))).flags (rs := if rounds && code == 4 then 1 else 0)) := by
  obtain ⟨r, hv⟩ : ∃ r, r = Comp.elems 32 ((List.range 64).map fun i => f ((s.rnd c code).at i) (lane t i)) := ⟨_, rfl⟩
  rw [← hv]
  refine vec_fire (ports := []) (t := { unit := 2, wide := true, rounds := rounds, run := fun w e => w.sfn e lat f })
    (fun vs => Comp.elems 32 ((List.range 64).map fun i => f ((s.rnd c code).at i) (lane (vs.headD 0) i))) [t] hF hr ?_ rfl ?_ (by rw [hv]; exact (elems_fault _ _))
  · intro as rm
    unfold Work.sfn
    simp only [trigEnv_rnd]
    rfl
  · exact hv.symm

theorem sfnDiv_fires {s : State} {c n : Nat} {k : Kernel} {h : MoveHead} {a t : Vec} {rounds : Bool}
    {pre post : List Instr} {code : Nat}
    (hF : Fires s c n k h [(.sfA, a)] true t (.sfO (n / 2)) 14 pre post) (hr : RoundsIn k n pre post code) :
    issueSlot (.trig h { unit := 2, wide := true, rounds := rounds, run := fun w e => w.sfnDiv e }) s = .next (s.fired c n h [.sfA] (.sfO (n / 2)) 14 (n / 2 * 4 + 2)
      (Comp.elems 32 ((List.range 64).map fun i => fDiv ((s.rnd c code).at i) (lane a i) (lane t i))).val (Comp.elems 32 ((List.range 64).map fun i => fDiv ((s.rnd c code).at i) (lane a i) (lane t i))).flags (rs := if rounds && code == 4 then 1 else 0)) := by
  obtain ⟨r, hv⟩ : ∃ r, r = Comp.elems 32 ((List.range 64).map fun i => fDiv ((s.rnd c code).at i) (lane a i) (lane t i)) := ⟨_, rfl⟩
  rw [← hv]
  refine vec_fire (ports := [(.sfA, a)]) (t := { unit := 2, wide := true, rounds := rounds, run := fun w e => w.sfnDiv e })
    (fun vs => match vs with
      | [a, t] => Comp.elems 32 ((List.range 64).map fun i => fDiv ((s.rnd c code).at i) (lane a i) (lane t i))
      | _ => {}) [a, t] hF hr ?_ rfl ?_ (by rw [hv]; exact (elems_fault _ _))
  · intro as rm
    unfold Work.sfnDiv
    simp only [trigEnv_rnd]
    rfl
  · exact hv.symm

theorem vecNarrow_fires {s : State} {c n : Nat} {k : Kernel} {h : MoveHead} {a t : Vec} {f : Fmt} {rounds : Bool}
    {pre post : List Instr} {code : Nat}
    (hF : Fires s c n k h [(.vaA, a)] true t (.vaO (n / 2)) 3 pre post) (hr : RoundsIn k n pre post code) :
    issueSlot (.trig h { unit := 1, wide := true, rounds := rounds, run := fun w e => w.vecNarrow e f }) s = .next (s.fired c n h [.vaA] (.vaO (n / 2)) 3 (n / 2 * 4 + 1)
      (Comp.elems f.width ((inputs128 a t).zipIdx.map fun p => fCvt f32 f ((s.rnd c code).at p.2) p.1)).val (Comp.elems f.width ((inputs128 a t).zipIdx.map fun p => fCvt f32 f ((s.rnd c code).at p.2) p.1)).flags (rs := if rounds && code == 4 then 1 else 0)) := by
  obtain ⟨r, hv⟩ : ∃ r, r = Comp.elems f.width ((inputs128 a t).zipIdx.map fun p => fCvt f32 f ((s.rnd c code).at p.2) p.1) := ⟨_, rfl⟩
  rw [← hv]
  refine vec_fire (ports := [(.vaA, a)]) (t := { unit := 1, wide := true, rounds := rounds, run := fun w e => w.vecNarrow e f })
    (fun vs => match vs with
      | [a, t] => Comp.elems f.width ((inputs128 a t).zipIdx.map fun p => fCvt f32 f ((s.rnd c code).at p.2) p.1)
      | _ => {}) [a, t] hF hr ?_ rfl ?_ (by rw [hv]; exact (elems_fault _ _))
  · intro as rm
    unfold Work.vecNarrow Work.vecOp
    simp only [trigEnv_rnd]
    rfl
  · exact hv.symm

theorem vecMap_fires {s : State} {c n : Nat} {k : Kernel} {h : MoveHead} {t : Vec} {f : Nat → Nat}
    (hF : Fires s c n k h [] true t (.vaO (n / 2)) 3) :
    issueSlot (.trig h { unit := 1, wide := true, run := fun w e => w.vecMap e f }) s = .next (s.fired c n h [] (.vaO (n / 2)) 3 (n / 2 * 4 + 1)
      (({ val := ofLanes fun i => f (lane t i) } : Comp)).val (({ val := ofLanes fun i => f (lane t i) } : Comp)).flags) := by
  obtain ⟨r, hv⟩ : ∃ r, r = ({ val := ofLanes fun i => f (lane t i) } : Comp) := ⟨_, rfl⟩
  rw [← hv]
  refine vec_fire (ports := []) (t := { unit := 1, wide := true, run := fun w e => w.vecMap e f })
    (fun vs => ({ val := ofLanes fun i => f (lane (vs.headD 0) i) } : Comp)) [t] hF .nearest ?_ rfl ?_ (by rw [hv])
  · intro as rm
    unfold Work.vecMap Work.vecOp
    rfl
  · exact hv.symm

theorem vecWhole_fires {s : State} {c n : Nat} {k : Kernel} {h : MoveHead} {t : Vec} {g : Vec → Vec}
    (hF : Fires s c n k h [] true t (.vaO (n / 2)) 3) :
    issueSlot (.trig h { unit := 1, wide := true, run := fun w e => w.vecOp e [] 3 fun vs => { val := g (vs.headD 0) } }) s = .next (s.fired c n h [] (.vaO (n / 2)) 3 (n / 2 * 4 + 1)
      (({ val := g t } : Comp)).val (({ val := g t } : Comp)).flags) := by
  obtain ⟨r, hv⟩ : ∃ r, r = ({ val := g t } : Comp) := ⟨_, rfl⟩
  rw [← hv]
  refine vec_fire (ports := []) (t := { unit := 1, wide := true, run := fun w e => w.vecOp e [] 3 fun vs => { val := g (vs.headD 0) } })
    (fun vs => ({ val := g (vs.headD 0) } : Comp)) [t] hF .nearest ?_ rfl ?_ (by rw [hv])
  · intro as rm
    unfold Work.vecOp
    rfl
  · exact hv.symm

theorem vecMove_fires {s : State} {c n : Nat} {k : Kernel} {h : MoveHead} {a m t : Vec} {g : Vec → Nat → Vec → Vec}
    (hF : Fires s c n k h [(.vaA, a), (.vaM, m)] true t (.vaO (n / 2)) 3) :
    issueSlot (.trig h { unit := 1, wide := true, run := fun w e => w.vecMove e g }) s = .next (s.fired c n h [.vaA, .vaM] (.vaO (n / 2)) 3 (n / 2 * 4 + 1)
      (({ val := g a (m.toNat % 2 ^ 64) t } : Comp)).val (({ val := g a (m.toNat % 2 ^ 64) t } : Comp)).flags) := by
  obtain ⟨r, hv⟩ : ∃ r, r = ({ val := g a (m.toNat % 2 ^ 64) t } : Comp) := ⟨_, rfl⟩
  rw [← hv]
  refine vec_fire (ports := [(.vaA, a), (.vaM, m)]) (t := { unit := 1, wide := true, run := fun w e => w.vecMove e g })
    (fun vs => match vs with
      | [a, m, t] => ({ val := g a (m.toNat % 2 ^ 64) t } : Comp)
      | _ => {}) [a, m, t] hF .nearest ?_ rfl ?_ (by rw [hv])
  · intro as rm
    unfold Work.vecMove Work.vecOp
    rfl
  · exact hv.symm

theorem vecBcast_fires {s : State} {c n : Nat} {k : Kernel} {h : MoveHead} {a t : Vec}
    (hF : Fires s c n k h [(.vaA, a)] true t (.vaO (n / 2)) 3) :
    issueSlot (.trig h { unit := 1, wide := true, run := fun w e => w.vecBcast e }) s = .next (s.fired c n h [.vaA] (.vaO (n / 2)) 3 (n / 2 * 4 + 1)
      (({ val := repeatBits 32 (lane a (lane t 0 % 64)) } : Comp)).val (({ val := repeatBits 32 (lane a (lane t 0 % 64)) } : Comp)).flags) := by
  obtain ⟨r, hv⟩ : ∃ r, r = ({ val := repeatBits 32 (lane a (lane t 0 % 64)) } : Comp) := ⟨_, rfl⟩
  rw [← hv]
  refine vec_fire (ports := [(.vaA, a)]) (t := { unit := 1, wide := true, run := fun w e => w.vecBcast e })
    (fun vs => match vs with
      | [a, t] => ({ val := repeatBits 32 (lane a (lane t 0 % 64)) } : Comp)
      | _ => {}) [a, t] hF .nearest ?_ rfl ?_ (by rw [hv])
  · intro as rm
    unfold Work.vecBcast Work.vecOp
    rfl
  · exact hv.symm

end Sys2Proof.Machine
end

