-- ==== Sys2Proof/Tests/Slice0.lean ====
section
/-! SUPPORT. Tests: words of the spec decoded, ill-formed terms refused, and for every statement states that meet its hypotheses. -/

namespace Sys2Proof.Tests

open Sys2Proof.Machine Host

set_option Elab.async false

/-! ## Well-formedness: one ill-formed term for each check (R79, R81) -/

/-- No guard, staging set 0. -/
def cmd : EngHead := { inv := false, g := 0, set := 0 }

theorem test_illFormed : ∀ i ∈ [Instr.mxStep cmd 0, .mxStep cmd 9, .mxRun cmd 0, .mxRun cmd 9, .mxZero cmd 8, .mxLdb cmd 0, .mxLdb cmd 9,
    .mxSt cmd 8, .cpTile cmd 8, .cpTsa cmd 8, .syReg cmd 3, .scopeSet cmd 0, .scopeSet cmd 15, .scopeClr cmd 0, .scopeClr cmd 15,
    .loop 0, .ploop 1 0, .fenceAcq 0 0, .fenceRel 0 0, .fenceAr 0 0, .drain 0, .bkrel 49, .calendarWindowAdvance, .resultLanding 0,
    .unassignedEncoding .illegalSlot], i.wf = false := by decide

theorem test_wellFormed : ∀ i ∈ [Instr.mxStep cmd 1, .mxStep cmd 8, .mxRun cmd 8, .mxZero cmd 7, .mxLdb cmd 8, .mxSt cmd 7, .cpTile cmd 7,
    .cpTsa cmd 7, .syReg cmd 2, .scopeSet cmd 1, .scopeSet cmd 14, .scopeClr cmd 14, .loop 2047, .ploop 7 2047, .fenceAcq 15 15,
    .fenceRel 1 0, .fenceAr 8 3, .drain 7, .bkrel 48, .nop], i.wf = true := by decide

/-! ## Decoding: the words that the spec writes out -/

/-- A move slot under k0 with modifier 0b00. -/
def head (src : Source) : MoveHead := { hold := false, trapEmpty := false, inv := false, g := 0, src := src }

/-- An engine command under k0 with staging set `n`. -/
def cmd_ (n : Fin 16) : EngHead := { inv := false, g := 0, set := n }

/-- The slot with the bits `w` is the instruction `i`. -/
def reads (w : SlotWord) (i : Instr) : Bool := match decodeSlot w with | .ok j => decide (j = i) | .error _ => false

/-- The slot with the bits `w` is no instruction, with the fate `r`. -/
def refuses (w : SlotWord) (r : Reject) : Bool := match decodeSlot w with | .ok _ => false | .error q => decide (q = r)

/-- R167, R169, R174, R108: the integer/address unit. -/
theorem test_decode_integer : reads 0x000930 (.iaAdd (head (.s 4))) ∧ reads 0x000B49 (.iaPopc (head (.s 5))) ∧
    reads 0x00A147 (.iaSrd (head .ix)) ∧ reads 0x000F41 (.iaCqEq (head (.s 7))) ∧ reads 0x000F45 (.iaCgLtI64 (head (.s 7))) := by decide

/-- R216, R217, R218, R222, R224, R227, R228: the vector unit. -/
theorem test_decode_vector : reads 0x004350 (.vaAddF32 (head (.v 1))) ∧ reads 0x004562 (.vaLtF32 (head (.v 2))) ∧
    reads 0x004D6F (.vaXor (head (.v 6))) ∧ reads 0x004B7C (.vaCvtF32H16 (head (.v 5))) ∧ reads 0x005186 (.vaUpk (head (.v 8))) ∧
    reads 0x00098C (.vaBcast (head (.s 4))) ∧ reads 0x004D8B (.vaPerm (head (.v 6))) ∧ reads 0x004D8D (.vaCmpr (head (.v 6))) := by decide

/-- R229, R233, R263, R264: special functions, reductions, loads and stores. -/
theorem test_decode_units : reads 0x004591 (.sfSqrtF32 (head (.v 2))) ∧ reads 0x0049A8 (.rdSumF32 (head (.v 4))) ∧
    reads 0x008527 (.move (head (.small 10)) (.port .rdL)) ∧ reads 0x00819E (.lsLdV (head (.small 8))) ∧
    reads 0x000BA1 (.lsSt32 (head (.s 5))) := by decide

/-- R317, R319, R358, R245-R248, R275, R277, R345: engine commands. -/
theorem test_decode_engines : reads 0xA20001 (.cpXfer (cmd_ 1)) ∧ reads 0xA22601 (.cpTile (cmd_ 1) 3) ∧ reads 0xA60001 (.ckSnap (cmd_ 1)) ∧
    reads 0xA06800 (.mxLdb (cmd_ 0) 4) ∧ reads 0xA00801 (.mxStep (cmd_ 1) 4) ∧ reads 0xA02801 (.mxRun (cmd_ 1) 4) ∧
    reads 0xA04000 (.mxZero (cmd_ 0) 0) ∧ reads 0xA40001 (.slRank (cmd_ 1)) ∧ reads 0xAA0601 (.scopeSet (cmd_ 1) 3) ∧
    reads 0xAA2600 (.scopeClr (cmd_ 0) 3) ∧ reads 0xA66000 (.ckDrop (cmd_ 0)) := by decide

/-- R107, R175-R191, R281: control ops. -/
theorem test_decode_control : reads 0xC017FD (.br false 2 (-3)) ∧ reads 0xC10805 (.brq 5) ∧ reads 0xC20000 (.brx false 0) ∧
    reads 0xC30014 (.call 20) ∧ reads 0xC50000 .ret ∧ reads 0xC60003 (.loop 3) ∧ reads 0xC70802 (.ploop 1 2) ∧
    reads 0xC80803 (.yieldTl 4 3) ∧ reads 0xC90002 (.fork 2) ∧ reads 0xCA0005 (.syncc 5) ∧ reads 0xCB0000 .done ∧
    reads 0xCC002A (.trap 42) ∧ reads 0xCD0000 .tret ∧ reads 0xCE0028 (.gopen 0x14) ∧ reads 0xCF03D3 (.fenceRel 15 3) ∧
    reads 0xD00001 (.drain 1) ∧ reads 0xD1000C (.bkrel 12) := by decide

/-- R83: unassigned encodings are refused, each with its own fate. -/
theorem test_decode_refused :
    (∀ p ∈ [(0xE00000#24, Reject.illegalSlot), (0xFFFFFE#24, .illegalSlot), (0x00B800#24, .illegalSource), (0x000038#24, .illegalDestination),
      (0x000100#24, .illegalDestination), (0xAC0000#24, .illegalEngine), (0xA0A000#24, .illegalCommand), (0xA00000#24, .illegalCommand),
      (0xD20000#24, .illegalControl), (0xC60000#24, .illegalControl), (0xD10031#24, .illegalControl), (0xC8A000#24, .illegalWait 0)],
      refuses p.1 p.2 = true) := by decide

/-- R62: the three bytes of a slot lie little-endian, and the decoder reads them back. -/
theorem test_table_word : decodeTableWord 24 0x000930 = some (.iaAdd (head (.s 4))) ∧ decodeTableWord 24 0xE00000 = none := by decide

/-- R223's worked packing: 5.0, -0.25, 0.375 and 125 zeros. -/
theorem test_pack_sx4 : sxPack {} 1 ([0x40A00000, 0xBE800000, 0x3EC00000] ++ List.replicate 125 0) 0 = (0x0BE2, 0x8001, Flags.nx) := by
  decide +kernel

/-! ## States that meet the hypotheses of the statements -/

/-- Context 0 about to issue a bundle with one instruction in slot `n` of two, changed by `f` and then by `g`. -/
def at_ (n : Nat) (f : Ctx → Ctx := id) (g : State → State := id) : State :=
  let s := State.reset.withSlot []
  g { s.modCtx 0 fun x => f { x with issuedAt := some 0, pc := 5 } with
    issue := { ctx := 0, before := List.replicate n .nop, after := List.replicate (1 - n) .nop } }

/-- Its kernel, and its task. -/
def kern : Kernel := oneSlotKernel []
def task1 : Task := oneSlotTask 1

/-- Port `p` of column 0 holds `v`. -/
def portIs (p : Port) (v : Vec) (x : Ctx) : Ctx := x.setAlts (.port 0 p) [{ val := v }]

def valueB (v : Vec) (as : List (Alt 2048)) : Bool :=
  match as with
  | [a] => decide (a.val = v) && !a.void && decide (a.term = []) && decide (a.grey = none)
  | _ => false

theorem isValue_of {v : Vec} {as : List (Alt 2048)} (h : valueB v as = true) : IsValue v as := by
  unfold valueB at h
  split at h
  · rename_i a
    simp only [Bool.and_eq_true, Bool.not_eq_true', decide_eq_true_eq] at h
    exact ⟨a, rfl, h.1.1.1, h.1.1.2, h.1.2, h.2⟩
  · exact absurd h (by decide)

def aloneB (s : State) (c n : Nat) (k : Kernel) (pre post : List Instr := []) : Bool :=
  decide (s.issue.ctx.val = c) && decide (s.issue.before = List.replicate (n - pre.length) .nop ++ pre) &&
  decide (s.issue.after = post ++ List.replicate (s.issue.after.length - post.length) .nop) && decide ((s.boundTask c).bind s.kernelOf = some k) &&
  decide (s.boundaryBar c = none) && (List.range 4).all fun j => decide (poolUse (vget (s.ctx c).clusters j Cluster.init) ≤ 16)

theorem alone_of {s : State} {c n : Nat} {k : Kernel} {pre post : List Instr} (h : aloneB s c n k pre post = true) :
    Issues s c n k pre post := by
  simp only [aloneB, Bool.and_eq_true, decide_eq_true_eq, List.all_eq_true, List.mem_range] at h
  obtain ⟨⟨⟨⟨⟨h1, h2⟩, h3⟩, h4⟩, h5⟩, h6⟩ := h
  exact ⟨h1, h2, ⟨_, h3⟩, h4, h5, h6⟩

def sourceB (s : State) (c : Nat) (k : Kernel) (j : Nat) (src : Source) (wide : Bool) (v : Vec) : Bool :=
  let r := s.source c k j none src
  decide (r.empty = none) && valueB v (fitAlts r.wide wide r.alts)

theorem source_of {s : State} {c : Nat} {k : Kernel} {j : Nat} {src : Source} {wide : Bool} {v : Vec}
    (h : sourceB s c k j src wide v = true) : s.SourceIs c k j src wide v := by
  simp only [sourceB, Bool.and_eq_true, decide_eq_true_eq] at h
  exact ⟨_, ⟨h.1, rfl⟩, isValue_of h.2⟩

def portB (x : Ctx) (j : Nat) (p : Port) (v : Vec) : Bool :=
  valueB v (x.alts (.port j p)) || (decide (x.alts (.port j p) = []) && decide (emptyPort p = some v))

theorem port_of {x : Ctx} {j : Nat} {p : Port} {v : Vec} (h : portB x j p v = true) : x.PortIs j p v := by
  simp only [portB, Bool.or_eq_true, Bool.and_eq_true, decide_eq_true_eq] at h
  exact h.imp isValue_of id

def readsB (s : State) (c n : Nat) (k : Kernel) (h : MoveHead) (ports : List (Port × Vec)) (wide : Bool) (t : Vec)
    (pre post : List Instr := []) (gs : GState := .yes) : Bool :=
  aloneB s c n k pre post && decide ((s.ctx c).gstate h.inv h.g.val = gs) && decide ((endIteration (s.ctx c).pc 5 (s.ctx c)).1 < k.ncode) &&
  (ports.all fun p => portB (s.ctx c) (n / 2) p.1 p.2) && sourceB s c k (n / 2) h.src wide t

theorem reads_of {s : State} {c n : Nat} {k : Kernel} {h : MoveHead} {ports : List (Port × Vec)} {wide : Bool} {t : Vec}
    {pre post : List Instr} {gs : GState} (hb : readsB s c n k h ports wide t pre post gs = true) : Reads s c n k h ports wide t pre post gs := by
  simp only [readsB, Bool.and_eq_true, decide_eq_true_eq, List.all_eq_true] at hb
  obtain ⟨⟨⟨⟨h1, h2⟩, h3⟩, h4⟩, h5⟩ := hb
  exact ⟨alone_of h1, h2, h3, fun p hp => port_of (h4 p hp), source_of h5⟩

def firesB (s : State) (c n : Nat) (k : Kernel) (h : MoveHead) (ports : List (Port × Vec)) (wide : Bool) (t : Vec) (dest : Loc) (lat : Nat)
    (pre post : List Instr := []) (gs : GState := .yes) : Bool :=
  readsB s c n k h ports wide t pre post gs && decide (∀ f ∈ (s.ctx c).flight, ¬ (f.land = s.now + lat ∧ f.dest = dest))

theorem fires_of {s : State} {c n : Nat} {k : Kernel} {h : MoveHead} {ports : List (Port × Vec)} {wide : Bool} {t : Vec} {dest : Loc}
    {lat : Nat} {pre post : List Instr} {gs : GState} (hb : firesB s c n k h ports wide t dest lat pre post gs = true) :
    Fires s c n k h ports wide t dest lat pre post gs := by
  simp only [firesB, Bool.and_eq_true, decide_eq_true_eq] at hb
  exact { toReads := reads_of hb.1, lands := hb.2 }

/-! ### Triggers -/

/-- A vector whose lanes differ. -/
def ramp : Vec := BitVec.ofNat 2048 ((List.range 64).foldl (fun v i => v + (i * i + 1) * 2 ^ (32 * i)) 0)

/-- R167: `#-8 -> ia.add` in the second slot with ia.a = 3, and ia.popc of 7. -/
theorem witness_IntegerOperations :
    Fires (at_ 1 (portIs .iaA (ofWord 3))) 0 1 kern (head (.small 0)) [(.iaA, ofWord 3)] false (ofWord (-8)) (.iaO 0) 1 ∧
    Fires (at_ 0) 0 0 kern (head (.small 15)) [] false (ofWord 7) (.iaO 0) 1 :=
  ⟨fires_of (by decide +kernel), fires_of (by decide +kernel)⟩

/-- va.a holds the ramp, va.m a mask with lanes 0 and 63 active, v3 is t; an empty va.m reads as all ones. -/
def vec (x : Ctx) : Ctx :=
  portIs .vaA ramp (portIs .vaM (ofWord 0x8000000000000001) (x.setAlts (.v 0 3) [{ val := BitVec.allOnes 2048 }]))

theorem witness_VaIntegerOperations :
    Fires (at_ 0 vec) 0 0 kern (head (.v 3)) [(.vaA, ramp), (.vaM, ofWord 0x8000000000000001)] true (BitVec.allOnes 2048) (.vaO 0) 3 ∧
    Fires (at_ 0) 0 0 kern (head (.v 3)) [(.vaM, ofWord (BitVec.allOnes 64))] true 0 (.vaO 0) 3 :=
  ⟨fires_of (by decide +kernel), fires_of (by decide +kernel)⟩

/-- Other instructions in the bundle. -/
def beside (pre post : List Instr) (s : State) : State := { s with issue := { ctx := 0, before := pre, after := post } }

/-- Alone, and with rm written by the slot above and by the slot below. -/
theorem witness_VaFloatOperations_rounded :
    (Fires (at_ 0 vec (beside [] [rmMove 4])) 0 0 kern (head (.v 3)) [(.vaA, ramp), (.vaM, ofWord 0x8000000000000001)] true
      (BitVec.allOnes 2048) (.vaO 0) 3 [] [rmMove 4] ∧ RoundsIn kern 0 [] [rmMove 4] 4) ∧
    Fires (at_ 1 vec (beside [rmMove 1] [])) 0 1 kern (head (.v 3)) [(.vaA, ramp), (.vaM, ofWord 0x8000000000000001)] true
      (BitVec.allOnes 2048) (.vaO 0) 3 [rmMove 1] [] ∧ RoundsIn kern 1 [rmMove 1] [] 1 :=
  ⟨⟨fires_of (by decide +kernel), .above 4 (by decide) (by decide)⟩, fires_of (by decide +kernel), .below 1 (by decide) (by decide)⟩

theorem witness_VaFloatOperations :
    Fires (at_ 0 vec) 0 0 kern (head (.v 3)) [(.vaA, ramp), (.vaM, ofWord 0x8000000000000001)] true (BitVec.allOnes 2048) (.vaO 0) 3 ∧
    Fires (at_ 0 fun x => portIs .vaB ramp (vec x)) 0 0 kern (head (.v 3))
      [(.vaA, ramp), (.vaB, ramp), (.vaM, ofWord 0x8000000000000001)] true (BitVec.allOnes 2048) (.vaO 0) 4 :=
  ⟨fires_of (by decide +kernel), fires_of (by decide +kernel)⟩

theorem witness_VaCompares :
    Fires (at_ 1 vec) 0 1 kern (head (.v 3)) [(.vaA, ramp), (.vaM, ofWord 0x8000000000000001)] true (BitVec.allOnes 2048) (.vaO 0) 3 :=
  fires_of (by decide +kernel)

theorem witness_VaConversions :
    Fires (at_ 0 vec) 0 0 kern (head (.v 3)) [] true (BitVec.allOnes 2048) (.vaO 0) 3 ∧
    Fires (at_ 0 vec) 0 0 kern (head (.v 3)) [(.vaA, ramp)] true (BitVec.allOnes 2048) (.vaO 0) 3 :=
  ⟨fires_of (by decide +kernel), fires_of (by decide +kernel)⟩

theorem witness_VaLaneMovement : Fires (at_ 0 vec) 0 0 kern (head (.v 3)) [] true (BitVec.allOnes 2048) (.vaO 0) 3 ∧
    Fires (at_ 0 vec) 0 0 kern (head (.v 3)) [(.vaA, ramp), (.vaM, ofWord 0x8000000000000001)] true (BitVec.allOnes 2048) (.vaO 0) 3 ∧
    Fires (at_ 0 vec) 0 0 kern (head (.v 3)) [(.vaA, ramp)] true (BitVec.allOnes 2048) (.vaO 0) 3 :=
  ⟨fires_of (by decide +kernel), fires_of (by decide +kernel), fires_of (by decide +kernel)⟩

theorem witness_SpecialFunctions : (∀ lat ∈ [8, 10, 14], Fires (at_ 0 vec) 0 0 kern (head (.v 3)) [] true (BitVec.allOnes 2048) (.sfO 0) lat) ∧
    Fires (at_ 0 fun x => portIs .sfA ramp (vec x)) 0 0 kern (head (.v 3)) [(.sfA, ramp)] true (BitVec.allOnes 2048) (.sfO 0) 14 :=
  ⟨fun lat h => by simp only [List.mem_cons, List.not_mem_nil, or_false] at h; rcases h with rfl | rfl | rfl <;> exact fires_of (by decide +kernel),
   fires_of (by decide +kernel)⟩

/-! ### Multi-register forms: the control word names spill register v15 and, of the two halves, the upper (R220, R222) -/

def spilled (x : Ctx) : Ctx := portIs .vaB 31 (vec x)

theorem witness_VaWidenings :
    Fires (at_ 0 spilled) 0 0 kern (head (.v 3)) [(.vaB, 31)] true (BitVec.allOnes 2048) (.vaO 0) 3 ∧ ((at_ 0 spilled).ctx 0).SpillReady 0 31 :=
  ⟨fires_of (by decide +kernel), by unfold Ctx.SpillReady; decide +kernel⟩

theorem witness_VaPackings :
    Fires (at_ 0 spilled) 0 0 kern (head (.v 3)) [(.vaA, ramp), (.vaB, 31)] true (BitVec.allOnes 2048) (.vaO 0) 3 ∧
    ((at_ 0 spilled).ctx 0).SpillReady 0 31 :=
  ⟨fires_of (by decide +kernel), by unfold Ctx.SpillReady; decide +kernel⟩

/-- Husks that are bad in va.a = the ramp, and none bad in va.a = 0. -/
theorem witness_VaUnpack :
    (Fires (at_ 0 spilled) 0 0 kern (head (.v 3)) [(.vaA, ramp), (.vaB, 31)] true (BitVec.allOnes 2048) (.vaO 0) 3 ∧
      ((at_ 0 spilled).ctx 0).SpillReady 0 31) ∧
    (unpackFrom 0 0 4 0 128).isSome = true ∧ (unpackFrom 0xFFFF 0 4 0 128).isSome = false :=
  ⟨⟨fires_of (by decide +kernel), by unfold Ctx.SpillReady; decide +kernel⟩, by decide +kernel, by decide +kernel⟩

/-! ### Reductions -/

/-- A standing booking of resource `r` by context 0. -/
def owning (r : Nat) (s : State) : State :=
  { s with cal := { ctx := 0, res := r, start := 0, len := 1, per := 1, count := 0, std := true } :: s.cal }

theorem redReady : RedReady (at_ 0 (portIs .rdL (ofWord 3)) (owning 13)) 0 3 0 :=
  ⟨by decide +kernel, by decide, isValue_of (by decide +kernel)⟩

theorem witness_RedFolds : Fires (at_ 0 (portIs .rdL (ofWord 3)) (owning 13)) 0 0 kern (head (.v 3))
    [(.rdL, ofWord 3), (.rdM, ofWord (BitVec.allOnes 64))] true 0 (.rdP 3) 6 ∧ RedReady (at_ 0 (portIs .rdL (ofWord 3)) (owning 13)) 0 3 0 :=
  ⟨fires_of (by decide +kernel), redReady⟩

theorem witness_RedArguments : Fires (at_ 0 (portIs .rdL (ofWord 3)) (owning 13)) 0 0 kern (head (.v 3))
    [(.rdL, ofWord 3), (.rdM, ofWord (BitVec.allOnes 64))] true 0 (.rdP 3) 6 ∧
    Fires (at_ 0 (portIs .rdL (ofWord 3)) (owning 13)) 0 0 kern (head (.v 3)) [(.rdL, ofWord 3)] true 0 (.rdP 3) 6 ∧
    RedReady (at_ 0 (portIs .rdL (ofWord 3)) (owning 13)) 0 3 0 ∧
    (at_ 0 (portIs .rdL (ofWord 3)) (owning 13)).owns 0 13 0 = true :=
  ⟨fires_of (by decide +kernel), fires_of (by decide +kernel), redReady, by decide +kernel⟩

/-! ### Compares and system registers -/

/-- ia.a = 1; the guard port holds `g`; the condition queue holds `q` bits. -/
def comparing (g : Word) (q : Nat) (x : Ctx) : Ctx :=
  portIs .iaA (ofWord 1) (portIs .iaG (ofWord g) { x with cq := List.replicate q true })

/-- A queue with room and a full one; guards 0, 1, 15 and 16, and 8 with and without a pipelined loop. -/
theorem witness_Compares :
    (∀ q ∈ [0, 15, 16], Fires (at_ 0 (comparing 1 q)) 0 0 kern (head (.small 7)) [(.iaA, ofWord 1)] false (ofWord (-1)) .cq 1) ∧
    (∀ g ∈ [0, 1, 8, 15, 16], Fires (at_ 0 (comparing (BitVec.ofNat 64 g) 0)) 0 0 kern (head (.small 7))
      [(.iaA, ofWord 1), (.iaG, ofWord (BitVec.ofNat 64 g))] false (ofWord (-1)) (.guard g) 1) ∧
    Fires (at_ 0 fun x => comparing 8 0 { x with pl := true }) 0 0 kern (head (.small 7))
      [(.iaA, ofWord 1), (.iaG, ofWord 8)] false (ofWord (-1)) (.guard 8) 1 :=
  ⟨fun q h => by simp only [List.mem_cons, List.not_mem_nil, or_false] at h; rcases h with rfl | rfl | rfl <;> exact fires_of (by decide +kernel),
   fun g h => by
    simp only [List.mem_cons, List.not_mem_nil, or_false] at h
    rcases h with rfl | rfl | rfl | rfl | rfl <;> exact fires_of (by decide +kernel),
   fires_of (by decide +kernel)⟩

/-- nst, and a number without a register, in t. -/
theorem witness_SystemRegisterReads :
    Fires (at_ 0) 0 0 kern (head (.small 8)) [] false (ofWord 0) (.iaO 0) 1 ∧ (at_ 0).sysreg 0 kern 0 = some 0 ∧
    Fires (at_ 0) 0 0 kern (head (.small 7)) [] false (ofWord (-1)) (.iaO 0) 1 ∧ (at_ 0).sysreg 0 kern (2 ^ 64 - 1) = none :=
  ⟨fires_of (by decide +kernel), by decide +kernel, fires_of (by decide +kernel), by decide +kernel⟩

/-- The kernel with one segment alone. -/
def kern1 : Kernel := { kern with segs := kern.segs.take 1 }
def oneSeg (s : State) : State := { s with icache := [kern1] }

/-- rnk, rnc and tvec are written; tvec refuses segment 511 of a kernel with one segment; 0xFFF is no register. -/
theorem witness_SystemRegisterWrites :
    (∀ r ∈ [(1 : Word), 2, 0x40, 0xFFF], Reads (at_ 0 (portIs .iaA (ofWord r))) 0 0 kern (head (.small 7)) [(.iaA, ofWord r)] false
      (ofWord (-1)) ∧ (((at_ 0 (portIs .iaA (ofWord r))).ctx 0).writeSys r.toNat (-1)).GoesOn kern) ∧
    Reads (at_ 0 (portIs .iaA (ofWord 0x40)) oneSeg) 0 0 kern1 (head (.small 7)) [(.iaA, ofWord 0x40)] false (ofWord (-1)) ∧
    sysRefuses kern1 0x40 (-1) = true ∧ sysRefuses kern 0x40 (-1) = false ∧ (at_ 0).sysreg 0 kern 0xFFF = none :=
  ⟨fun r h => by
    simp only [List.mem_cons, List.not_mem_nil, or_false] at h
    rcases h with rfl | rfl | rfl | rfl <;> exact ⟨reads_of (by decide +kernel), by unfold Ctx.GoesOn; decide +kernel⟩,
   reads_of (by decide +kernel), by decide +kernel, by decide +kernel, by decide +kernel⟩

/-! ### Guards, moves, immediates, no-ops -/

def carriesB (x : Ctx) (k : Kernel) (q : Nat) : Bool :=
  (List.range k.width).all fun j => ((k.carriedS q j).all fun r => x.isFull (.s j (physS x.rb r))) &&
    (k.carriedV q j).all fun r => x.isFull (.v j (physV x.rb r))

theorem carries_of {x : Ctx} {k : Kernel} {q : Nat} (h : carriesB x k q = true) : x.Carries k q := fun j hj => by
  simp only [carriesB, List.all_eq_true, Bool.and_eq_true, List.mem_range] at h
  exact h j hj

/-- A slot under the inverted k0, and under k1, which is resolved false at task start. -/
theorem witness_UnsatisfiedGuards : Alone (at_ 0) 0 0 kern ∧ ((at_ 0).ctx 0).GoesOn kern ∧
    ((at_ 0).ctx 0).gstate true 0 = .no ∧ ((at_ 0).ctx 0).gstate false 1 = .no ∧
    destCluster (.s 0 31) < kern.width ∧ kern.width ≤ destCluster (.v 1 0) ∧ Commands (at_ 0) 0 0 kern { cmd with inv := true } :=
  ⟨alone_of (by decide +kernel), by unfold Ctx.GoesOn; decide +kernel, by decide, by decide, by decide, by decide,
   ⟨alone_of (by decide +kernel), by unfold Ctx.GoesOn; decide +kernel, by decide⟩⟩

/-- Yield kind 5 with a segment of the kernel, and with one beyond it. -/
theorem witness_NopImmediateUnassigned : Alone (at_ 0 id oneSeg) 0 0 kern1 ∧ ((at_ 0 id oneSeg).ctx 0).GoesOn kern1 ∧
    rejectCause kern1.nseg (.illegalWait 0) = none ∧ rejectCause kern1.nseg (.illegalWait 1) = some cIllegalControl ∧
    ((at_ 0 id oneSeg).ctx 0).settled ∧ ((at_ 0 id oneSeg).ctx 0).Carries kern1 0 ∧ ((at_ 0 id oneSeg).ctx 0).links = [] ∧
    ((at_ 0 id oneSeg).ctx 0).loops = [] :=
  ⟨alone_of (by decide +kernel), by unfold Ctx.GoesOn; decide +kernel, by decide +kernel, by decide +kernel,
   by unfold Ctx.settled; decide +kernel, carries_of (by decide +kernel), by decide, by decide⟩

/-- `v3 -> v15`: the highest of the registers that do not rotate alone. -/
theorem witness_MoveToRegister :
    Alone (at_ 0 vec) 0 0 kern ∧ ((at_ 0 vec).ctx 0).Satisfied false 0 ∧ ((at_ 0 vec).ctx 0).GoesOn kern ∧ destCluster (.v 0 15) < kern.width ∧
    ((at_ 0 vec).ctx 0).registerOf (.v 0 15) = some (.v 0 15) ∧ (at_ 0 vec).SourceIs 0 kern 0 (.v 3) true (BitVec.allOnes 2048) ∧
    IsValue 0 (((at_ 0 vec).ctx 0).alts (.v 0 15)) ∧ ((at_ 0 vec).ctx 0).isFull (.v 0 15) = true ∧
    ∀ f ∈ ((at_ 0 vec).ctx 0).flight, f.land = (at_ 0 vec).now + 1 → f.dest ≠ .v 0 15 ∧ f.spill.map (·.1) ≠ some (.v 0 15) :=
  ⟨alone_of (by decide +kernel), by unfold Ctx.Satisfied; decide, by unfold Ctx.GoesOn; decide +kernel, by decide, by decide +kernel,
   source_of (by decide +kernel), isValue_of (by decide +kernel), by decide +kernel, by decide +kernel⟩

/-- va.a empty and full; rd.l takes 3 and refuses 4 (R83). -/
theorem witness_MoveToPort :
    Alone (at_ 0) 0 0 kern ∧ ((at_ 0).ctx 0).Satisfied false 0 ∧ ((at_ 0).ctx 0).GoesOn kern ∧ 0 < kern.width ∧
    (at_ 0).SourceIs 0 kern 0 (.v 3) true 0 ∧ ((at_ 0).ctx 0).alts (.port 0 .vaA) = [] ∧ IsValue ramp (((at_ 0 vec).ctx 0).alts (.port 0 .vaA)) ∧
    (at_ 0).SourceIs 0 kern 0 (.small 11) false 3 ∧ (at_ 0).SourceIs 0 kern 0 (.small 12) false 4 ∧
    portRange .rdL 3 = true ∧ portRange .rdL 4 = false :=
  ⟨alone_of (by decide +kernel), by unfold Ctx.Satisfied; decide, by unfold Ctx.GoesOn; decide +kernel, by decide, source_of (by decide +kernel),
   by decide +kernel, isValue_of (by decide +kernel), source_of (by decide +kernel), source_of (by decide +kernel), by decide, by decide⟩

/-- A queue of 15 and of 16 bits; rm takes 4 and refuses 5; k8 in and out of a pipelined loop. -/
theorem witness_MoveToControl :
    (∀ q ∈ [15, 16], Alone (at_ 0 fun x => { x with cq := List.replicate q true }) 0 0 kern) ∧
    (Alone (at_ 0) 0 0 kern ∧ ((at_ 0).ctx 0).Satisfied false 0 ∧ ((at_ 0).ctx 0).GoesOn kern ∧ 0 < kern.width ∧
      (at_ 0).SourceIs 0 kern 0 (.small 12) false (ofWord 4) ∧ (at_ 0).SourceIs 0 kern 0 (.small 13) false (ofWord 5) ∧
      (((at_ 0).ctx 0).setLc 4).GoesOn kern ∧ ((at_ 0).ctx 0).guard 8 = .resolved false ∧ ((at_ 0).ctx 0).hasPark 8 = false ∧
      (at_ 0).LandsAlone 0 (.guard 8) 1 ∧ ((at_ 0).ctx 0).pl = false) ∧
    Alone (at_ 0 fun x => { x with pl := true }) 0 0 kern ∧ ((at_ 0 fun x => { x with pl := true }).ctx 0).pl = true :=
  ⟨fun q h => by simp only [List.mem_cons, List.not_mem_nil, or_false] at h; rcases h with rfl | rfl <;> exact alone_of (by decide +kernel),
   ⟨alone_of (by decide +kernel), by unfold Ctx.Satisfied; decide, by unfold Ctx.GoesOn; decide +kernel, by decide, source_of (by decide +kernel),
    source_of (by decide +kernel), by unfold Ctx.GoesOn; decide +kernel, by decide, by decide, by unfold State.LandsAlone; decide +kernel, by decide⟩,
   alone_of (by decide +kernel), by decide⟩

/-! ### Loads and stores -/

/-- ls.a holds the address; the bank and one page of global memory of tenant 0 are there. -/
def addr (a : Word) (x : Ctx) : Ctx := portIs .lsA (ofWord a) x

/-- A page of 64 KiB at virtual 2^32 in HBM at 2^20. -/
def paged (s : State) : State :=
  { owning 15 s with
    tcache := [{ tenant := 0, vbase := 2 ^ 32, bits := 16, pbase := 2 ^ 20, space := 0, dev := 0, r := true, w := true, tent := false }]
    tenants := vset s.tenants 0 { s.tenant 0 with troot := 1 } }

/-- A store of byte 9 to scratchpad byte `a` of the core, held under the term `t`. -/
def heldStore (a : Nat) (t : Term) : HeldStore := { scratch := true, va := a, pa := a, size := 1, data := 9, term := t, col := 0 }
def holding (hs : List HeldStore) (x : Ctx) : Ctx := { x with held := hs }

theorem noneHeldIn_of {x : Ctx} {key n : Nat} (h : (x.held.all fun e => (List.range n).all fun i => !e.writes (key + i)) = true) :
    x.NoneHeldIn key n := by
  intro e he i hi
  simp only [List.all_eq_true, List.mem_range, Bool.not_eq_true'] at h
  exact h e he i hi

/-- Addresses that name v15 and s31 as the place of the load (R250). -/
def toV15 : Word := BitVec.ofNat 64 (2 ^ 63 + 47 * 2 ^ 57 + 65280)
def toS31 : Word := BitVec.ofNat 64 (2 ^ 63 + 31 * 2 ^ 57 + 65528)

/-- The last 256 bytes of the first bank, to ls.o and to v15; its last word to s31. -/
theorem witness_ScratchpadLoads :
    Fires (at_ 0 (addr 65280) paged) 0 0 kern (head (.small 8)) [(.lsA, ofWord 65280)] false (ofWord 0) (.lsO 0) 5 ∧
    LoadsTo ((at_ 0 (addr 65280) paged).ctx 0) 0 65280 (.lsO 0) ∧
    InWindow (at_ 0 (addr 65280) paged) 0 kern 65280 256 ∧
    ((at_ 0 (addr 65280) paged).ctx 0).NoneHeldIn ((at_ 0 (addr 65280) paged).windowKey 0 65280) 256 ∧
    isPoisoned (at_ 0 (addr 65280) paged).poisonS ((at_ 0 (addr 65280) paged).windowKey 0 65280) 256 = false ∧
    (Fires (at_ 0 (addr toV15) paged) 0 0 kern (head (.small 8)) [(.lsA, ofWord toV15)] false (ofWord 0) (.v 0 15) 5 ∧
      LoadsTo ((at_ 0 (addr toV15) paged).ctx 0) 0 toV15 (.v 0 15)) ∧
    (Fires (at_ 0 (addr toS31) paged) 0 0 kern (head (.small 8)) [(.lsA, ofWord toS31)] false (ofWord 0) (.s 0 31) 5 ∧
      LoadsTo ((at_ 0 (addr toS31) paged).ctx 0) 0 toS31 (.s 0 31)) :=
  ⟨fires_of (by decide +kernel), .latch (by decide), ⟨by decide +kernel, by decide +kernel, by decide, by decide, by decide +kernel, by decide +kernel⟩,
   noneHeldIn_of (by decide +kernel), by decide +kernel, ⟨fires_of (by decide +kernel), .vector (by decide) (by decide) (by decide)⟩,
   ⟨fires_of (by decide +kernel), .scalar (by decide) (by decide)⟩⟩

/-- The first line of that page is in the L1. -/
def lined (s : State) : State := { paged s with l1 := [{ line := 2 ^ 20, cxid := 0, data := List.replicate 128 7, poison := 0 }] }

/-- The page's first byte, in HBM. -/
def place : Place := { space := 0, dev := 0, pa := 2 ^ 20, tent := false }

theorem witness_GlobalLoadHits :
    Fires (at_ 0 (addr 0x100000000) lined) 0 0 kern (head (.small 8)) [(.lsA, ofWord 0x100000000)] false (ofWord 0) (.lsO 0) 8 ∧
    LoadsTo ((at_ 0 (addr 0x100000000) lined).ctx 0) 0 0x100000000 (.lsO 0) ∧
    InGlobal (at_ 0 (addr 0x100000000) lined) 0 (2 ^ 32) 16 false place ∧ ((at_ 0 (addr 0x100000000) lined).ctx 0).NoneHeld place.pa (2 ^ 32) 16 ∧
    (at_ 0 (addr 0x100000000) lined).l1Read 0 place.pa 16 = some (List.replicate 16 7, false) ∧
    (at_ 0 (addr 0x100000000) lined).foreignStores 0 place.pa 16 = [] :=
  ⟨fires_of (by decide +kernel), .latch (by decide), ⟨by decide, by decide, by decide +kernel, rfl, fun h => absurd h (by decide)⟩,
   by unfold Ctx.NoneHeld; decide, by decide +kernel, by decide +kernel⟩

theorem witness_GlobalLoadMisses :
    Fires (at_ 0 (addr 0x100000000) paged) 0 0 kern (head (.small 8)) [(.lsA, ofWord 0x100000000)] false (ofWord 0) (.lsO 0) 8 ∧
    LoadsTo ((at_ 0 (addr 0x100000000) paged).ctx 0) 0 0x100000000 (.lsO 0) ∧
    InGlobal (at_ 0 (addr 0x100000000) paged) 0 (2 ^ 32) 256 false place ∧ ((at_ 0 (addr 0x100000000) paged).ctx 0).NoneHeld place.pa (2 ^ 32) 256 ∧
    (at_ 0 (addr 0x100000000) paged).l1Read 0 place.pa 256 = none ∧
    (at_ 0 (addr 0x100000000) paged).missRead 0 place.pa 256 ((at_ 0 (addr 0x100000000) paged).foreignStores 0 place.pa 256) = (List.replicate 256 0, false) ∧
    (((at_ 0 (addr 0x100000000) paged).ctx 0).fills.filter (·.col == 0)).length < 16 :=
  ⟨fires_of (by decide +kernel), .latch (by decide), ⟨by decide, by decide, by decide +kernel, rfl, fun h => absurd h (by decide)⟩,
   by unfold Ctx.NoneHeld; decide, by decide +kernel, by decide +kernel, by decide⟩

/-- A store of context 1 under cxid 1 waits, released, and context 0 has passed an acquire: its load of the line in the L1 misses. -/
theorem witness_GlobalLoadMisses_late :
    let e : StoreEntry := { pa := 2 ^ 20, data := [9], cxid := 1, task := none, seq := 2, due := 0, barrier := 0 }
    let s := at_ 0 (fun x => { addr 0x100000000 x with acq := 5 })
      fun s => (lined s).modCtx 1 fun x => { x.modCol 0 fun k => { k with storeQ := [e] } with relBarrier := 3 }
    Fires s 0 0 kern (head (.small 8)) [(.lsA, ofWord 0x100000000)] false (ofWord 0) (.lsO 0) 8 ∧ (s.ctx 0).NoneHeld place.pa (2 ^ 32) 16 ∧
    s.foreignStores 0 place.pa 16 = [e] ∧ s.missRead 0 place.pa 16 [e] = (9 :: List.replicate 15 7, false) :=
  ⟨fires_of (by decide +kernel), by unfold Ctx.NoneHeld; decide +kernel, by decide +kernel, by decide +kernel⟩

/-- The last bytes of the first bank, beside a held store of the byte below them; a page of global memory. -/
theorem witness_Stores :
    (∀ f ∈ [id, holding [heldStore 65279 []]],
      Reads (at_ 1 (fun x => f (addr 65280 x)) paged) 0 1 kern (head (.v 3)) [(.lsA, ofWord 65280)] true 0 ∧
      ((at_ 1 (fun x => f (addr 65280 x)) paged).ctx 0).NoneHeldIn ((at_ 1 id paged).windowKey 0 65280) 256) ∧
    Reads (at_ 1 (addr 65535) paged) 0 1 kern (head (.s 3)) [(.lsA, ofWord 65535)] false 0 ∧
    InWindow (at_ 1 (addr 65280) paged) 0 kern 65280 256 ∧ InWindow (at_ 1 (addr 65535) paged) 0 kern 65535 1 ∧
    Reads (at_ 0 (addr 0x100000000) paged) 0 0 kern (head (.v 3)) [(.lsA, ofWord 0x100000000)] true 0 ∧
    InGlobal (at_ 0 (addr 0x100000000) paged) 0 (2 ^ 32) 256 true place ∧
    ((at_ 0 (addr 0x100000000) paged).ctx 0).NoneHeld place.pa (2 ^ 32) 256 ∧
    (((at_ 0 (addr 0x100000000) paged).ctx 0).col 0).storeQ.length < 32 :=
  ⟨fun f h => by
    simp only [List.mem_cons, List.not_mem_nil, or_false] at h
    rcases h with rfl | rfl <;> exact ⟨reads_of (by decide +kernel), noneHeldIn_of (by decide +kernel)⟩,
   reads_of (by decide +kernel),
   ⟨by decide +kernel, by decide +kernel, by decide, by decide, by decide +kernel, by decide +kernel⟩,
   ⟨by decide +kernel, by decide +kernel, by decide, by decide, by decide +kernel, by decide +kernel⟩,
   reads_of (by decide +kernel), ⟨by decide, by decide, by decide +kernel, rfl, fun _ => by decide +kernel⟩,
   by unfold Ctx.NoneHeld; decide, by decide⟩

/-- Guard 3 is open. -/
def opened (x : Ctx) : Ctx := { x with guards := vset x.guards 3 .opened }
def under3 (src : Source) : MoveHead := { head src with g := 3 }

/-- A store under k3 to the scratchpad and to global memory, and one with 16 stores held; a store over a held byte; loads over held
bytes, unconditional and under k3. -/
theorem witness_HeldStores :
    (Reads (at_ 0 (fun x => opened (addr 65280 x)) paged) 0 0 kern (under3 (.v 3)) [(.lsA, ofWord 65280)] true 0 (gs := .opened 3 true) ∧
      Reads (at_ 0 (fun x => opened (addr 65281 x)) paged) 0 0 kern (under3 (.v 3)) [(.lsA, ofWord 65281)] true 0 (gs := .opened 3 true) ∧
      Reads (at_ 0 (fun x => opened (addr 0x100000000 x)) paged) 0 0 kern (under3 (.v 3)) [(.lsA, ofWord 0x100000000)] true 0
        (gs := .opened 3 true) ∧
      InGlobal (at_ 0 (fun x => opened (addr 0x100000000 x)) paged) 0 (2 ^ 32) 256 true place ∧
      Reads (at_ 0 (fun x => opened (holding (List.replicate 16 (heldStore 0 [(3, true)])) (addr 65280 x))) paged) 0 0 kern
        (under3 (.v 3)) [(.lsA, ofWord 65280)] true 0 (gs := .opened 3 true)) ∧
    (∀ t ∈ [[], [(3, true)]],
      let s := at_ 0 (fun x => opened (holding [heldStore 65535 t] (addr 65280 x))) paged
      Reads s 0 0 kern (head (.v 3)) [(.lsA, ofWord 65280)] true 0 ∧ InWindow s 0 kern 65280 256 ∧
      (heldStore 65535 t).writes (s.windowKey 0 65280 + 255) = true ∧
      Fires s 0 0 kern (head (.small 8)) [(.lsA, ofWord 65280)] false (ofWord 0) (.lsO 0) 5 ∧
      isPoisoned s.poisonS (s.windowKey 0 65280) 256 = false) ∧
    (let s := at_ 0 (fun x => opened (holding [heldStore 65535 [(3, true)]] (addr toV15 x))) paged;
      Fires s 0 0 kern (head (.small 8)) [(.lsA, ofWord toV15)] false (ofWord 0) (.v 0 15) 5 ∧ LoadsTo (s.ctx 0) 0 toV15 (.v 0 15)) :=
  ⟨⟨reads_of (by decide +kernel), reads_of (by decide +kernel), reads_of (by decide +kernel),
    ⟨by decide, by decide, by decide +kernel, rfl, fun _ => by decide +kernel⟩, reads_of (by decide +kernel)⟩,
   fun t h => by
    simp only [List.mem_cons, List.not_mem_nil, or_false] at h
    rcases h with rfl | rfl <;> exact ⟨reads_of (by decide +kernel),
      ⟨by decide +kernel, by decide +kernel, by decide, by decide, by decide +kernel, by decide +kernel⟩, by decide +kernel,
      fires_of (by decide +kernel), by decide +kernel⟩,
   fires_of (by decide +kernel), .vector (by decide) (by decide) (by decide)⟩

/-- No translation of the page, and one that denies it. -/
def unpaged (s : State) : State := { paged s with tcache := [] }
def sealedPage (s : State) : State := { paged s with tcache := (paged s).tcache.map fun e => { e with r := false, w := false, space := 3 } }

/-- Context 0 with its misses, or its stores, full. -/
def missing16 (x : Ctx) : Ctx :=
  { x with fills := List.replicate 16 { id := 7, col := 0, dest := .lsO 0, kind := .n8, pa := 0, due := 9, forms := [], data := [], poison := false } }
def storing32 (x : Ctx) : Ctx :=
  x.modCol 0 fun y => { y with storeQ := List.replicate 32 { pa := 0, data := [1], cxid := 0, task := none, seq := 7, due := 9, barrier := 0 } }

/-- Every way to be refused, and the waits: addresses beyond the logical core, beyond the kernel, in a bank that is not owned, unaligned in
and out of the window; a page that denies the access; one whose translation is not known; queues that are full. -/
theorem witness_RefusedAccesses :
    (∀ a ∈ [(0 : Word), 1, 65536, 65535, 0x1FFFFF, 0x100000000, 0x100000001],
      Reads (at_ 0 (addr a) paged) 0 0 kern (head (.small 8)) [(.lsA, ofWord a)] false (ofWord 0)) ∧
    Refused (at_ 0 (addr 0x80000) fun s => { paged s with mode := 2 }) 0 kern 0x80000 1 false cPermission 0x80000 ∧
    Refused (at_ 0 (addr 65536) paged) 0 kern 65536 1 true cOverrun 16 ∧
    Refused (at_ 0 (addr 65535) paged) 0 kern 65535 2 false cAlignment 65535 ∧
    Refused (at_ 0 (addr 0x100000001) paged) 0 kern 0x100000001 8 true cAlignment 0x100000001 ∧
    Refused (at_ 0 (addr 0x100000000) sealedPage) 0 kern 0x100000000 8 false cPermission 0x100000000 ∧
    (at_ 0 (addr 0x100000000) unpaged).pageOf 0 (2 ^ 32) true false = none ∧
    (InGlobal (at_ 0 (fun x => missing16 (addr 0x100000000 x)) paged) 0 (2 ^ 32) 256 false place ∧
      (at_ 0 (fun x => missing16 (addr 0x100000000 x)) paged).l1Read 0 place.pa 256 = none) ∧
    InGlobal (at_ 0 (fun x => storing32 (addr 0x100000000 x)) paged) 0 (2 ^ 32) 256 true place ∧
    isPoisoned (at_ 0 id fun s => { paged s with poisonS := [(paged s).windowKey 0 0 / 64] }).poisonS ((at_ 0).windowKey 0 0) 1 = true :=
  ⟨fun a h => by
    simp only [List.mem_cons, List.not_mem_nil, or_false] at h
    rcases h with rfl | rfl | rfl | rfl | rfl | rfl | rfl <;> exact reads_of (by decide +kernel),
   .beyond (by decide) (by decide +kernel), .bank (by decide) (by decide +kernel) (by decide +kernel) (by decide +kernel) (.inl (by decide +kernel)),
   .unaligned (by decide) (by decide +kernel) (by decide +kernel) (by decide +kernel) (by decide +kernel) (by decide),
   .misaligned (by decide) (by decide), .denied (by decide) (by decide) (by decide +kernel), by decide +kernel,
   ⟨⟨by decide, by decide, by decide +kernel, rfl, fun h => absurd h (by decide)⟩, by decide +kernel⟩,
   ⟨by decide, by decide, by decide +kernel, rfl, fun _ => by decide +kernel⟩, by decide +kernel⟩

/-! ### Engine commands: every resource is owned, a page lies at 0x400000, a block at scratchpad byte 0x1000 -/

def ownAll (s : State) : State :=
  { s with
    cal := (List.range 51).map fun r => { ctx := 0, res := r, start := 0, len := 1, per := 1, count := 0, std := true }
    tcache := [{ tenant := 0, vbase := 0x400000, bits := 16, pbase := 0x10000, space := 0, dev := 0, r := true, w := true, tent := false }]
    lcores := vset s.lcores 0 { tenant := 0, assigned := true }
    tenants := vset s.tenants 0 { s.tenant 0 with troot := 1 } }

/-- Staging set 5 of column 0. -/
def stage (w0 w1 w2 w3 : Nat) (x : Ctx) : Ctx :=
  let put := fun (g : Vector Word 64) (i w : Nat) => vset g i (BitVec.ofNat 64 w)
  x.modCol 0 fun y => { y with sg := put (put (put (put y.sg 20 w0) 21 w1) 22 w2) 23 w3 }

/-- The bytes of a command block (R306). -/
def block (b : Nat) (s : State) : State :=
  let m := memWrite s.spad (s.windowKey 0 0x1000) (leBytes 256 b)
  { s with spad := m, spad0 := m }

def eng (n w0 w1 w2 w3 : Nat) (b : Nat := 0) : State := at_ n (stage w0 w1 w2 w3) fun s => block b (ownAll s)

def acceptsB (f : Work → EngEnv → Work) (s : State) (n : Nat) : Bool :=
  let w := f (s.work 0 kern) (s.engEnv 0 n (cmd_ 5))
  w.empties.isEmpty && w.collapses.isEmpty && w.stops.isEmpty

theorem accepted_of {f : Work → EngEnv → Work} {s : State} {n : Nat} (h : acceptsB f s n = true) :
    (f (s.work 0 kern) (s.engEnv 0 n (cmd_ 5))).Accepted := by
  simpa [acceptsB, Work.Accepted, and_assoc] using h

def commandsB (s : State) (n : Nat) : Bool :=
  aloneB s 0 n kern && decide ((endIteration (s.ctx 0).pc 5 (s.ctx 0)).1 < kern.ncode) && decide ((s.ctx 0).base + n / 2 < 4) &&
  decide ((s.ctx 0).gstate false 0 = .yes)

theorem commands_of {s : State} {n : Nat} (h : commandsB s n = true) :
    Commands s 0 n kern (cmd_ 5) ∧ (s.ctx 0).Satisfied (cmd_ 5).inv (cmd_ 5).g := by
  simp only [commandsB, Bool.and_eq_true, decide_eq_true_eq] at h
  exact ⟨⟨alone_of h.1.1.1, h.1.1.2, h.1.2⟩, h.2⟩

/-- An array operand word of a step: planes and strides (R246). -/
def aWord : Nat := 4 * 2 ^ 56 + 2 * 2 ^ 44 + 2 * 2 ^ 32

def ready (f : Work → EngEnv → Work) (s : State) (n : Nat) : Bool := commandsB s n && acceptsB f s n

/-- The hypotheses of an engine command at `s`, for the command that `f` examines. -/
def Meets (f : Work → EngEnv → Work) (s : State) (n : Nat) : Prop :=
  (Commands s 0 n kern (cmd_ 5) ∧ (s.ctx 0).Satisfied (cmd_ 5).inv (cmd_ 5).g) ∧ (f (s.work 0 kern) (s.engEnv 0 n (cmd_ 5))).Accepted

theorem ready_of {f : Work → EngEnv → Work} {s : State} {n : Nat} (h : ready f s n = true) : Meets f s n := by
  simp only [ready, Bool.and_eq_true] at h
  exact ⟨commands_of h.1, accepted_of h.2⟩

theorem witness_MatrixCommands : Meets (fun w e => w.mxStep e 4) (eng 0 aWord 0 0 0) 0 ∧ Meets (fun w e => w.mxRun e 4) (eng 1 aWord 0 0 aWord) 1 ∧
    Meets (fun w e => w.mxZero e 7) (eng 0 0 0 0 0) 0 ∧ Meets (fun w e => w.mxLdb e 4) (eng 0 aWord 0 0 0) 0 ∧
    Meets (fun w e => w.mxSt e 7) (eng 0 (2 * 2 ^ 21 + 0x2000) 0 0 0) 0 :=
  ⟨ready_of (by decide +kernel), ready_of (by decide +kernel), ready_of (by decide +kernel), ready_of (by decide +kernel),
   ready_of (by decide +kernel)⟩

/-- A matrix command under the inverted k0 whose span could be held. -/
theorem witness_UnsatisfiedGuards_held : Commands (eng 0 aWord 0 0 0) 0 0 kern { cmd_ 5 with inv := true } ∧
    ((eng 0 aWord 0 0 0).ctx 0).gstate true 0 = .no ∧
    (((eng 0 aWord 0 0 0).work 0 kern).mxStep ((eng 0 aWord 0 0 0).engEnv 0 0 { cmd_ 5 with inv := true }) 4).Accepted :=
  ⟨⟨alone_of (by decide +kernel), by unfold Ctx.GoesOn; decide +kernel, by decide⟩, by decide +kernel,
   accepted_of (s := eng 0 aWord 0 0 0) (n := 0) (f := fun w e => w.mxStep e 4) (by decide +kernel)⟩

/-- A transfer block of one dimension, and a drain block (R307, R308). -/
def xferBlock : Nat := 1 + 3 * 2 ^ 8 + 1 * 2 ^ 16 + 2 * 2 ^ 34 + 8 * 2 ^ 64
def drainBlock : Nat := 1 + 2 * 2 ^ 8 + 2 * 2 ^ 16 + 3 * 2 ^ 32 + 4 * 2 ^ 64

theorem witness_CopyCommands : Meets (fun w e => w.cpXfer e false) (eng 0 0x1000 0x400000 0x2000 0 xferBlock) 0 ∧
    Meets (fun w e => w.cpXfer e true) (eng 0 0x1000 0x400000 0x2000 0 xferBlock) 0 ∧
    Meets (fun w e => w.cpDrain e 4 false) (eng 0 0x1000 0x2000 0x400100 0 drainBlock) 0 ∧
    Meets (fun w e => w.cpDrain e 4 true) (eng 0 0x1000 0x2000 0x400100 0 drainBlock) 0 :=
  ⟨ready_of (by decide +kernel), ready_of (by decide +kernel), ready_of (by decide +kernel), ready_of (by decide +kernel)⟩

def selecting : State := eng 0 (0x4000 + 3 * 2 ^ 21 + 15 * 2 ^ 27) (0x6000 + 2 ^ 21) (0x8000 * 2 ^ 22) 3
def checkpointing : State := eng 1 0x400000 0x1000 0 (2 ^ 63 + 0x400040)

theorem witness_SelectionAndCheckpointCommands : Meets (fun w e => w.selIssue e .rank) selecting 0 ∧
    Meets (fun w e => w.selIssue e .wqnt) selecting 0 ∧ Meets (fun w e => w.selIssue e .thr) selecting 0 ∧
    Meets (fun w e => w.ckpIssue e .snap) checkpointing 1 ∧ Meets (fun w e => w.ckpIssue e .load) checkpointing 1 ∧
    Meets (fun w e => w.ckpIssue e .commit) checkpointing 1 ∧ Meets (fun w e => w.ckpIssue e .drop) checkpointing 1 :=
  ⟨ready_of (by decide +kernel), ready_of (by decide +kernel), ready_of (by decide +kernel), ready_of (by decide +kernel),
   ready_of (by decide +kernel), ready_of (by decide +kernel), ready_of (by decide +kernel)⟩

/-- The hypotheses of a synchronisation command. -/
def MeetsSync (s : State) (n : Nat) (i : (EngHead → Instr) × SyOp × Nat) : Prop :=
  let e := s.engEnv 0 n (cmd_ 5)
  let w3 := syW3 e.w3
  (Commands s 0 n kern (cmd_ 5) ∧ (s.ctx 0).Satisfied (cmd_ 5).inv (cmd_ 5).g) ∧
  syBad i.2.1 i.2.2 e = false ∧ w3.raddr % 16 = 0 ∧ (i.2.1.isPhaser = false → e.w0 % (if w3.w32 then 4 else 8) = 0) ∧
  (w3.rcd = true → w3.raddr + 16 ≤
    columnBytes * lcoreWidth s.mode.toNat - columnBytes * ((s.ctx 0).base % lcoreWidth s.mode.toNat)) ∧
  (i.2.1 = .base ∨ (i.2.1.isPhaser = false ∧ w3.sem ≠ 0) → (s.ctx 0).staleScope w3.scope = false) ∧ (s.ctx 0).synQ.length < 32 ∧
  (i.2.1.isPhaser = false → 2 ≤ w3.sem → (s.ctx 0).fills = [] ∧ (s.ctx 0).settled)

def syncB (s : State) (n : Nat) (i : (EngHead → Instr) × SyOp × Nat) : Bool :=
  let e := s.engEnv 0 n (cmd_ 5)
  let w3 := syW3 e.w3
  commandsB s n && decide (syBad i.2.1 i.2.2 e = false) && decide (w3.raddr % 16 = 0) &&
  decide (i.2.1.isPhaser = false → e.w0 % (if w3.w32 then 4 else 8) = 0) &&
  decide (w3.rcd = true → w3.raddr + 16 ≤
    columnBytes * lcoreWidth s.mode.toNat - columnBytes * ((s.ctx 0).base % lcoreWidth s.mode.toNat)) && decide ((s.ctx 0).staleScope w3.scope = false) &&
  decide ((s.ctx 0).synQ.length < 32) && decide ((s.ctx 0).fills = []) && decide ((s.ctx 0).lowestOpen = none) &&
  decide ((s.ctx 0).parked = []) && decide ((s.ctx 0).held = [])

theorem sync_of {s : State} {n : Nat} {is : List ((EngHead → Instr) × SyOp × Nat)} (h : is.all (syncB s n) = true) :
    ∀ i ∈ is, MeetsSync s n i := by
  intro i hi
  have h := List.all_eq_true.mp h i hi
  simp only [syncB, Bool.and_eq_true, decide_eq_true_eq] at h
  obtain ⟨⟨⟨⟨⟨⟨⟨⟨⟨⟨h1, h2⟩, h3⟩, h4⟩, h5⟩, h6⟩, h7⟩, h8⟩, h9⟩, h10⟩, h11⟩ := h
  exact ⟨commands_of h1, h2, h3, h4, h5, fun _ => h6, h7, fun _ _ => ⟨h8, h9, h10, h11⟩⟩

/-- The five phaser commands with a record at the last place of a column's first bank; the atomics and reductions as releases of
32 bits (R330). -/
theorem witness_SyncCommands :
    (∀ i ∈ (syncCommands 2).take 5, MeetsSync (eng 1 5 5 2 (2 ^ 21 + 0xFFF0)) 1 i) ∧
    ∀ i ∈ (syncCommands 2).drop 5, MeetsSync (eng 0 0x400000 5 3 (2 * 2 ^ 26 + 2 ^ 28)) 0 i :=
  ⟨sync_of (by decide +kernel), sync_of (by decide +kernel)⟩

/-- Entries 1 and 14, neither valid; a mask that names core 0 alone. -/
theorem witness_ScopeCommands : ∀ p ∈ [1, 14],
    let s := eng 0 0x1000 0xFF00FF 3 0 1
    (Commands s 0 0 kern (cmd_ 5) ∧ (s.ctx 0).Satisfied (cmd_ 5).inv (cmd_ 5).g) ∧ (vget (s.ctx 0).scopes p {}).chg = false ∧
    (s.ctx 0).staleScope p = true ∧
    (s.engEnv 0 0 (cmd_ 5)).w0 = 0x1000 ∧ (s.engEnv 0 0 (cmd_ 5)).w2 < 4 ∧ s.owns 0 15 0 = true ∧ s.occupied 15 0 = false ∧
    isPoisoned s.poisonS (s.windowKey 0 0x1000) 32 = false ∧ s.maskAllowed (s.tenantOf 0) (memNat s.spad (s.windowKey 0 0x1000) 32) = true := by
  intro p hp
  simp only [List.mem_cons, List.not_mem_nil, or_false] at hp
  rcases hp with rfl | rfl <;> exact ⟨commands_of (by decide +kernel), by decide +kernel, by decide +kernel, by decide +kernel, by decide +kernel,
    by decide +kernel, by decide +kernel, by decide +kernel, by decide +kernel⟩

/-- Entries 1 and 14, valid. -/
theorem witness_ScopeCommands_clear : ∀ p ∈ [1, 14],
    let s := at_ 0 fun x => { x with scopes := vset x.scopes p { val := true } }
    (Commands s 0 0 kern (cmd_ 5) ∧ (s.ctx 0).Satisfied (cmd_ 5).inv (cmd_ 5).g) ∧ (s.ctx 0).staleScope p = false := by
  intro p hp
  simp only [List.mem_cons, List.not_mem_nil, or_false] at hp
  rcases hp with rfl | rfl <;> exact ⟨commands_of (by decide +kernel), by decide +kernel⟩

/-! ### Control -/

/-- Targets 0 and 63 within the kernel and 64 and -1 beyond it; a queue that is empty, and one that begins with each bit. -/
theorem witness_Branches : Alone (at_ 0) 0 0 kern ∧ ((at_ 0).ctx 0).Satisfied false 0 ∧ ((at_ 0).ctx 0).gstate true 0 = .no ∧
    ((at_ 0).ctx 0).GoesOn kern ∧ ((at_ 0).ctx 0).cq = [] ∧ ((at_ 0).ctx 0).pc + (-5#11 : BitVec 11).toInt = 0 ∧ kern.ncode = 64 ∧
    ∀ b, Alone (at_ 0 fun x => { x with cq := [b, !b] }) 0 0 kern :=
  ⟨alone_of (by decide +kernel), by unfold Ctx.Satisfied; decide, by decide, by unfold Ctx.GoesOn; decide +kernel, by decide, by decide,
   by decide, fun b => by cases b <;> exact alone_of (by decide +kernel)⟩

/-- A link stack that is empty, has room for one more, and is full. -/
theorem witness_CallsAndReturns : ∀ d ∈ [0, 15, 16], Alone (at_ 0 fun x => { x with links := List.replicate d 7 }) 0 0 kern ∧
    ((at_ 0 fun x => { x with links := List.replicate d 7 }).ctx 0).links.length = d := by
  intro d hd
  simp only [List.mem_cons, List.not_mem_nil, or_false] at hd
  rcases hd with rfl | rfl | rfl <;> exact ⟨alone_of (by decide +kernel), by decide⟩

/-- A loop entry around the pc. -/
def around : LoopEntry := { first := 1, last := 60, pipe := false, save := 0, lk := 1 }

/-- lc 0 and 2; three and four entries; an open gate; a pipelined loop; bodies that end at 63 and beyond. -/
theorem witness_LoopEntries :
    (∀ d ∈ [0, 3, 4], ∀ n ∈ [0, 2], Alone (at_ 0 fun x => { x with loops := List.replicate d around, lc := BitVec.ofNat 32 n }) 0 0 kern ∧
      ((at_ 0 fun x => { x with loops := List.replicate d around, lc := BitVec.ofNat 32 n }).ctx 0).lcNow.toNat = n) ∧
    Alone (at_ 0 fun x => { x with guards := vset x.guards 15 .opened }) 0 0 kern ∧ Alone (at_ 0 fun x => { x with pl := true }) 0 0 kern ∧
    ((at_ 0).ctx 0).pc + (58#11).toNat < kern.ncode ∧ kern.ncode ≤ ((at_ 0).ctx 0).pc + (59#11).toNat ∧
    ((List.range 8).all fun i => !((at_ 0).ctx 0).isOpen (8 + i) && !((at_ 0).ctx 0).hasPark (8 + i)) = true ∧
    Ctx.GoesOn { (at_ 0).ctx 0 with loops := [{ first := 6, last := 63, pipe := false, save := 2, lk := 0 }], lc := 2 } kern ∧
    Ctx.GoesOn { ((at_ 0).ctx 0).setGates (· == 0) with
      loops := [{ first := 6, last := 63, pipe := true, save := 2, lk := 0 }], pst := 1, strt := 1, rem := 1, pl := true } kern :=
  ⟨fun d hd n hn => by
    simp only [List.mem_cons, List.not_mem_nil, or_false] at hd hn
    rcases hd with rfl | rfl | rfl <;> rcases hn with rfl | rfl <;> exact ⟨alone_of (by decide +kernel), by decide +kernel⟩,
   alone_of (by decide +kernel), alone_of (by decide +kernel), by decide, by decide, by decide, by unfold Ctx.GoesOn; decide +kernel,
   by unfold Ctx.GoesOn; decide +kernel⟩

/-- k1 and k15 resolved and open; a gate in a pipelined loop; the first column, the first column beyond the width, bank 0 and SEL. -/
theorem witness_GuardsAndCells : Alone (at_ 0) 0 0 kern ∧ ((at_ 0).ctx 0).GoesOn kern ∧
    Alone (at_ 0 fun x => { x with guards := vset x.guards 15 .opened }) 0 0 kern ∧
    ((at_ 0 fun x => { x with guards := vset x.guards 15 .opened }).ctx 0).isOpen 15 = true ∧
    Alone (at_ 0 fun x => { x with pl := true }) 0 0 kern ∧ (0 < 4 ∧ 0 < kern.width) ∧ ¬ 1 < kern.width ∧ resColumn 1 = some 1 ∧
    physRes 0 0 12 = some 12 ∧ resColumn 12 = none :=
  ⟨alone_of (by decide +kernel), by unfold Ctx.GoesOn; decide +kernel, alone_of (by decide +kernel), by decide, alone_of (by decide +kernel),
   by decide, by decide, by decide, by decide, by decide⟩

/-- A store still queued. -/
def queued : StoreEntry := { pa := 64, data := [1], cxid := 0, task := some 0, seq := 1, due := 9, barrier := 0 }
def storing (x : Ctx) : Ctx := x.modCol 0 fun k => { k with storeQ := [queued] }

/-- Scopes 0 and 15, which are never stale, and an invalid entry; a drain with nothing queued, and with a store queued. -/
theorem witness_FencesAndDrains : Alone (at_ 0) 0 0 kern ∧ ((at_ 0).ctx 0).GoesOn kern ∧ ((at_ 0).ctx 0).settled ∧ ((at_ 0).ctx 0).fills = [] ∧
    ((at_ 0).ctx 0).staleScope 0 = false ∧ ((at_ 0).ctx 0).staleScope 15 = false ∧ ((at_ 0).ctx 0).staleScope 1 = true ∧
    (at_ 0).undrained 0 7 = false ∧
    Alone (at_ 0 storing) 0 0 kern ∧ ((at_ 0 storing).ctx 0).GoesOn kern ∧ ((at_ 0 storing).ctx 0).settled ∧ (at_ 0 storing).undrained 0 1 = true :=
  ⟨alone_of (by decide +kernel), by unfold Ctx.GoesOn; decide +kernel, by unfold Ctx.settled; decide +kernel, by decide, by decide, by decide,
   by decide, by decide +kernel, alone_of (by decide +kernel), by unfold Ctx.GoesOn; decide +kernel, by unfold Ctx.settled; decide +kernel,
   by decide +kernel⟩

/-! ### Yields and tasks -/

def cancelB (s : State) (t : Task) : Bool := match s.cancelRead t with | .ok b => !b | .error _ => false

theorem cancel_of {s : State} {t : Task} (h : cancelB s t = true) : s.cancelRead t = .ok false := by
  unfold cancelB at h
  split at h
  · rename_i b e; rw [e]; cases b <;> simp_all
  · exact absurd h (by decide)

def mayLeaveB (s : State) (n : Nat) (t : Task) (q : Nat) (k : Kernel := kern) : Bool :=
  let x := s.ctx 0
  aloneB s 0 n k && decide (s.boundTask 0 = some t) && decide (∀ u ∈ s.tasks, u.id = t.id → u = t) && decide (x.lowestOpen = none) &&
  decide (x.parked = []) && decide (x.held = []) && decide (x.loops = []) && decide (x.links = []) &&
  ((List.range 12).all fun i => decide ((x.timeline i).latch = none)) && decide (q < k.nseg) && decide (k.width ≤ 4) && carriesB x k q && cancelB s t &&
  s.readsReady t.tenant (s.leaveSpans t k)

theorem mayLeave_of {s : State} {n : Nat} {t : Task} {q : Nat} {k : Kernel} (h : mayLeaveB s n t q k = true) : MayLeave s 0 n k t q := by
  simp only [mayLeaveB, Bool.and_eq_true, decide_eq_true_eq, List.all_eq_true, List.mem_range] at h
  obtain ⟨⟨⟨⟨⟨⟨⟨⟨⟨⟨⟨⟨⟨h1, h2⟩, h3⟩, h4⟩, h5⟩, h6⟩, h7⟩, h8⟩, h9⟩, h10⟩, h11⟩, h12⟩, h13⟩, h14⟩ := h
  exact ⟨alone_of h1, h2, h3, ⟨h4, h5, h6⟩, h7, h8, h9, h10, h11, carries_of h12, cancel_of h13, h14⟩

/-- ix, a condition queue of one entry, and one operation of counter 4 over, another not. -/
def waiting (ix : Word) (x : Ctx) : Ctx :=
  { x.modCol 0 fun k => { k with ix := ix } with cq := [true], tl := vset x.tl 4 { issued := 2, out := [2], latch := none } }

/-- Tenant 0 has a frame arena of one frame, at a virtual address whose tables map it (R134, R287); the homes are ready (R402). -/
def framed (s : State) : State :=
  let w := fun (a v : Nat) (m : Memory) => memWrite m a (leBytes 8 v)
  { s with
    mem := w 0x5000 (0x10000 + 15) (w 0x4000 0x5001 (w 0x3000 0x4001 (w 0x2000 0x3001 (w 0x1000 0x2001 []))))
    tenants := vset s.tenants 0 { s.tenant 0 with troot := 0x1001, arenaBase := 704, arenaSize := 704 }
    platform := { s.platform with brs := 0x7FFFFFFFFFFFFFFF } }

/-- Where an arena has room for one frame alone, it is given, whatever the free choice. -/
theorem allocFrame_one {s : State} {n size : Nat} (h : (s.tenant n).arenaSize = size)
    (hf : (((s.tasks.filter (·.tenant == n)).flatMap fun t => (t.fra, t.fsize) :: t.par.toList.map fun _ => (t.parFra, t.fsize)).all
      fun f => decide (f.1 + f.2 ≤ (s.tenant n).arenaBase) || decide ((s.tenant n).arenaBase + size ≤ f.1)) = true) :
    s.allocFrame n size = (some (s.tenant n).arenaBase, { s with free := s.free + 1 }) := by
  unfold State.allocFrame
  simp only [h, gt_iff_lt, Nat.lt_irrefl, if_false, Nat.sub_self, Nat.zero_div, Nat.zero_add, Nat.mod_one, Nat.mul_zero, Nat.add_zero]
  rw [firstFrom, if_pos hf]
  rfl

def entry : TEntry := { tenant := 0, vbase := 0, bits := 12, pbase := 0x10000, space := 0, dev := 0, r := true, w := true, tent := false }

/-- The five entries that map the first page of tenant 0, each with its address. -/
def levels : List (Nat × Nat) := [(0x1000, 0x2001), (0x2000, 0x3001), (0x3000, 0x4001), (0x4000, 0x5001), (0x5000, 0x10000 + 15)]

/-- Those entries stand in memory, and every frame lies in that page. -/
structure Framed (s : State) : Prop where
  wf : s.mem.wf = true
  root : (s.tenant 0).troot = 0x1001
  clean : s.poisonG = []
  tables : ∀ p ∈ levels, memRead s.mem p.1 8 = leBytes 8 p.2
  frames : ∀ t ∈ s.tasks, t.tenant = 0 ∧ t.fra < 4096

theorem walk_tables {s : State} (root : (s.tenant 0).troot = 0x1001) (clean : s.poisonG = [])
    (tables : ∀ p ∈ levels, memRead s.mem p.1 8 = leBytes 8 p.2) {va : Nat} (hv : va < 4096) : s.walk 0 va = .page entry := by
  have e : ∀ k, 12 ≤ k → fld va k 9 = 0 := fun k hk => by
    have : va / 2 ^ k = 0 := Nat.div_eq_of_lt (lt_of_lt_of_le (show va < 2 ^ 12 from hv) (Nat.pow_le_pow_right (show 0 < 2 by decide) hk))
    rw [fld, Nat.shiftRight_eq_div_pow, this, Nat.zero_mod]
  have t : ∀ p ∈ levels, memNat s.mem p.1 8 = p.2 := fun p hp => by
    rw [memNat, tables p hp]
    revert p
    decide
  unfold State.walk
  rw [root]
  have w : walkFrom s 0 va 4 0x1000 = .page entry := by
    rw [walkFrom_next (e _ (by decide)) clean (t (0x1000, 0x2001) (by decide)) (next := 0x2000) (by decide),
      walkFrom_next (e _ (by decide)) clean (t (0x2000, 0x3001) (by decide)) (next := 0x3000) (by decide),
      walkFrom_next (e _ (by decide)) clean (t (0x3000, 0x4001) (by decide)) (next := 0x4000) (by decide),
      walkFrom_next (e _ (by decide)) clean (t (0x4000, 0x5001) (by decide)) (next := 0x5000) (by decide),
      walkFrom_leaf (e _ (by decide)) clean (t (0x5000, 0x10000 + 15) (by decide)) (by decide)]
    have l : va / 2 ^ 12 = 0 := Nat.div_eq_of_lt hv
    unfold leafEntry
    rw [show fld (0x10000 + 15) 7 4 = 0 from by decide]
    simp only [Nat.add_zero, l]
    rfl
  exact w

theorem Framed.walk {s : State} (h : Framed s) {va : Nat} (hv : va < 4096) : s.walk 0 va = .page entry :=
  walk_tables h.root h.clean h.tables hv

theorem memRead_congr {m m' : Memory} : ∀ {n a : Nat}, (∀ x, x < a + n → memGet m x = memGet m' x) → memRead m a n = memRead m' a n
  | 0, _, _ => rfl
  | n + 1, a, h => by
    rw [memRead, memRead, h a (by omega), memRead_congr (n := n) fun x hx => h x (by omega)]

/-- A frame of that page can be written: its tables lie below the page. -/
theorem Framed.frameOpen {s : State} (h : Framed s) {fra n : Nat} (hn : fra + n ≤ 4096) : s.FrameOpen 0 fra n := by
  refine ⟨fun i hi => ⟨entry, h.walk (by omega), rfl⟩, fun t ht hp hm i hi => ?_⟩
  have clean : t.poisonG = [] := List.eq_nil_iff_forall_not_mem.mpr fun g hg => by
    have := hp g hg
    rw [h.clean] at this
    exact List.not_mem_nil this
  have low : ∀ a, a < 0x10000 → memGet t.mem a = memGet s.mem a := fun a ha => hm a fun j e hj he => by
    rw [h.walk (by omega)] at he
    rw [← XRes.page.inj he]
    exact .inl (lt_of_lt_of_le ha (Nat.le_add_right _ _))
  have tables : ∀ p ∈ levels, memRead t.mem p.1 8 = leBytes 8 p.2 := fun p hp => by
    rw [← h.tables p hp]
    have : p.1 + 8 ≤ 0x10000 := by revert p; decide
    exact memRead_congr fun x hx => low x (by omega)
  rw [walk_tables ((ht 0).trans h.root) clean tables (by omega), h.walk (by omega)]

theorem Framed.of_eq {s t : State} (h : Framed s) (hm : t.mem = s.mem) (ht : t.tenants = s.tenants) (hp : t.poisonG = s.poisonG)
    (hf : ∀ u ∈ t.tasks, u.tenant = 0 ∧ u.fra < 4096) : Framed t :=
  ⟨hm ▸ h.wf, by rw [State.tenant, ht]; exact h.root, hp ▸ h.clean, hm ▸ h.tables, hf⟩

theorem Framed.modTask {s : State} (h : Framed s) (i : Nat) {f : Task → Task} (hf : ∀ t, (f t).tenant = t.tenant ∧ (f t).fra = t.fra) :
    Framed (s.modTask i f) := h.of_eq rfl rfl rfl fun u hu => by
  obtain ⟨v, hv, rfl⟩ := List.mem_map.mp hu
  split
  · rw [(hf v).1, (hf v).2]
    exact h.frames v hv
  · exact h.frames v hv

theorem Framed.modNode {s : State} (h : Framed s) (i : Nat) (f : Node → Node) : Framed (s.modNode i f) := h.of_eq rfl rfl rfl h.frames

theorem Framed.frameWrite {s : State} (h : Framed s) {va : Nat} (hv : va < 4096) (bs : List Byte) :
    ∃ t, s.frameWrite 0 va bs = .ok t ∧ Framed t := by
  refine ⟨_, by rw [State.frameWrite, h.walk hv]; rfl, ?_⟩
  unfold State.writeGlobal
  split
  · exact h
  · refine ⟨Memory.wf_memWrite h.wf _ _, h.root, by simp [h.clean, clearPoison], fun p hp => ?_, h.frames⟩
    rw [← h.tables p hp]
    have hx : entry.pa va ≥ 0x10000 := Nat.le_add_right _ _
    simp only [levels, List.mem_cons, List.not_mem_nil, or_false] at hp
    rcases hp with rfl | rfl | rfl | rfl | rfl <;> exact memRead_memWrite_above h.wf (le_trans (by decide) hx)

theorem Framed.foldlM {α : Type} {f : State → α → Except Fault State} {l : List α}
    (hf : ∀ a ∈ l, ∀ s, Framed s → ∃ t, f s a = .ok t ∧ Framed t) : ∀ {s : State}, Framed s → ∃ t, l.foldlM f s = .ok t ∧ Framed t := by
  induction l with
  | nil => exact fun h => ⟨_, rfl, h⟩
  | cons a l ih =>
    intro s h
    obtain ⟨t, ht, h'⟩ := hf a (List.mem_cons_self ..) s h
    obtain ⟨u, hu, h''⟩ := ih (fun b hb => hf b (List.mem_cons_of_mem _ hb)) h'
    exact ⟨u, by rw [List.foldlM_cons, ht]; exact hu, h''⟩

theorem Framed.frameWriteAll {s : State} (h : Framed s) {va : Nat} {bs : List Byte} (hv : va + bs.length < 4096) :
    ∃ t, s.frameWriteAll 0 va bs = .ok t ∧ Framed t := by
  refine Framed.foldlM (fun p hp s h => h.frameWrite ?_ _) h
  have h1 := (List.mem_zipIdx hp).2.1
  have h2 := pieces64_length (bs.length / 64 + 1) bs
  omega

theorem Framed.writeHeader {s : State} (h : Framed s) (i : Nat) : ∃ t, s.writeHeader i = .ok t ∧ Framed t := by
  unfold State.writeHeader
  split
  · rename_i t ht
    have := h.frames t (List.mem_of_find?_eq_some ht)
    rw [this.1]
    exact h.frameWrite this.2 _
  · exact ⟨s, rfl, h⟩

/-- The image of a segment that carries nothing. -/
theorem Framed.writeImage {s : State} (h : Framed s) {x : Ctx} {k : Kernel} {q fra : Nat} (hs : ∀ j < k.width, k.carriedS q j = [])
    (hv : ∀ j < k.width, k.carriedV q j = []) (hf : fra + 64 + 640 * k.width < 4096) : ∃ t, s.writeImage x k q 0 fra = .ok t ∧ Framed t := by
  unfold State.writeImage
  refine Framed.foldlM ?_ h
  intro j hj s h
  have h' : Framed ({ s with free := s.free + 3 } : State) := h.of_eq rfl rfl rfl h.frames
  refine h'.frameWriteAll ?_
  have := freeBytes_length s.free 640
  have hj := List.mem_range.mp hj
  simp only [Ctx.imageBytes, hs j hj, hv j hj, List.flatMap_nil, List.nil_append, List.length_nil, List.drop_zero, List.append_nil, List.length_append,
    List.length_take, List.length_drop]
  omega

/-- A child not joined. -/
def joining (s : State) : State := framed { s with tasks := [{ task1 with nkid := 1 }] }

theorem waiting_framed : ∀ ix ∈ [(1 : Word), 2], Framed (at_ 0 (waiting ix) framed) := by
  intro ix h
  simp only [List.mem_cons, List.not_mem_nil, or_false] at h
  rcases h with rfl | rfl <;> exact ⟨by decide +kernel, by decide +kernel, by decide +kernel, by decide +kernel, by decide +kernel⟩

/-- The kernel of one slot carries nothing. -/
theorem carries_none (q j : Nat) : kern.carriedS q j = [] ∧ kern.carriedV q j = [] := by
  have hc : ∀ a, (kern.carry.getD a []).getD j (0, 0) = (0, 0) := fun a => by
    rcases a with _ | a
    · rcases j with _ | _ | _ | _ | j <;> rfl
    · rfl
  unfold Kernel.carriedS Kernel.carriedV
  rw [hc]
  decide

/-- Waits that are satisfied, with the frame on a page (R137). -/
theorem witness_Yields_pass : (∀ w ∈ [Wait.timeline 4 1, .arrival 0 0, .guard, .cq, .time 0, .children],
      (at_ 0 (waiting 1) framed).waitDone { task1 with wait := w, ctx := some 0 } = true) ∧
    MayLeave (at_ 0 (waiting 1) framed) 0 0 kern task1 511 ∧ (at_ 0 (waiting 1) framed).walk task1.tenant task1.fra = .page entry ∧
    entry.space = 0 ∧ YieldsFor (at_ 0 (waiting 1) framed) 0 0 511 (.yieldTl 4 511) (.timeline 4 1) ∧
    YieldsFor (at_ 0 (waiting 0) framed) 0 0 511 (.yieldArr 15 511) (.arrival 0 0) ∧
    YieldsFor (at_ 0 (waiting 1) framed) 0 0 511 (.yieldGrd 15 511) .guard ∧ YieldsFor (at_ 0 (waiting 1) framed) 0 0 511 (.yieldCq 511) .cq ∧
    YieldsFor (at_ 0 (waiting 0) framed) 0 0 511 (.yieldTime 511) (.time 0) ∧ YieldsFor (at_ 0 (waiting 1) framed) 0 0 511 (.syncc 511) .children :=
  ⟨by decide +kernel, mayLeave_of (by decide +kernel), (waiting_framed 1 (by decide)).walk (by decide), rfl, .timeline 4 (by decide) (by decide +kernel),
   .arrival 15, .guard 15 (by decide), .queue (by decide), .time, .children⟩

/-- Waits that are not satisfied, each with its task that may leave and a frame that hardware can write. -/
theorem witness_Yields : (∀ i ∈ [(Wait.timeline 4 2, Instr.yieldTl 4 511), (.arrival 0 2, .yieldArr 15 511), (.phaser 2 0, .yieldPh 15 511),
      (.time 2, .yieldTime 511)],
      (at_ 0 (waiting 2) framed).waitDone { task1 with wait := i.1, ctx := some 0 } = false ∧
      YieldsFor (at_ 0 (waiting 2) framed) 0 0 511 i.2 i.1) ∧
    MayLeave (at_ 0 (waiting 2) framed) 0 0 kern task1 511 ∧ (at_ 0 (waiting 2) framed).FrameOpen task1.tenant task1.fra (64 + 640 * kern.width) ∧
    (∀ j, (kern.carriedS 511 j).length ≤ 16 ∧ (kern.carriedV 511 j).length ≤ 2) ∧ (at_ 0 (waiting 2) framed).Inv ∧
    MayLeave (at_ 0 (waiting 2) joining) 0 0 kern { task1 with nkid := 1 } 511 ∧
    (at_ 0 (waiting 2) joining).waitDone { task1 with wait := .children, ctx := some 0, nkid := 1 } = false ∧
    YieldsFor (at_ 0 (waiting 2) joining) 0 0 511 (.syncc 511) .children ∧
    YieldsFor (at_ 0 (waiting 1) framed) 0 0 511 (.yieldPg 511) (.pager 1) ∧ YieldsFor (at_ 0 (waiting 1) framed) 0 0 511 (.yieldPh 0 511) (.phaser 1 0) := by
  refine ⟨fun i h => ?_, mayLeave_of (by decide +kernel), (waiting_framed 2 (by decide)).frameOpen (by decide), fun j => ?_,
    ⟨⟨by decide +kernel, by decide +kernel, by decide +kernel, by decide +kernel, by decide +kernel⟩, by decide +kernel, by decide +kernel⟩,
    mayLeave_of (by decide +kernel), by decide +kernel, .children, .pager (by decide +kernel), .phaser 0 (by decide)⟩
  · simp only [List.mem_cons, List.not_mem_nil, or_false] at h
    rcases h with rfl | rfl | rfl | rfl
    · exact ⟨by decide +kernel, .timeline 4 (by decide) (by decide +kernel)⟩
    · exact ⟨by decide +kernel, .arrival 15⟩
    · exact ⟨by decide +kernel, .phaser 15 (by decide)⟩
    · exact ⟨by decide +kernel, .time⟩
  · rw [(carries_none 511 j).1, (carries_none 511 j).2]
    decide

/-- A kernel whose segments carry s31 and v15, in the first page; the last bytes of both in the image. -/
def bearer : Kernel := { kern with carry := [(0x80000000, 0x8000) :: List.replicate 3 (0, 0)] }
def bearing (s : State) : State := { framed s with icache := [bearer] }
theorem witness_Yields_image : MayLeave (at_ 0 (waiting 2) bearing) 0 0 bearer task1 511 ∧
    (at_ 0 (waiting 2) bearing).waitDone { task1 with wait := .timeline 4 2, ctx := some 0 } = false ∧
    (at_ 0 (waiting 2) bearing).FrameOpen task1.tenant task1.fra 704 ∧ (at_ 0 (waiting 2) bearing).Apart task1.tenant task1.fra 704 ∧
    ((at_ 0 (waiting 2) bearing).ctx 0).imageByte bearer 511 0 7 = some 0 ∧
    ((at_ 0 (waiting 2) bearing).ctx 0).imageByte bearer 511 0 383 = some 0 := by
  have f : Framed (at_ 0 (waiting 2) bearing) :=
    ⟨by decide +kernel, by decide +kernel, by decide +kernel, by decide +kernel, by decide +kernel⟩
  refine ⟨mayLeave_of (by decide +kernel), by decide +kernel, f.frameOpen (by decide), fun i j a b hi hj hne ha hb => ?_,
    by decide +kernel, by decide +kernel⟩
  rw [show task1.tenant = 0 from rfl, show task1.fra = 0 from rfl, f.walk (by omega)] at ha hb
  rw [← XRes.page.inj ha, ← XRes.page.inj hb]
  have e : ∀ i, 64 * i < 4096 → entry.pa (0 + 64 * i) = 0x10000 + 64 * i := fun i h => by
    unfold TEntry.pa
    simp only [entry]
    omega
  rw [show task1.fra = 0 from rfl, e i (by omega), e j (by omega)]
  omega

/-- Inside a loop and a call (R178, R179); the machine as the fork commits. -/
def deep : State := at_ 0 (fun x => { waiting 1 x with loops := [around], links := [7] }) framed
def forking : State := deep.modCtx 0 (·.advance deep.now)
theorem forking_task : forking.boundTask 0 = some task1 := by decide +kernel
theorem forking_kernel : forking.kernelOf task1 = some kern := by decide +kernel
theorem forking_frame : forking.allocFrame task1.tenant kern.frameSize = (some 704, { forking with free := forking.free + 1 }) :=
  allocFrame_one (by decide +kernel) (by decide +kernel)

/-- A fork of a task of the first page whose kernel carries nothing. -/
theorem Framed.fork {s s1 : State} {c q fra : Nat} {wid : Word} {t : Task} {k : Kernel} (ht : s.boundTask c = some t)
    (h0 : t.tenant = 0) (hk : s.kernelOf t = some k) (ha : s.allocFrame t.tenant k.frameSize = (some fra, s1)) (h1 : Framed s1)
    (hf : fra + 64 + 640 * k.width < 4096) (hs : ∀ j < k.width, k.carriedS q j = [])
    (hv : ∀ j < k.width, k.carriedV q j = []) :
    (s.forkTask c q wid).toOption.isSome = true := by
  have key : ∀ s2 : State, Framed s2 → ∀ i, (do
      let s3 ← s2.writeHeader t.id
      let s4 ← s3.writeHeader i
      let s5 ← s4.writeImage (s4.ctx c) k q t.tenant fra
      pure (s5.enqueue i (s5.now + 1)) : Except Fault State).toOption.isSome = true := fun s2 h2 i => by
    obtain ⟨s3, e3, h3⟩ := h2.writeHeader t.id
    obtain ⟨s4, e4, h4⟩ := h3.writeHeader i
    obtain ⟨s5, e5, -⟩ := h4.writeImage (x := s4.ctx c) (q := q) hs hv hf
    rw [h0]
    simp only [e3, e4, e5, bind, Except.bind, pure, Except.pure]
    rfl
  unfold State.forkTask
  rw [ht]
  dsimp only
  rw [hk]
  dsimp only
  rw [ha]
  refine key _ ?_ _
  refine (Framed.modTask (s := { s1 with tasks := s1.tasks ++ [_], nextId := s1.nextId + 1 }) (h1.of_eq rfl rfl rfl ?_) t.id
    (f := fun u => { u with nkid := u.nkid + 1 }) fun _ => ⟨rfl, rfl⟩).modNode _ _
  intro u hu
  rcases List.mem_append.mp hu with hu | hu
  · exact h1.frames u hu
  · rw [List.mem_singleton.mp hu]
    exact ⟨h0, by dsimp only; omega⟩

theorem forking_ok : (forking.forkTask 0 511 1).toOption.isSome = true := by
  have h : Framed forking := ⟨by decide +kernel, by decide +kernel, by decide +kernel, by decide +kernel, by decide +kernel⟩
  exact Framed.fork forking_task rfl forking_kernel forking_frame (h.of_eq rfl rfl rfl h.frames) (by decide) (by decide +kernel) (by decide +kernel)

theorem deep_frame : deep.allocFrame task1.tenant kern.frameSize = (some 704, { deep with free := deep.free + 1 }) :=
  allocFrame_one (by decide +kernel) (by decide +kernel)

theorem deep_ready : deep.readsReady task1.tenant (deep.forkSpans task1 kern) = true := by
  unfold State.forkSpans
  rw [deep_frame]
  decide +kernel

/-- A child whose parent waits off its context, with their frames on a page. -/
def child : Task := { task1 with par := some 2, parFra := 0 }
def parent : Task := { oneSlotTask 2 with st := .waiting, wait := .children, ctx := none, nkid := 1 }
def orphaning : State := at_ 0 id fun s => framed { s with tasks := [child, parent] }

def inHandler (x : Ctx) : Ctx := { x with tcs := 0x800000030, tres := 63, tseg := 511 }

theorem witness_TasksEndAndTrap :
    (Alone deep 0 0 kern ∧ deep.boundTask 0 = some task1 ∧ (deep.ctx 0).settled ∧ (deep.ctx 0).GoesOn kern ∧ 511 < kern.nseg ∧
      (deep.allocFrame task1.tenant kern.frameSize).1.isSome = true ∧ deep.readsReady task1.tenant (deep.forkSpans task1 kern) = true ∧
      (forking.forkTask 0 511 1).toOption.isSome = true) ∧
    (Alone (at_ 0) 0 0 kern ∧ (at_ 0).boundTask 0 = some task1 ∧ ((at_ 0).ctx 0).settled ∧
      (∀ i ∈ List.range 12, (((at_ 0).ctx 0).timeline i).latch = none) ∧ task1.par = none) ∧
    (Alone orphaning 0 0 kern ∧ orphaning.boundTask 0 = some child ∧ (orphaning.ctx 0).settled ∧
      (∀ i ∈ List.range 12, ((orphaning.ctx 0).timeline i).latch = none) ∧ child.par = some 2 ∧ 2 ≠ child.id ∧ orphaning.task 2 = some parent ∧
      orphaning.readsReady child.tenant child.endSpans = true ∧ orphaning.walk parent.tenant parent.fra = .page entry ∧ entry.space = 0) ∧
    Alone (at_ 0 inHandler) 0 0 kern ∧ ((at_ 0 inHandler).ctx 0).tres.toNat < kern.ncode ∧ ((at_ 0 inHandler).ctx 0).inHandler = true ∧
    ((at_ 0).ctx 0).tres.toNat < kern.ncode ∧ ((at_ 0).ctx 0).inHandler = false :=
  ⟨⟨alone_of (by decide +kernel), by decide +kernel, by unfold Ctx.settled; decide +kernel, by unfold Ctx.GoesOn; decide +kernel, by decide +kernel,
     by rw [deep_frame, Option.isSome_some], deep_ready, forking_ok⟩,
   ⟨alone_of (by decide +kernel), by decide +kernel, by unfold Ctx.settled; decide +kernel, by decide +kernel, by decide⟩,
   ⟨alone_of (by decide +kernel), by decide +kernel, by unfold Ctx.settled; decide +kernel, by decide +kernel, rfl, by decide, by decide +kernel,
     by decide +kernel, walk_tables (by decide +kernel) (by decide +kernel) (by decide +kernel) (by decide), rfl⟩,
   alone_of (by decide +kernel), by decide, by decide, by decide, by decide⟩

/-! ### Events of a context -/

/-- Every function of the package is ready, and its firmware good (R402); context 7 is changed by `f`. -/
def ev (f : Ctx → Ctx) (s : State := State.reset) : State :=
  { s.modCtx 7 f with platform := { s.platform with brs := 0x7FFFFFFFFFFFFFFF } }

def result (d : Loc) (v : Vec) : InFlight := { land := 0, seq := 0, slot := 0, pc := 0, rank := 0, dest := d, alts := [{ val := v }] }

/-- A 16-byte fill of column 3's ls.o that is due. -/
def filling : Fill :=
  { id := 1, col := 3, dest := .lsO 3, kind := .q, pa := 2 ^ 20, due := 0, forms := [{ term := [] }], data := List.replicate 16 5, marked := true }

def parkedOn (g : Nat) : Parked := { g := g, rel := .eq, a := 0, loc := .s 0 1, due := some (0, true) }

def heldIn (scratch : Bool) : HeldStore := { scratch := scratch, va := 65528, pa := 65528, size := 8, data := ramp, term := [], col := 3 }

theorem witness_Landings :
    (∀ d ∈ [Loc.iaO 3, .vaO 3, .sfO 3, .lsO 3, .rdP 3], ((ev fun x => { x with flight := [result d ramp] }).ctx 7).flight = [result d ramp] ∧
      (result d ramp).dest.isLatch) ∧
    (∀ g ∈ [1, 15], ((ev fun x => { x with flight := [result (.guard g) 1] }).ctx 7).flight = [result (.guard g) 1] ∧ 0 < g ∧ g < 16) ∧
    ((ev fun x => { x with flight := [result .cq 1] }).ctx 7).flight = [result .cq 1] ∧
    (((ev fun x => { x with fills := [filling] }).ctx 7).fills = [filling] ∧ (ev fun x => { x with fills := [filling] }).homeReady filling.pa = true ∧
      ((ev fun x => { x with fills := [filling] }).releasedStores 0 filling.behind).any (·.meets filling.pa filling.kind.size) = false ∧
      filling.dest.isLatch ∧ filling.data.length = 16) ∧
    (((ev fun x => { x with parked := [parkedOn 15] }).ctx 7).parked = [parkedOn 15] ∧ (parkedOn 15).due = some (0, true)) ∧
    (ev fun x => x.modCol 3 fun k => { k with storeQ := [{ queued with due := 0 }] }).storeDue 7 3 = some { queued with due := 0 } ∧
    (((ev fun x => { x with held := [heldIn true] }).ctx 7).held = [heldIn true] ∧
      (ev fun x => { x with held := [heldIn true] }).owns 7 15 0 = false ∧
      { ev fun x => { x with held := [heldIn true] } with
        cal := [{ ctx := 7, res := 15, start := 0, len := 1, per := 1, count := 0, std := true }] }.owns 7 15 0 = true) ∧
    (((ev fun x => { x with held := [heldIn false] }).ctx 7).held = [heldIn false] ∧ (heldIn false).col < 4) ∧
    ((ev id).ctx 7).run.pausesHeld = false ∧ ((ev fun x => { x with run := .run 0 }).ctx 7).run.quiet = false := by
  refine ⟨fun d h => ?_, by decide +kernel, by decide +kernel, ⟨by decide +kernel, by decide +kernel, by decide +kernel, (by decide : 3 < 4), by decide⟩,
    ⟨by decide +kernel, by decide⟩, by decide +kernel, ⟨by decide +kernel, by decide +kernel, by decide +kernel⟩, ⟨by decide +kernel, by decide⟩,
    by decide, by decide⟩
  simp only [List.mem_cons, List.not_mem_nil, or_false] at h
  rcases h with rfl | rfl | rfl | rfl | rfl <;> exact ⟨by decide +kernel, (by decide : 3 < 4)⟩

/-- Results for registers, with and without a spill part. -/
theorem witness_Landings_registers : (∀ d ∈ [Loc.s 3 31, .v 3 15, .m 3 7], (result d ramp).dest.isReg = true ∧ (result d ramp).late = []) ∧
    ((ev fun x => { x with flight := [{ result (.vaO 3) ramp with spill := some (.v 3 15, 1) }] }).ctx 7).flight =
      [{ result (.vaO 3) ramp with spill := some (.v 3 15, 1) }] := by decide +kernel

/-- A sum over no lane keeps its latch. -/
def summing : RedStep := { op := .sumI, l := [{ val := 0 }], m := [{ val := 0 }], t := [{ val := 0 }] }
theorem summing_folds : summing.Folds fun v => (v, 0) := by
  rintro v _ ⟨a, rfl, hv, hn, ht, hg⟩
  have e : ∀ (n : Nat), activeLanes 0 = [] := fun _ => by decide
  have k : BitVec.ofNat 2048 (a.val.toNat % 18446744073709551616) = ofWord v := by
    rw [hv, ofWord, BitVec.toNat_setWidth_of_le (by decide), Nat.mod_eq_of_lt v.isLt]
    exact BitVec.ofNat_toNat ..
  constructor <;>
  simp [RedStep.formed, summing, formResult, combos, GState.term, orVoid, Combo.with, ht, hn, hg, Term.conj, RedOp.comp, redComp, RedOp.fold, redSumI, formAlt, e 0, k]

/-- A result that is formed again from partial sum 3. -/
theorem witness_RedFolds_again : let f : InFlight := { result (.rdP 3) 0 with red := some summing }
    ((ev fun x => { x with flight := [f] }).ctx 7).flight = [f] ∧ f.dest = .rdP 3 ∧ f.red = some summing ∧ f.late = [] ∧
    summing.Folds (fun v => (v, 0)) ∧ IsValue (ofWord 0) (((ev fun x => { x with flight := [f] }).ctx 7).alts (.rdP 3)) :=
  ⟨by decide +kernel, rfl, rfl, rfl, summing_folds, isValue_of (by decide +kernel)⟩

/-- A result with flags 0 and 6, none of them enabled, and flag 6 enabled. -/
theorem witness_Landings_flags : ∀ nst ∈ [(0 : Word), 0x4000],
    let s := ev fun x => { x with nst := nst, flight := [{ result (.vaO 3) ramp with flags := 0x41 }] }
    (s.ctx 7).flight = [{ result (.vaO 3) ramp with flags := 0x41 }] ∧ (s.ctx 7).nst = nst ∧ (s.ctx 7).run.quiet = false ∧
    ((ev fun x => { x with nst := nst, run := .ending, flight := [{ result (.vaO 3) ramp with flags := 0x41 }] }).ctx 7).run.quiet = true := by
  intro nst h
  simp only [List.mem_cons, List.not_mem_nil, or_false] at h
  rcases h with rfl | rfl <;> exact ⟨by decide +kernel, by decide +kernel, by decide +kernel, by decide +kernel⟩

/-- A held store to the ninth bank of a kernel of one column. -/
theorem witness_Landings_width : let h := { heldIn true with va := 8 * 65536, pa := 8 * 65536 }
    let s := ev (fun x => { x with run := .run 0, task := some 1, held := [h] }) { State.reset with tasks := [task1] }
    (s.ctx 7).held = [h] ∧ (h.ready ≤ s.now ∧ (s.ctx 7).run.pausesHeld = false ∧ (s.ctx 7).run.quiet = false) ∧
    (s.boundTask 7).map (·.width) = some 1 ∧ h.va / 65536 = 8 := by decide +kernel

/-- Context 0 at a boundary, not having issued in this cycle. -/
def bound (f : Ctx → Ctx) : State := at_ 0 fun x => f { x with issuedAt := none }

/-- A program trap that is due. -/
def trap42 : TrapRec := { cause := cProgram, cls := 3, slot := 1, pc := 4, info := 42 }

def draining (x : Ctx) : Ctx := { x with run := .drain 0 trap42 }

/-- A trap due; a delivery that ends with and without a handler, in handler mode, and of a trap that holds the task. -/
theorem witness_TrapDelivery :
    ((bound fun x => { x with pendP := some trap42 }).drainOver 0 = none ∧ (bound fun x => { x with pendP := some trap42 }).issues 0 = true ∧
      ((bound fun x => { x with pendP := some trap42 }).ctx 0).trapsDue = [trap42] ∧ trap42.cause.code ≠ 0x10) ∧
    (((bound draining).ctx 0).run = .drain 0 trap42 ∧ ((bound draining).ctx 0).flight = [] ∧ ((bound draining).ctx 0).inHandler = false ∧
      ((bound draining).ctx 0).tvec.getLsbD 63 = false) ∧
    (((bound fun x => draining { x with tvec := 0x80000000000001FF }).ctx 0).tvec.getLsbD 63 = true ∧ trap42.hold = false) ∧
    ((bound fun x => draining { x with tcs := 0x800000030 }).ctx 0).inHandler = true ∧
    ((bound fun x => { x with run := .drain 0 { trap42 with hold := true } }).ctx 0).run = .drain 0 { trap42 with hold := true } :=
  ⟨⟨by decide +kernel, by decide +kernel, by decide +kernel, by decide⟩, ⟨by decide +kernel, by decide, by decide, by decide⟩,
   ⟨by decide, by decide⟩, by decide, by decide +kernel⟩

/-- A trap due where no column cell is left. -/
theorem witness_TrapDelivery_lastCell :
    let s : State := { bound fun x => { x with pendP := some trap42 } with cal := [] }
    s.drainOver 0 = none ∧ s.issues 0 = false ∧ s.lastCellGone 0 = true ∧ (s.ctx 0).trapsDue = [trap42] := by decide +kernel

/-- A task off its context that waits for an arrival word, and one that waits for its children. -/
def waitingTask (w : Wait) : Task := { oneSlotTask 9 with st := .waiting, wait := w }
def off (w : Wait) : State := ev id { State.reset with tasks := [waitingTask w] }

theorem witness_Boundaries :
    (bound fun x => { x with preReq := true }).preemptDue 0 = true ∧
    (bound fun x => { x with slice := some 0 }).graceOver 0 = true ∧
    ({ bound id with cal := [] } : State).lastCellGone 0 = true ∧
    (((bound fun x => { x with run := .ending }).ctx 0).run = .ending ∧ ((bound fun x => { x with run := .ending }).ctx 0).flight = []) ∧
    (((bound fun x => { x with run := .evicting 64 { w0 := 0 } true 0 [] none false }).ctx 0).run = .evicting 64 { w0 := 0 } true 0 [] none false ∧
      ((bound fun x => { x with run := .evicting 64 { w0 := 0 } true 0 [] none false }).ctx 0).quiescent = true) ∧
    (∀ w ∈ [Wait.arrival 0 0, .children], (∀ c ∈ List.range 8, ((off w).ctx c).task ≠ some 9) ∧ (off w).task 9 = some (waitingTask w) ∧
      (off w).taskWaitOver (waitingTask w) = true) := by
  refine ⟨by decide +kernel, by decide +kernel, by decide +kernel, ⟨by decide +kernel, by decide⟩, ⟨by decide +kernel, by decide⟩, fun w h => ?_⟩
  simp only [List.mem_cons, List.not_mem_nil, or_false] at h
  rcases h with rfl | rfl <;> exact ⟨by decide +kernel, by decide +kernel, by decide +kernel⟩

/-- An eviction whose save area lies at 64. -/
theorem witness_Boundaries_save :
    let s := { bound fun x => { x with run := .evicting 64 { w0 := 0 } true 0 [] none false } with platform := (ev id).platform }
    (s.ctx 0).quiescent = true ∧ s.spanReady 64 (imageSize (((s.boundTask 0).map (·.width)).getD 1)) = true := by decide +kernel

/-! ### Events of the engines: context 7 is changed by `f`, the machine by `g` -/

def withCmd (m : MCmd) : State := ev id { State.reset with strips := vmod State.reset.strips 3 fun t => { t with cmds := [m] } }
def loading : MCmd := { op := .ldb, ctx := 7, num := 1, c := 0, wb := 3, buf := 1, bw := 8 }
/-- An older store under the same cxid keeps back the head of a queue that a release marked; the head alone may perform; a landing that a
release put behind that store. -/
theorem witness_FencesAndDrains_marks :
    let e := { queued with seq := 3, barrier := 2, due := 0 }
    let s := ev fun x => (x.modCol 0 fun k => { k with storeQ := [queued] }).modCol 3 fun k => { k with storeQ := [e] }
    let u := ev fun x => x.modCol 3 fun k => { k with storeQ := [e] }
    ((s.ctx 7).col 3).storeQ = [e] ∧ (∃ o ∈ s.pendingStores e.cxid, o.seq < e.barrier) ∧
    ((u.ctx 7).col 3).storeQ = [e] ∧ (∀ o ∈ u.pendingStores e.cxid, e.barrier ≤ o.seq) ∧
    u.releasedStores e.cxid e.barrier = [] ∧ e.due ≤ u.now ∧ u.spanReady e.pa e.data.length = true ∧
    (∀ o ∈ u.storesBefore 7 e.seq (min e.seq e.after), o.meets e.pa e.data.length = false) := by decide +kernel

def stepping : MCmd := { op := .step, ctx := 7, num := 1, c := 0, wb := 3, tile := 7 }
def writing : MCmd := { op := .st, ctx := 7, num := 1, c := 0, wb := 0, tile := 7, rows := 0, base := 0x2000, rstr := 2 }
def zeroing : MCmd := { op := .zero, ctx := 7, num := 1, c := 0, wb := 3, tile := 7 }

theorem witness_MatrixEvents :
    (withCmd loading).mtxFind 3 (·.loadDue 0) = some (loading, 0) ∧
    ({ withCmd stepping with now := 9999 } : State).mtxFind 3 (·.stepDue 9999) = some (stepping, 0) ∧
    (withCmd writing).mtxFind 3 (withCmd writing).rowMay = some (writing, 0) ∧
    (∀ m ∈ [zeroing, { stepping with stepped := true }], ({ withCmd m with now := 9999 } : State).mtxFind 3 (·.doneDue 9999) = some (m, 0)) :=
  ⟨by decide +kernel, by decide +kernel, by decide +kernel, by decide +kernel⟩

def withCopy (m : CpCmd) (p : List ParkedPiece := []) : State :=
  ev id { State.reset with chans := vset State.reset.chans 3 { cmds := [m], parked := p, retryAt := 0 }, now := 99 }
def copying : CpCmd :=
  { op := .xfer, ctx := 7, num := 1, c := 0, wb := 3, pieces := 1, dst := 0x2000, rem := false, dcore := 0, arr := false, awa := 0, rel := false,
    scope := 0, tenant := 0, notBefore := 0 }
def parkedPiece : ParkedPiece := { ctx := 7, num := 1, k := 0, data := [], fut := some 0, va := 0, wr := false, tenant := 0, ready := true }
def landing (sp : Space) : Landing :=
  { due := 0, chan := 3, ctx := 7, num := 1, near := true, parts := [(sp, 64, [1, 2])], count := 2, awa := none, stamp := 0, bars := Vector.replicate 4 0,
    poison := false, va := 64 }
def withLanding (sp : Space) : State := ev id { State.reset with landings := [landing sp] }
theorem witness_FencesAndDrains_landing : let l := { landing .global with bars := Vector.replicate 4 3 }
    let s := ev id { State.reset with landings := [l], queued0 := [(0, 2, false)] }
    l ∈ s.landings ∧ ∃ p ∈ l.parts, ∃ o ∈ s.queued0, (o.1 = (s.ctx l.ctx).cxid.toNat ∨ o.2.2 = true) ∧ o.2.1 < vget l.bars (spaceBit p.1) 0 := by decide +kernel
def folding : CpCmd := { copying with op := .tsa, wb := 0, rows := [List.replicate 32 0], recBase := 0x3000 }

theorem witness_CopyEvents :
    (withCopy copying).cpDue 3 false = some copying ∧ (withCopy copying [parkedPiece]).retryNext 3 = some parkedPiece ∧
    (withCopy { copying with op := .tile, next := 1, clr := true, strip := 3, tile := 7 }).cpDue 3 true =
      some { copying with op := .tile, next := 1, clr := true, strip := 3, tile := 7 } ∧
    (∀ o ∈ [0, 1, 2], let m := { copying with op := .tile, strip := 3, tile := 7, nm1 := 31, rm := 3, ofmt := o }
      (withCopy m).cpDue 3 true = some m ∧ m.next < m.pieces ∧ m.writes = true ∧ m.toPad (m.piece 0) = true) ∧
    (∀ sp ∈ [Space.global, .scratch 0], (withLanding sp).landNext 3 = some (landing sp)) ∧
    ((withCopy { copying with next := 1 }).landNext 3 = none ∧ (withCopy { copying with next := 1 }).cpFinished 3 = some { copying with next := 1 }) ∧
    (withCopy folding).foldDue 3 = some folding ∧ isPoisoned (withCopy folding).poisonS ((withCopy folding).windowKey 0 0x3000) 128 = false ∧
    isPoisoned ({ withCopy folding with poisonS := [0x3000 / 64] } : State).poisonS ((withCopy folding).windowKey 0 0x3000) 128 = true :=
  ⟨by decide +kernel, by decide +kernel, by decide +kernel, by decide +kernel, by decide +kernel, ⟨by decide +kernel, by decide +kernel⟩,
   by decide +kernel, by decide +kernel, by decide +kernel⟩

/-- A page of 4 KiB at 0x400000, in HBM at 2^16, to which the sources and destinations below belong. -/
def copyMap (m : CpCmd) : State := ownAll (withCopy m)

/-- A fill; a source in the scratchpad; a source in global memory; to the own scratchpad, to another core, and to global memory. -/
theorem witness_CopyEvents_parts :
    (∀ m ∈ [{ copying with op := .fill, pat := 7 }, { copying with op := .fill, rem := true, dcore := 9 }],
      (copyMap m).cpDue 3 false = some m ∧ m.toPad (m.piece 0) = true) ∧
    (let m : CpCmd := { copying with src := 0x1000 }
     (copyMap m).cpDue 3 false = some m ∧ (m.piece 0).src < windowEnd ∧ isPoisoned (copyMap m).poisonS0 ((copyMap m).windowKey 3 0x1000) 1 = false ∧
       m.toPad (m.piece 0) = true) ∧
    let m : CpCmd := { copying with src := 0x400000, dst := 0x400100 }
    let p : Place := { space := 0, dev := 0, pa := 0x10000, tent := false }
    let q : Place := { space := 0, dev := 0, pa := 0x10100, tent := false }
    (copyMap m).cpDue 3 false = some m ∧ windowEnd ≤ (m.piece 0).src ∧ m.toPad (m.piece 0) = false ∧
      ((copyMap m).runs 0 false 2 0x400000 1).toOption = some [(p, 1)] ∧ (copyMap m).runsReady m.ctx m.stamp m.acq [(p, 1)] = true ∧
      ((copyMap m).homeRead p 1).2 = false ∧ ((copyMap m).runs 0 true 2 0x400100 1).toOption = some [(q, 1)] := by
  decide +kernel

def syncing : SynCmd :=
  { op := .amo, p := 3, ctx := 7, num := 1, wb := 0, tenant := 0, task := 1, fra := 0, w0 := 0x400000, w1 := 5, w2 := 0, w3 := 0, scope := {}, sent := true }
def withSyn (m : SynCmd) : State := ownAll (ev (fun x => { x with synQ := [1] }) { State.reset with syn := [m] })
def phWait : PhWait := { task := 1, tenant := 0, ctx := 7, die := 0, index := 1, phase := 5, due := 0, arrived := false }
def withPh : State :=
  ev id { State.reset with
    phWaits := [phWait], tenants := vset State.reset.tenants 0 { phBase := vset (Vector.replicate 2 0) 0 64, phCount := vset (Vector.replicate 2 0) 0 2 } }
def scopeOp (clr : Bool) : ScopeOp := { ctx := 7, num := 1, entry := 14, clr := clr, due := 0 }

theorem witness_SyncEvents :
    (withSyn { syncing with op := .sig, sent := false }).signalReady 7 = some { syncing with op := .sig, sent := false } ∧
    ((withSyn syncing).synRecordNext = none ∧ (withSyn syncing).synNext = some syncing ∧ syncing.parked = false ∧ (withSyn syncing).synPlace syncing = .ok { space := 0, dev := 0, pa := 0x10000, tent := false } ∧
      isPoisoned (withSyn syncing).poisonG 0x10000 8 = false) ∧
    ((withSyn { syncing with result := some (0, 7) }).synNext = none ∧
      (withSyn { syncing with result := some (0, 7) }).synRecordNext = some { syncing with result := some (0, 7) }) ∧
    (withPh.phArrivalDue = some phWait ∧ (withPh.phArea 0 0).2 > 1 ∧ withPh.phPoisoned 0 0 1 = false ∧ (withPh.phaser 0 0 1).reached 5 = false ∧
      withPh.phWaits = [phWait] ∧ withPh.phasers.length < 4096) ∧
    ∀ clr ∈ [false, true], (ev id { State.reset with scopeOps := [scopeOp clr] }).scopeDue = some (scopeOp clr) :=
  ⟨by decide +kernel, ⟨by decide +kernel, by decide +kernel, by decide, by decide +kernel, by decide +kernel⟩, ⟨by decide +kernel, by decide +kernel⟩,
   ⟨by decide +kernel, by decide +kernel, by decide +kernel, by decide +kernel, by decide +kernel, by decide +kernel⟩, by decide +kernel⟩

/-- Phase 5 with two registrations, every core in scope; a command that names it. -/
def record5 : Phaser := { phase := 5, nreg := 2, val := true, cores := BitVec.allOnes 256 }
def atRecord (m : SynCmd) : State :=
  { withSyn m with
    phasers := [{ tenant := 0, die := 0, index := 1, ph := record5 }]
    tenants := vset (withSyn m).tenants 0 { (withSyn m).tenant 0 with phCount := vset (Vector.replicate 2 0) 0 2 } }
def phasing (op : SyOp) (p phase : Nat) : SynCmd := { syncing with op := op, p := p, w0 := 1, w1 := phase, w2 := if op == .drop then p else 0 }

theorem usable_of {m : SynCmd} (h : (decide ((atRecord m).synRecordNext = none) && decide ((atRecord m).synNext = some m) &&
    decide ((atRecord m).phWaits = []) && decide ((atRecord m).phasers.length + m.records.2.2 ≤ 4096) &&
    decide (m.names.2.1 < ((atRecord m).phArea m.tenant m.names.1).2) && !(atRecord m).phPoisoned m.tenant m.names.1 m.names.2.1 &&
    decide ((atRecord m).phaser m.tenant m.names.1 m.names.2.1 = record5) && record5.cores.getLsbD (atRecord m).coreNum.toNat) = true) : UsablePhaser (atRecord m) m record5 := by
  simp only [Bool.and_eq_true, decide_eq_true_eq, Bool.not_eq_true'] at h
  exact ⟨⟨⟨h.1.1.1.1.1.1.1, h.1.1.1.1.1.1.2⟩, h.1.1.1.1.1.2, h.1.1.1.1.2⟩, h.1.1.1.2, h.1.1.2, h.1.2, rfl, h.2⟩

/-- A signal, an advance, a registration and its removal, each at the current phase, the next, and another. -/
theorem witness_SyncEvents_phasers : (∀ m ∈ [phasing .sig 0 5, phasing .sig 0 6, phasing .sig 0 7, phasing .next 0 5, phasing .next 0 6,
      phasing .reg 0 5, phasing .reg 2 6, phasing .reg 0 7, phasing .drop 0 5, phasing .drop 2 6, phasing .drop 0 7],
      UsablePhaser (atRecord m) m record5 ∧ m.names.2.2 % 2 ^ 32 = m.w1) ∧
    (let m := { phasing .base 0 5 with w2 := 3 }
     AtPhaser (atRecord m) m ∧ m.records.2.1 + m.records.2.2 ≤ ((atRecord m).phArea m.tenant m.records.1).2) := by
  refine ⟨fun m h => ?_, ⟨⟨by decide +kernel, by decide +kernel⟩, by decide +kernel, by decide +kernel⟩, by decide +kernel⟩
  simp only [List.mem_cons, List.not_mem_nil, or_false] at h
  rcases h with rfl | rfl | rfl | rfl | rfl | rfl | rfl | rfl | rfl | rfl | rfl <;> exact ⟨usable_of (by decide +kernel), by decide⟩

def selCmd (ph : SelPhase) : SelCmd :=
  { op := .rank, ctx := 7, num := 1, c := 0, wb := 0, n := 4, b := 8, pbase := 0, men := false, mbase := 0, wen := false, wbase := 0, raddr := 0x8000,
    mout := false, obase := 0, incl := false, arg := 1, dmax := 9, phase := ph }
def ckCmd : CkCmd := { op := .commit, ctx := 7, num := 1, c := 0, wb := 0, len := 256, base := 0, pub := true, pva := 0x400040, pval := 9, tenant := 0 }
def withCk (m : CkCmd) : State := ownAll (ev id { State.reset with ckp := [m], now := 99 })
def ckLanding (sp : Space) : CkLanding :=
  { due := 0, ctx := 7, num := 1, part := (sp, 64, [1]), stamp := 0, bars := Vector.replicate 4 0, poison := [] }
def published : CkCmd := { ckCmd with k := 2, dir := true }

theorem witness_SelectionAndCheckpointEvents :
    ((ev id { State.reset with sel := [selCmd .writing] }).selIn .complete = none ∧
      (ev id { State.reset with sel := [selCmd .writing] }).selIn .writing = some (selCmd .writing)) ∧
    (ev id { State.reset with sel := [selCmd .complete] }).selIn .complete = some (selCmd .complete) ∧
    (∀ sp ∈ [Space.global, .scratch 0], (ev id { State.reset with ckLand := [ckLanding sp] }).ckNext = some (.land (ckLanding sp))) ∧
    (withCk ckCmd).ckNext = some (.chunk ckCmd) ∧
    ((withCk published).ckPubNext = some published ∧ (withCk published).ckPubPlace published = .ok { space := 0, dev := 0, pa := 0x10040, tent := false } ∧
      isPoisoned (withCk published).poisonG 0x10040 4 = false) ∧
    (withCk { published with published := true }).ckp.find? CkCmd.finished = some { published with published := true } ∧
    ({ withLanding (.peer 1) with landings := [{ landing (.peer 1) with stuck := some 0 }], now := 2 ^ 20 } : State).landTimedOut =
      some { landing (.peer 1) with stuck := some 0 } :=
  ⟨⟨by decide +kernel, by decide +kernel⟩, by decide +kernel, by decide +kernel, by decide +kernel,
   ⟨by decide +kernel, by decide +kernel, by decide +kernel⟩, by decide +kernel, by decide +kernel⟩

/-! ### Events of the device -/

def ageing : State := { State.reset with tasks := [{ waitingTask .none with st := .queued }], now := Config.agedAfter }

theorem witness_CycleEvents : (vget State.reset.chans 4 noChan).cmds = [] ∧
    (({ State.reset with searched := true } : State).searched = true) ∧
    (State.reset.searched = false ∧ State.reset.groupReady State.reset.coreNum.toNat = false) ∧
    ((ev id).searched = false ∧ (ev id).tasks = [] ∧ ∀ c ∈ List.range 8, ((ev id).ctx c).run = .free) ∧
    ({ State.reset with compactDue := true } : State).compactDue = true ∧
    (ageing.tasks = [{ waitingTask .none with st := .queued }] ∧ (waitingTask .none).aged = false ∧
      (waitingTask .none).readyAt + Config.agedAfter ≤ ageing.now) :=
  ⟨by decide, by decide, ⟨by decide, by decide⟩, ⟨by decide, by decide, by decide +kernel⟩, by decide, ⟨by decide +kernel, by decide, by decide⟩⟩

/-- A task that is alone, queued on core 0's die, its kernel resident. -/
def queuedTask : Task := { oneSlotTask 9 with st := .queued, ctx := none, begun := false }
def queuedUp : State := { ownAll (ev id) with cal := [], tasks := [queuedTask], icache := [kern] }
/-- Its column, held from cycle 4 on. -/
def cell (st : Nat) : Booking := { ctx := 0, res := 0, start := st, len := 1, per := 1, count := 0, std := true }

theorem witness_CycleEvents_booking : OneQueued queuedUp queuedTask kern ∧ queuedUp.Restores queuedTask kern ([], []) ∧ (queuedUp.openLcores 0 1).head? = some 0 ∧
    0 ∈ basesOf queuedUp.mode.toNat 0 1 ∧ queuedUp.place kern 0 0 0 (imageCount []) 4 = some [cell 4] ∧
    queuedUp.fits (fun _ => false) 0 [] (cell 4) = true ∧ queuedUp.now + 4 + queuedUp.platform.thr = 4 :=
  ⟨⟨by decide +kernel, ⟨rfl, rfl, by decide +kernel⟩, by decide, by decide +kernel, by decide +kernel⟩, rfl, by decide +kernel,
   by decide +kernel, by decide +kernel, by decide +kernel, by decide⟩

theorem ok_of {α ε : Type} [DecidableEq α] {e : Except ε α} {v : α}
    (h : (match e with | .ok a => decide (a = v) | .error _ => false) = true) : e = .ok v := by
  cases e with
  | error x => exact absurd h Bool.false_ne_true
  | ok a => rw [of_decide_eq_true h]

/-- The same of a task that has yielded, whose segment carries s31 and v15. -/
def yielded : Task := { queuedTask with restore := true }
def backAgain : State := bearing { queuedUp with tasks := [yielded] }
theorem witness_CycleEvents_restored : OneQueued backAgain yielded bearer ∧
    backAgain.Restores yielded bearer ([(0, 31, 0)], [(0, 15, 0)]) ∧ (backAgain.openLcores 0 1).head? = some 0 ∧
    backAgain.place bearer 0 0 0 (imageCount [(0, 31, 0)]) 4 = some [cell 4] ∧
    backAgain.fits (fun _ => false) 0 [] (cell 4) = true :=
  ⟨⟨by decide +kernel, ⟨rfl, rfl, by decide +kernel⟩, by decide, by decide +kernel, by decide +kernel⟩,
   ⟨ok_of (by decide +kernel), by decide +kernel⟩, by decide +kernel, by decide +kernel, by decide +kernel⟩

/-- A task on context 0 that waits to run its pattern again: three cells of column 0 from cycle 0 on, released in cycle 0. -/
def pattern3 : List Booking := [{ cell 0 with len := 3, per := 3, count := 1, std := false }]
def rebooking : State :=
  { ownAll (ev id) with
    cal := [], tasks := [task1], icache := [kern]
    ctxs := vset (ev id).ctxs 0 { Ctx.init with run := .rebook 0 pattern3 0, task := some 1 } }

theorem witness_CycleEvents_rebooking : OneRebooked rebooking task1 0 0 pattern3 ∧ rebooking.now - 0 + 4 = 4 ∧
    (∀ x ∈ rebooked pattern3 0 4 rebooking.now, rebooking.fits (· == 0) (lcoreOf rebooking.mode.toNat (rebooking.ctx 0).base) [] x = true) :=
  ⟨⟨by decide +kernel, ⟨rfl, by decide +kernel⟩, by decide +kernel, by decide, 0, by decide +kernel, by decide⟩, by decide, by decide +kernel⟩

/-- A queued task whose frame is mapped. -/
theorem witness_CycleEvents_frames : State.FramesMapped { framed State.reset with tasks := [{ queuedTask with fra := 704 }], icache := [kern] } := by
  have h : Framed ({ framed State.reset with tasks := [{ queuedTask with fra := 704 }], icache := [kern] } : State) :=
    ⟨by decide +kernel, by decide +kernel, by decide +kernel, by decide +kernel, by decide +kernel⟩
  have m : ∀ n, n ≤ 704 → State.Mapped ({ framed State.reset with tasks := [{ queuedTask with fra := 704 }], icache := [kern] } : State) 0 704 n :=
    fun n hn i hi => ⟨entry, h.walk (by omega), rfl⟩
  refine ⟨fun k hk q j => ?_, fun t ht => ?_, fun t ht hp => ?_⟩
  · rw [List.mem_singleton.mp hk, (carries_none q j).1, (carries_none q j).2]
    decide
  · rw [List.mem_singleton.mp ht]
    refine ⟨m 64 (by decide), fun k hk => ?_⟩
    have : ({ framed State.reset with tasks := [{ queuedTask with fra := 704 }], icache := [kern] } : State).kernelOf { queuedTask with fra := 704 } =
      some kern := by decide +kernel
    rw [this] at hk
    rw [← Option.some.inj hk]
    exact m _ (by decide)
  · rw [List.mem_singleton.mp ht] at hp
    exact absurd rfl hp

/-- A node of kind `kd`, in a replay that has begun. -/
def node (kd : Nat) (st : NodeSt := .waiting) : Node := { words := [kd, 0, 0, 0, 0, 0, 0, 0], st := st, outcome := 0 }
def replay (begun : Bool) (ns : List Node) : Replay := { id := 1, gaddr := 0x400000, tenant := 0, tag := 9, param := 0, started := begun, nodes := ns }
def replaying (r : Replay) : State := ev id { State.reset with replays := [r] }

/-- A launch with one task to make, and a page for its frame. -/
def oneTask : Node := { node 1 .running with total := 1, width := 1, fsize := 704, fw := [1], extents := [1] }
def launching : State := ev id { framed State.reset with replays := [replay true [oneTask]] }
def loaded : ILoad := { kernel := kern, due := 0 }
def walk : Walk := { id := 1, ctx := 7, tenant := 0, va := 0, due := 0 }
def timed : Task := { waitingTask (.time 0) with readyAt := 0 }

theorem launching_ready : virtReady launching 0 (704 / 64 + 2) 704 704 = true := by decide +kernel

theorem launching_frame : launching.allocFrame 0 704 = (some 704, { launching with free := launching.free + 1 }) :=
  allocFrame_one (by decide +kernel) (by decide +kernel)

theorem launching_next : launching.expandNext = some (replay true [oneTask], 0, oneTask) := by
  have h : launching.expanding = [(replay true [oneTask], 0, oneTask)] := by decide +kernel
  unfold State.expandNext
  rw [h]
  simp only [List.find?_cons, List.find?_nil, replay, oneTask, launching_frame, Option.any_some, Option.map_some, beq_self_eq_true,
    launching_ready, Bool.true_and]

theorem launching_ok : launching.expand.toOption.isSome = true := by
  unfold State.expand
  rw [launching_next]
  dsimp only [replay, oneTask, node]
  rw [launching_frame]
  decide +kernel

theorem witness_FrontEndEvents :
    launching.expand.toOption.isSome = true ∧ (ev id).expandNext = none ∧
    (launching.expandNext = some (replay true [oneTask], 0, oneTask) ∧ (launching.allocFrame 0 704).1 = some 704 ∧
      launching.walk 0 704 = .page entry ∧ entry.space = 0 ∧ launching.tasks = [] ∧ oneTask.extents.length = oneTask.fw.length ∧
      oneTask.fw.foldl (· + ·) 0 ≤ 64 ∧ (∀ p ∈ oneTask.extents.zip oneTask.fw, p.1 ≤ 2 ^ p.2 ∧ 0 < p.1) ∧ 0 < oneTask.extents.length) ∧
    (({ State.reset with iload := [loaded] } : State).loadDue = some loaded ∧ loaded.ok = true ∧ ([].foldl (· + ·) kern.bytes) ≤ 196608 ∧
      ({ State.reset with iload := [{ loaded with ok := false }] } : State).loadDue = some { loaded with ok := false }) ∧
    (({ ev id (framed State.reset) with walks := [walk] } : State).walkDue = some walk ∧
      ({ ev id (framed State.reset) with walks := [walk] } : State).walk 0 0 = .page entry) ∧
    (({ State.reset with tasks := [timed] } : State).timeNext = some (timed, 0) ∧ 0 ≤ (State.reset.vts 0).toNat) ∧
    (replaying (replay false [node 3])).graphNext = some (.begin_ 1) ∧
    (replaying (replay true [node 1 .running])).graphNext = some (.finish 64) ∧
    (replaying (replay true [{ node 1 .skipped with outcome := 5 }, { words := [1, 0, 0, 0, 0, 0, 0, 1], st := .waiting, outcome := 0 }])).graphNext =
      some (.skip 65) ∧
    (replaying (replay true [node 3])).graphNext = some (.start (replay true [node 3]) 0 (node 3)) ∧
    (replaying (replay true [node 1 .done])).replayOver = some (replay true [node 1 .done]) :=
  ⟨launching_ok, by decide +kernel,
   ⟨launching_next, by rw [launching_frame], by decide +kernel, rfl, rfl, rfl, by decide, by decide, by decide⟩,
   ⟨by decide +kernel, rfl, by decide, by decide +kernel⟩, ⟨by decide +kernel, by decide +kernel⟩, ⟨by decide +kernel, by decide +kernel⟩,
   by decide +kernel, by decide +kernel, by decide +kernel, by decide +kernel, by decide +kernel⟩

/-! ### Messages -/

/-- A message of type `ty` with tag 7 from tenant 0; words 1 to 4. -/
def msg (ty : Nat) (w1 w2 w3 w4 : Word := 0) : HostMsg := { w0 := BitVec.ofNat 64 (ty + 7 * 2 ^ 32), w1 := w1, w2 := w2, w3 := w3, w4 := w4 }

/-- Dead, or not ready; a set bit that no message uses; a port that may not name tenant 0; unlisted types and actions. -/
theorem witness_RefusedMessages : State.reset.hears = false ∧ (ev id).hears = true ∧ (msg 2).type = 2 ∧
    { msg 2 with w5 := 1 }.w5 ≠ 0 ∧ fld { msg 2 with w0 := 0x1002 }.w0.toNat 12 20 ≠ 0 ∧ (ev id).portMay 1 (msg 2) = false ∧
    ((msg 5 0x6000).type = 5 ∧ (msg 5 0x6000).action = 6 ∧ (ev id).portMay 3 (msg 5 0x6000) = false) ∧
    (msg 0).type = 0 ∧ 12 < (msg 13).type ∧ ((msg 5 0x7000).type = 5 ∧ 6 < (msg 5 0x7000).action) := by decide +kernel

/-- A page request of tenant 0 that is open. -/
def asked : State := (ev id).modDie 1 fun d => { d with pages := vset d.pages 255 { gen := 3, busy := true } }
def lanes (s : State) : State := { s with ctxs := vmod s.ctxs 2 fun x => { x with run := .held } }
/-- Message 0x03 that gives core 0 two logical cores, both of tenant 0 (R371). -/
def partition_ : HostMsg := msg 3 0x30000100
/-- A replay of the graph at 0x400000 of tenant 0, whose first byte is `b`. -/
def graph (b : Byte) : State := { ownAll (ev id) with mem := memWrite [] 0x10000 ([b, 1, 0, 0, 0, 0, 0, 0] ++ List.replicate 56 0 ++ [3]) }
/-- Messages are heard and no home is ready. -/
def unready : State := { graph 1 with platform := { (ev id).platform with brs := 2 } }

theorem witness_DeviceMessages : (ev id).hears = true ∧ (ev id).portMay 0 (msg 1) = true ∧ (ev id).portMay 0 (msg 12) = true ∧
    ((msg 1 0x400000).shaped 0x1FFFFFFFFFFFFC0 = true ∧ (graph 0).graphAt 0 0x400000 = none ∧ ((graph 1).graphAt 0 0x400000).isSome = true ∧
      (graph 1).graphReady (msg 1 0x400000) = true ∧ unready.hears = true ∧ unready.graphReady (msg 1 0x400000) = false) ∧
    (msg 2 0x1001 0x1000 0x40).shaped 0xFFFFFFFFFF001 0x1FFFFFFFFFFF000 0xFFFFFFFFFFFFFFC0 = true ∧
    (partition_.shaped 0xFFFFF3FF = true ∧ coreOk partition_ = true ∧ (ev id).groupReady partition_.core = true ∧
      ({ ev id with platform := { (ev id).platform with brs := 2 } } : State).groupReady partition_.core = false ∧
      (msg 3 0x00000001).core ≠ (ev id).coreNum.toNat ∧ (ev id).idle = true ∧ (lanes (ev id)).idle = false) ∧
    ((msg 4 1 64 0x1000000).shaped 1 0xFFFFFFFFFFFC0 0x1FFFFFF = true ∧ (msg 4 1 64 0x1000000).w3.toNat ≤ 2 ^ 24 ∧ (ev id).synUp 1 = true ∧
      State.reset.synUp 1 = false) ∧
    (msg 6 0x1000 1).shaped 0x1FFFFFFFFFFF000 1 = true ∧
    ((msg 7 0x1FF 3 1).shaped 0x1FF 0xFFFFFFFF 1 = true ∧ (ev id).pageEntry 1 255 = {} ∧ (asked.pageEntry 1 255).busy = true ∧
      (asked.pageEntry 1 255).gen.toNat = 3 ∧ asked.pageOver = []) ∧
    (msg 8 (-1) 0xFFFFFFFF (-1) (-1)).shaped (-1) 0xFFFFFFFF (-1) (-1) = true ∧
    ((msg 9 1 0x1000 0x10000 8).shaped 1 0xFFFFFFFFFFFFF000 0x1FFFF 0xFFFFFFFFFFFFFFF8 = true ∧ (msg 9 1 0x1000 0x10000 8).w3.toNat = 2 ^ (8 + 8)) ∧
    (msg 10 1 (-1)).shaped 1 (-1) = true ∧
    ((msg 11 0xFFF 0xFFF).shaped 0xFFF 0xFFF = true ∧ (ev id).platform.brs.getLsbD 43 = true) ∧
    ((msg 12 3 0xFFFF).shaped 3 0xFFFF = true ∧ (msg 12 0).w1.toNat = (ev id).platform.pport.val ∧ (msg 12 3).w1.toNat ≠ (ev id).platform.pport.val) := by
  decide +kernel

/-- A message with action `a` for context 7 of core 0. -/
def act (a : Nat) (w2 : Word := 0) : HostMsg := msg 5 (BitVec.ofNat 64 (0x700 + a * 2 ^ 12)) w2

/-- An image of context 7 with one byte, saved at 64. -/
def image1 : SavedImage := { ctx := 7, core := 0, bytes := [9], saved := Ctx.init }

/-- A task held on context 0 of a machine that is ready. -/
def heldUp : State := { at_ 0 (fun x => { x with run := .held }) with platform := (ev id).platform }

theorem witness_ContextMessages : (∀ a ∈ List.range 7, (act a).type = 5 ∧ (act a).ctxShaped = true ∧ (act a).core = (ev id).coreNum.toNat ∧
      (act a).context = 7 ∧ (ev id).portMay 0 (act a) = true ∧ (act a).action = a) ∧
    (act 4 64).ctxShaped = true ∧ (act 6 255).ctxShaped = true ∧ (ev id).groupReady 0 = true ∧
    (∀ r ∈ [Run.run 0, .fyield .allFills 0 [], .wait, .held, .preempted 0 [] none false, .free], ((ev fun x => { x with run := r }).ctx 7).run = r) ∧
    ((Run.held).stoppedBySoftware = true ∧ (Run.free).stoppedBySoftware = false) ∧
    ((heldUp.boundTask 0).bind heldUp.kernelOf = some kern ∧ (heldUp.ctx 0).run = .held ∧ (heldUp.ctx 0).tres.toNat < kern.ncode ∧ heldUp.hears = true ∧
      heldUp.groupReady 0 = true ∧ heldUp.boundTask 0 = some task1 ∧ task1.par = none) ∧
    64 + imageSize 4 ≤ Config.hbmEnd ∧ (ev id).imageAt 7 64 = none ∧
    ({ ev id with mem := [(64, 9)], images := [image1] } : State).imageAt 7 64 = some image1 := by
  decide +kernel

theorem witness_ContextMessages_restore : (ev id).restoreWaits 0 (act 5 64) = false ∧ ((ev id).ctx 7).run = .free ∧
    ({ ev id with mem := [(64, 9)], images := [image1] } : State).restoreWaits 0 (act 5 64) = false := by decide +kernel

/-! ### Host, peers, platform -/

set_option maxRecDepth 10000 in
/-- FIPS 180-4: the hash of "abc" (R407). -/
theorem test_sha384_abc : sha384 [0x61, 0x62, 0x63] =
    0xcb00753f45a35e8bb5a03d699ac65007272c32ab0eded1631a8b605a43ff5bed8086072ba1e7cc2358baeca134c825a7 := by decide +kernel

def event : Event := { kind := 1, status := 0, die := 1 }
def appending : State := (ev id).modDie 1 fun d => { d with evSet := true, evCount := 256, waiting := [event] }
def packet : PeerPacket := { dev := 0, link := 11, tenant := 0, va := 0x400000, op := .read 8 }
def slowly (z : Bool) : SlowMsg := { zeroing := z, due := 0, msg := partition_, lcores := if z then [0] else [] }

theorem witness_HostAndPeers : (ev id).dead = false ∧ Config.hbmEnd - 64 + 64 ≤ Config.hbmEnd ∧ (ev id).spanReady (Config.hbmEnd - 64) 64 = true ∧
    isPoisoned (ev id).poisonG (Config.hbmEnd - 64) 64 = false ∧ (appending.appendDue 1 = true ∧ (appending.die 1).waiting = [event]) ∧
    ((ownAll (ev id)).peerReady packet = true ∧ (ownAll (ev id)).platform.dlock = false ∧
      ({ ownAll (ev id) with platform := { (ev id).platform with dlock := true } } : State).peerReady packet = true) ∧
    ({ ev id with links := vset State.reset.links 11 { up := true, last := 0 }, now := 2 ^ 20 } : State).linkLost 11 = true ∧
    (ev id).platform.brs.getLsbD 43 = true ∧
    ({ ev id with slow := [slowly true] } : State).slowDue true = some (slowly true) ∧
    ({ ev id with slow := [slowly false] } : State).slowDue false = some (slowly false) := by decide +kernel

/-- 1024 raw counts have passed, and a report is in progress. -/
def late : State := { ev id with rawAcc := 17 * 1024, platform := { (ev id).platform with busy := true } }

theorem witness_PlatformEvents : State.reset.dead = false ∧ State.reset.platform.pport = 0 ∧ State.reset.platform.busy = false ∧
    State.reset.platform.brs.getLsbD 0 = false ∧ (ev id).platform.brs.getLsbD 0 = true ∧ (ev id).dead = false ∧ readyBit 1 = true ∧ readyBit 43 = true ∧
    (ev id).platform.brs.getLsbD 44 = true ∧ (late.die 1).sagAt + 1024 ≤ late.rawCount ∧ (ev id).rawCount < ((ev id).die 1).sagAt + 1024 ∧
    late.platform.pwNext ≤ late.rawCount ∧ (ev id).rawCount < (ev id).platform.pwNext ∧ late.platform.busy = true ∧
    late.platform.attDue ≤ late.rawCount := by decide +kernel

/-! ### Open guards, steps, the invariant -/

/-- k3 is open; in shade mode, with a compare parked on it, and without. -/
def shadeKern : Kernel := { kern with smode := true }

/-- ia.a holds one value under k3 and another under !k3. -/
def split3 (x : Ctx) : Ctx := x.setAlts (.port 0 .iaA) [{ val := 5, term := [(3, true)] }, { val := 6, term := [(3, false)] }]

/-- Triggers under k3, a trigger that reads two alternatives, a move of 1 to k3 while it is open. -/
theorem witness_OpenGuards_triggers :
    Fires (at_ 0 fun x => opened (portIs .iaA (ofWord 3) x)) 0 0 kern (under3 (.small 0)) [(.iaA, ofWord 3)] false (ofWord (-8)) (.iaO 0) 1
      (gs := .opened 3 true) ∧
    Fires (at_ 0 fun x => opened (vec x)) 0 0 kern (under3 (.v 3)) [(.vaA, ramp), (.vaM, ofWord 0x8000000000000001)] true
      (BitVec.allOnes 2048) (.vaO 0) 3 (gs := .opened 3 true) ∧
    (let s := at_ 0 fun x => opened (split3 (holding [heldStore 0 [(3, true)]] x));
      Fires s 0 0 kern (head (.small 9)) [] false (ofWord 1) (.iaO 0) 1 ∧
      (s.ctx 0).alts (.port 0 .iaA) = [{ val := 5, term := [(3, true)] }, { val := 6, term := [(3, false)] }] ∧
      s.SourceIs 0 kern 0 (.small 9) false (ofWord 1) ∧ (s.ctx 0).guard 3 = .opened ∧ (s.ctx 0).hasPark 3 = false ∧
      (s.ctx 0).pl = false ∧ s.LandsAlone 0 (.guard 3) 1) :=
  ⟨fires_of (by decide +kernel), fires_of (by decide +kernel), fires_of (by decide +kernel), by decide +kernel, source_of (by decide +kernel),
   by decide +kernel, by decide +kernel, by decide, by unfold State.LandsAlone; decide +kernel⟩

theorem witness_OpenGuards : (Alone (at_ 0 opened) 0 0 kern ∧ ((at_ 0 opened).ctx 0).GoesOn kern ∧ ((at_ 0 opened).ctx 0).gstate false 3 = .opened 3 true ∧
      ((at_ 0 opened).ctx 0).hasPark 3 = false) ∧
    (Alone (at_ 0 fun x => opened { x with parked := [parkedOn 3] }) 0 0 kern ∧
      ((at_ 0 fun x => opened { x with parked := [parkedOn 3] }).ctx 0).hasPark 3 = true) ∧
    (Alone (at_ 0 opened fun s => { s with icache := [shadeKern] }) 0 0 shadeKern ∧ shadeKern.smode = true) ∧
    (destCluster (.v 0 7) < kern.width ∧ ((at_ 0 opened).ctx 0).registerOf (.v 0 7) = some (.v 0 7) ∧ (at_ 0 opened).SourceIs 0 kern 0 (.v 3) true 0 ∧
      IsValue 0 (((at_ 0 opened).ctx 0).alts (.v 0 7)) ∧ ((at_ 0 opened).ctx 0).isFull (.v 0 7) = true ∧
      (∀ j ∈ List.range 4, poolUse (vget ((at_ 0 opened).ctx 0).clusters j Cluster.init) < 16) ∧ ((at_ 0 opened).ctx 0).flight = []) :=
  ⟨⟨alone_of (by decide +kernel), by unfold Ctx.GoesOn; decide +kernel, by decide +kernel, by decide +kernel⟩,
   ⟨alone_of (by decide +kernel), by decide +kernel⟩, ⟨alone_of (by decide +kernel), by decide⟩,
   ⟨by decide, by decide +kernel, source_of (by decide +kernel), isValue_of (by decide +kernel), by decide +kernel, by decide +kernel, by decide +kernel⟩⟩

/-- The machine with a slot of three bytes loaded runs it in its very next step; the last bundle of the kernel too. -/
theorem witness_StepRunsTheBundle : ∀ pc ∈ [0, 63],
    let s := (State.reset.withSlot [0xFF, 0xFF, 0xFF]).modCtx 0 fun x => { x with pc := pc }
    s.takeInput false s.inputs = none ∧ (∀ p ∈ s.dueBefore, p.1 = false) ∧ s.issues 0 = true ∧
    ((s.boundTask 0).bind s.kernelOf).isSome = true ∧ 6 * kern.width * (pc + 1) ≤ (oneSlotKernel [0xFF, 0xFF, 0xFF]).code.length := by
  decide +kernel

theorem witness_EncodedInstructionsDecode : (Instr.mxStep { inv := true, g := 15, set := 15 } 8).wf = true ∧ (Instr.br true 0 1024).wf = true := by decide

theorem witness_MemoryForm : Memory.wf [(0, 1), (7, 255)] = true := by decide

theorem witness_StepKeepsInvariant : (State.reset.mem.wf && State.reset.spad.wf && State.reset.spad0.wf && State.reset.hostMem.wf &&
    State.reset.peerMem.wf) = true ∧ State.reset.mode.toNat < 3 ∧ State.reset.slow = [] ∧ State.reset.next.1 = .bookingSearch := by decide +kernel

end Sys2Proof.Tests
end

section
/-! Proofs about the vector unit: the integer and sign operations, the compares and the lane movement (spec/08_vector.md
R215, R217-R219, R226-R228). -/

namespace Sys2Proof.Machine

/-! ## Port codes -/

theorem moveBits_mod (h : MoveHead) (d : Nat) : moveBits h d % 2 ^ 9 = d % 2 ^ 9 := by
  unfold moveBits
  omega

theorem moveBits_code (h : MoveHead) (code : BitVec 9) : (BitVec.ofNat 24 (moveBits h code.toNat)).setWidth 9 = code := by
  apply BitVec.eq_of_toNat_eq
  have hlt := code.isLt
  have hmod := moveBits_mod h code.toNat
  rw [BitVec.toNat_setWidth, BitVec.toNat_ofNat]
  omega

/-- Port codes are read off the encoder: it gives the instructions move slots with these destination codes (R61, R67). -/
theorem codes_of_moveBits {ops : List (MoveHead → Instr)} {codes : List (BitVec 9)}
    (hbits : ∀ h, ops.map (fun o => encodeNat (o h)) = codes.map fun code => moveBits h code.toNat) : Codes ops codes := by
  induction ops generalizing codes with
  | nil =>
    have hlen := congrArg List.length (hbits ⟨false, false, false, 0, .ix⟩)
    exact ⟨by simpa using hlen, by simp⟩
  | cons o ops ih =>
    cases codes with
    | nil => exact absurd (hbits ⟨false, false, false, 0, .ix⟩) (by simp)
    | cons code codes =>
      simp only [List.map_cons, List.cons.injEq] at hbits
      obtain ⟨hlen, hrest⟩ := ih fun h => (hbits h).2
      refine ⟨by simp [hlen], ?_⟩
      simp only [List.zip_cons_cons, List.forall_mem_cons]
      refine ⟨fun h => ?_, hrest⟩
      rw [encode, (hbits h).1, moveBits_code]

/-! ## Vector triggers -/

/-- The instruction puts a trigger of the vector unit into its slot that runs as `run` and does not round. -/
def RunsVec (op : MoveHead → Instr) (run : Work → TrigEnv → Work) : Prop :=
  ∀ h s, exec (op h) s = issueSlot (.trig h { unit := 1, wide := true, run := run }) s

section
variable {s : State} {c n : Nat} {k : Kernel} {h : MoveHead} {op : MoveHead → Instr} {a t m : Vec}

theorem exec_vecInt {f : Nat → Nat → Nat × Flags} (hrun : RunsVec op fun w e => w.vecInt e f)
    (hF : Fires s c n k h [(.vaA, a), (.vaM, m)] true t (.vaO (n / 2)) 3) :
    ∃ r fl, exec (op h) s = .next (s.fired c n h [.vaA, .vaM] (.vaO (n / 2)) 3 (n / 2 * 4 + 1) r fl) ∧
      ByElement 32 m t (fun e => f (lane a e) (lane t e)) r fl :=
  ⟨_, _, (hrun h s).trans (vecInt_fires hF), mapElems_byElement m t _ (by decide)⟩

theorem exec_vecSign {f : Nat → Nat} (hrun : RunsVec op fun w e => w.vecSign e f)
    (hF : Fires s c n k h [(.vaM, m)] true t (.vaO (n / 2)) 3) :
    ∃ r fl, exec (op h) s = .next (s.fired c n h [.vaM] (.vaO (n / 2)) 3 (n / 2 * 4 + 1) r fl) ∧
      ByElement 32 m t (fun e => (f (lane t e), 0)) r fl :=
  ⟨_, _, (hrun h s).trans (vecSign_fires hF), mapElems_byElement m t _ (by decide)⟩

theorem exec_vecMove {g : Vec → Nat → Vec → Vec} {m : Word} (hrun : RunsVec op fun w e => w.vecMove e g)
    (hF : Fires s c n k h [(.vaA, a), (.vaM, ofWord m)] true t (.vaO (n / 2)) 3) :
    exec (op h) s = .next (s.fired c n h [.vaA, .vaM] (.vaO (n / 2)) 3 (n / 2 * 4 + 1) (g a m.toNat t)) := by
  have hm : (ofWord m).toNat % 2 ^ 64 = m.toNat := by rw [ofWord_toNat, BitVec.toNat_mod_cancel]
  rw [hrun h s, vecMove_fires hF, hm]

theorem exec_vecWhole {g : Vec → Vec} (hrun : RunsVec op fun w e => w.vecOp e [] 3 fun vs => { val := g (vs.headD 0) })
    (hF : Fires s c n k h [] true t (.vaO (n / 2)) 3) :
    exec (op h) s = .next (s.fired c n h [] (.vaO (n / 2)) 3 (n / 2 * 4 + 1) (g t)) :=
  (hrun h s).trans (vecWhole_fires hF)

end

/-! ## Integer and sign operations -/

theorem ofSigned_eq_toNat_ofInt (w : Nat) (x : Int) : ofSigned w x = (BitVec.ofInt w x).toNat := by
  rw [BitVec.toNat_ofInt]; rfl

theorem ofSigned_sshiftRight (a : BitVec 32) (j : Nat) : ofSigned 32 (toSigned 32 a.toNat >>> j) = (a.sshiftRight j).toNat := by
  rw [toSigned_toInt, ofSigned_eq_toNat_ofInt, BitVec.sshiftRight]

theorem minI32_toNat (a t : BitVec 32) : minI32 a.toNat t.toNat = (if t.slt a then t else a).toNat := by
  simp only [minI32, toSigned_toInt, BitVec.slt, decide_eq_true_eq, apply_ite BitVec.toNat]

theorem maxI32_toNat (a t : BitVec 32) : maxI32 a.toNat t.toNat = (if a.slt t then t else a).toNat := by
  simp only [maxI32, toSigned_toInt, BitVec.slt, decide_eq_true_eq, apply_ite BitVec.toNat]

theorem min_toNat (a t : BitVec 32) : min a.toNat t.toNat = (if t.ult a then t else a).toNat := by
  simp only [BitVec.ult, decide_eq_true_eq, apply_ite BitVec.toNat]
  split <;> omega

theorem max_toNat (a t : BitVec 32) : max a.toNat t.toNat = (if a.ult t then t else a).toNat := by
  simp only [BitVec.ult, decide_eq_true_eq, apply_ite BitVec.toNat]
  split <;> omega

/-- Clearing the sign bit. -/
theorem and_low31_toNat (t : BitVec 32) : (t &&& 0x7FFFFFFF#32).toNat = t.toNat % 2 ^ 31 := by
  rw [BitVec.toNat_and, show (0x7FFFFFFF#32).toNat = 2 ^ 31 - 1 from rfl, Nat.and_two_pow_sub_one_eq_mod]

/-- Keeping the sign bit. -/
theorem and_bit31_toNat (a : BitVec 32) : (a &&& 0x80000000#32).toNat = a.toNat / 2 ^ 31 * 2 ^ 31 := by
  have hlt := a.isLt
  rw [BitVec.toNat_and, show (0x80000000#32).toNat = 2 ^ 31 from rfl, Nat.and_two_pow, Nat.toNat_testBit]
  omega

theorem copySign_toNat (a t : BitVec 32) :
    ((t &&& 0x7FFFFFFF#32) ||| (a &&& 0x80000000#32)).toNat = t.toNat % 2 ^ 31 + a.toNat / 2 ^ 31 * 2 ^ 31 := by
  have hlow : t.toNat % 2 ^ 31 < 2 ^ 31 := Nat.mod_lt _ (Nat.two_pow_pos 31)
  rw [BitVec.toNat_or, and_low31_toNat, and_bit31_toNat, Nat.or_comm, Nat.mul_comm, ← Nat.two_pow_add_eq_or_of_lt hlow, Nat.add_comm]

/-- Each operation of R218, and va.csgn, is an integer operation of the vector unit that computes its function on lanes. -/
theorem vaWordOps_run : ∀ p ∈ vaWordOps, ∃ f : Nat → Nat → Nat,
    RunsVec p.1 (fun w e => w.vecInt e fun a t => (f a t, 0)) ∧ ∀ a t : BitVec 32, f a.toNat t.toNat % 2 ^ 32 = (p.2 a t).toNat := by
  simp only [vaWordOps, List.forall_mem_cons]
  refine ⟨⟨_, fun _ _ => rfl, fun a t => ?add⟩, ⟨_, fun _ _ => rfl, fun a t => ?sub⟩, ⟨_, fun _ _ => rfl, fun a t => ?mul⟩,
    ⟨_, fun _ _ => rfl, fun a t => ?minI⟩, ⟨_, fun _ _ => rfl, fun a t => ?maxI⟩, ⟨_, fun _ _ => rfl, fun a t => ?minN⟩,
    ⟨_, fun _ _ => rfl, fun a t => ?maxN⟩, ⟨_, fun _ _ => rfl, fun a t => ?and⟩, ⟨_, fun _ _ => rfl, fun a t => ?or⟩,
    ⟨_, fun _ _ => rfl, fun a t => ?xor⟩, ⟨_, fun _ _ => rfl, fun a t => ?shl⟩, ⟨_, fun _ _ => rfl, fun a t => ?shrN⟩,
    ⟨_, fun _ _ => rfl, fun a t => ?shrI⟩, ⟨_, fun _ _ => rfl, fun a t => ?csgn⟩, by simp⟩
  case add => exact (BitVec.toNat_add a t).symm
  case sub =>
    have := t.isLt
    rw [BitVec.toNat_sub]
    congr 1
    omega
  case mul => exact (BitVec.toNat_mul a t).symm
  case minI => rw [minI32_toNat, BitVec.toNat_mod_cancel]
  case maxI => rw [maxI32_toNat, BitVec.toNat_mod_cancel]
  case minN => rw [min_toNat, BitVec.toNat_mod_cancel]
  case maxN => rw [max_toNat, BitVec.toNat_mod_cancel]
  case and => exact BitVec.toNat_mod_cancel (a &&& t)
  case or => exact BitVec.toNat_mod_cancel (a ||| t)
  case xor => exact BitVec.toNat_mod_cancel (a ^^^ t)
  case shl => exact BitVec.toNat_shiftLeft.symm
  case shrN => exact BitVec.toNat_mod_cancel (a >>> (t.toNat % 32))
  case shrI => rw [ofSigned_sshiftRight, BitVec.toNat_mod_cancel]
  case csgn => rw [← copySign_toNat, BitVec.toNat_mod_cancel]

/-- The operations of R219 on t alone. -/
theorem vaSignOps_run : ∀ p ∈ vaSignOps, ∃ f : Nat → Nat,
    RunsVec p.1 (fun w e => w.vecSign e f) ∧ ∀ t : BitVec 32, f t.toNat % 2 ^ 32 = (p.2 t).toNat := by
  simp only [vaSignOps, List.forall_mem_cons]
  refine ⟨⟨_, fun _ _ => rfl, fun t => ?abs⟩, ⟨_, fun _ _ => rfl, fun t => ?neg⟩, by simp⟩
  case abs => rw [← and_low31_toNat, BitVec.toNat_mod_cancel]
  case neg => exact BitVec.toNat_mod_cancel (t ^^^ 0x80000000#32)

/-- The exact sum of two lanes, clamped to the signed 32-bit range (R218). -/
def clampedSum (a t : BitVec 32) : Int := max (-(2 ^ 31)) (min (2 ^ 31 - 1) (a.toInt + t.toInt))

theorem addsI32_value (a t : BitVec 32) : (BitVec.ofNat 32 (addsI32 a.toNat t.toNat).1).toInt = clampedSum a t := by
  unfold addsI32 clampedSum
  simp only [toSigned_toInt]
  split
  next hhigh =>
    rw [show (BitVec.ofNat 32 0x7FFFFFFF).toInt = 2 ^ 31 - 1 from rfl]
    omega
  next hle =>
    split
    next hlow =>
      rw [show (BitVec.ofNat 32 0x80000000).toInt = -(2 ^ 31) from rfl]
      omega
    next hge =>
      rw [ofSigned_eq_toNat_ofInt, BitVec.ofNat_toNat, BitVec.setWidth_eq, BitVec.toInt_ofInt, Int.bmod_eq_of_le (by omega) (by omega)]
      omega

theorem addsI32_flags (a t : BitVec 32) :
    (addsI32 a.toNat t.toNat).2 = if clampedSum a t ≠ a.toInt + t.toInt then Flags.sat else 0 := by
  unfold addsI32 clampedSum
  simp only [toSigned_toInt]
  split
  next hhigh => rw [if_pos (by omega)]
  next hle =>
    split
    next hlow => rw [if_pos (by omega)]
    next hge => rw [if_neg (by omega)]

/-- Where an element raises `F` or nothing, `F` is raised exactly when an active element raises it. -/
theorem flag_of_byElement {w : Nat} {m t r : Vec} {f : Nat → Nat × Flags} {fl F : Flags} {p : Nat → Prop} [DecidablePred p]
    (hB : ByElement w m t f r fl) (hf : ∀ e, (f e).2 = if p e then F else 0) :
    fl = F ∧ (∃ e, e < 2048 / w ∧ active w m e = true ∧ p e) ∨ fl = 0 ∧ ∀ e, e < 2048 / w → active w m e = true → ¬ p e := by
  have hflags : ∀ b, fl.getLsbD b = true ↔ ∃ e, e < 2048 / w ∧ active w m e = true ∧ p e ∧ F.getLsbD b = true := by
    intro b
    rw [hB.flags b]
    refine exists_congr fun e => and_congr_right fun _ => and_congr_right fun _ => ?_
    rw [hf]
    split <;> simp_all
  by_cases hraised : ∃ e, e < 2048 / w ∧ active w m e = true ∧ p e
  · refine .inl ⟨BitVec.eq_of_getLsbD_eq fun b _ => ?_, hraised⟩
    obtain ⟨e, he, hact, hp⟩ := hraised
    exact Bool.eq_iff_iff.2 ((hflags b).trans ⟨fun ⟨_, _, _, _, hb⟩ => hb, fun hb => ⟨e, he, hact, hp, hb⟩⟩)
  · refine .inr ⟨BitVec.eq_of_getLsbD_eq fun b _ => ?_, fun e he hact hp => hraised ⟨e, he, hact, hp⟩⟩
    rw [show (0 : Flags).getLsbD b = false from BitVec.getLsbD_zero, Bool.eq_false_iff, Ne, hflags b]
    exact fun ⟨e, he, hact, hp, _⟩ => hraised ⟨e, he, hact, hp⟩

section
variable {s : State} {c n : Nat} {k : Kernel} {h : MoveHead} {op : MoveHead → Instr} {a t : Vec} {m : Word}

theorem exec_vecInt_lanes {f : Nat → Nat → Nat} {g : BitVec 32 → BitVec 32 → BitVec 32}
    (hrun : RunsVec op fun w e => w.vecInt e fun a t => (f a t, 0)) (hfg : ∀ a t : BitVec 32, f a.toNat t.toNat % 2 ^ 32 = (g a t).toNat)
    (hF : Fires s c n k h [(.vaA, a), (.vaM, ofWord m)] true t (.vaO (n / 2)) 3) :
    ∃ r, exec (op h) s = .next (s.fired c n h [.vaA, .vaM] (.vaO (n / 2)) 3 (n / 2 * 4 + 1) r) ∧
      ∀ i, i < 64 → laneW r i = if m.getLsbD i then g (laneW a i) (laneW t i) else laneW t i := by
  obtain ⟨r, fl, hexec, hB⟩ := exec_vecInt hrun hF
  obtain rfl : fl = 0 := noflags_of_byElement hB fun _ => rfl
  exact ⟨r, hexec, word_of_byElement hB fun i _ => by rw [← hfg, laneW_toNat, laneW_toNat]⟩

theorem exec_vecSign_lanes {f : Nat → Nat} {g : BitVec 32 → BitVec 32} (hrun : RunsVec op fun w e => w.vecSign e f)
    (hfg : ∀ t : BitVec 32, f t.toNat % 2 ^ 32 = (g t).toNat) (hF : Fires s c n k h [(.vaM, ofWord m)] true t (.vaO (n / 2)) 3) :
    ∃ r, exec (op h) s = .next (s.fired c n h [.vaM] (.vaO (n / 2)) 3 (n / 2 * 4 + 1) r) ∧
      ∀ i, i < 64 → laneW r i = if m.getLsbD i then g (laneW t i) else laneW t i := by
  obtain ⟨r, fl, hexec, hB⟩ := exec_vecSign hrun hF
  obtain rfl : fl = 0 := noflags_of_byElement hB fun _ => rfl
  exact ⟨r, hexec, word_of_byElement hB fun i _ => by rw [← hfg, laneW_toNat]⟩

theorem exec_vaAddsI32 (hF : Fires s c n k h [(.vaA, a), (.vaM, ofWord m)] true t (.vaO (n / 2)) 3) :
    ∃ r fl, exec (.vaAddsI32 h) s = .next (s.fired c n h [.vaA, .vaM] (.vaO (n / 2)) 3 (n / 2 * 4 + 1) r fl) ∧
      (∀ i, i < 64 → (laneW r i).toInt = if m.getLsbD i then clampedSum (laneW a i) (laneW t i) else (laneW t i).toInt) ∧
      (fl = Flags.sat ∧ (∃ i, i < 64 ∧ m.getLsbD i = true ∧ clampedSum (laneW a i) (laneW t i) ≠ (laneW a i).toInt + (laneW t i).toInt) ∨
        fl = 0 ∧ ∀ i, i < 64 → m.getLsbD i = true → clampedSum (laneW a i) (laneW t i) = (laneW a i).toInt + (laneW t i).toInt) := by
  obtain ⟨r, fl, hexec, hB⟩ := exec_vecInt (op := .vaAddsI32) (f := addsI32) (fun _ _ => rfl) hF
  simp only [← laneW_toNat] at hB
  refine ⟨r, fl, hexec, fun i hi => ?_, ?_⟩
  · rw [word_of_byElement hB (fun _ _ => (BitVec.toNat_ofNat _ _).symm) i hi, apply_ite BitVec.toInt, addsI32_value]
  · have hsat := flag_of_byElement hB fun e => addsI32_flags (laneW a e) (laneW t e)
    simpa only [active_ofWord, ne_eq, not_not] using hsat

end

/-- Settles O2: every operation is one of `vaWordOps_run` and `vaSignOps_run`, read lane by lane; va.adds.i32 raises sat where its clamped
sum differs from the exact one. -/
theorem vaIntegerOperations : Obligations.VaIntegerOperations := by
  unfold Obligations.VaIntegerOperations
  refine ⟨codes_of_moveBits fun _ => rfl, rfl, fun p hp s c n k h a t m hF => ?_, fun s c n k h a t m hF => exec_vaAddsI32 hF,
    fun p hp s c n k h t m hF => ?_⟩
  · obtain ⟨f, hrun, hfg⟩ := vaWordOps_run p hp
    exact exec_vecInt_lanes hrun hfg hF
  · obtain ⟨f, hrun, hfg⟩ := vaSignOps_run p hp
    exact exec_vecSign_lanes hrun hfg hF

/-! ## Compares -/

theorem getLsbD_eq_elem_one (v : Vec) (i : Nat) : v.getLsbD i = (elem 1 v i == 1) := by
  rw [← bitAt_toNat, elem, Nat.one_mul]
  rfl

theorem getLsbD_ofWord (x : Word) (i : Nat) : (ofWord x).getLsbD i = x.getLsbD i := by
  rw [ofWord, BitVec.getLsbD_setWidth, Bool.and_eq_right_iff_imp]
  intro hx
  have := BitVec.lt_of_getLsbD hx
  exact decide_eq_true (by omega)

theorem ofWord_setWidth {v : Vec} (hv : ∀ i, 64 ≤ i → v.getLsbD i = false) : ofWord (v.setWidth 64) = v := by
  apply BitVec.eq_of_getLsbD_eq
  intro i _
  rw [getLsbD_ofWord, BitVec.getLsbD_setWidth]
  by_cases hi : i < 64
  · simp [hi]
  · simp [hi, hv i (by omega)]

/-- What a compare gives for lane `e` (R217). -/
def compareLane (f : Nat → Nat → Bool × Flags) (a m t : Vec) (e : Nat) : Nat × Flags :=
  if active 32 m e then ((f (lane a e) (lane t e)).1.toNat, (f (lane a e) (lane t e)).2) else (0, 0)

/-- The result of a compare: one bit for each lane. -/
def compareResult (f : Nat → Nat → Bool × Flags) (a m t : Vec) : Comp := Comp.elems 1 ((List.range 64).map (compareLane f a m t))

theorem compareResult_val (f : Nat → Nat → Bool × Flags) (a m t : Vec) (i : Nat) :
    (compareResult f a m t).val.getLsbD i = (decide (i < 64) && (active 32 m i && (f (lane a i) (lane t i)).1)) := by
  rw [getLsbD_eq_elem_one]
  change (elem 1 (packElems 1 _).1 i == 1) = _
  rw [elem_packElems (by simp), List.map_map, List.getD_eq_getElem?_getD, List.getElem?_map]
  by_cases hi : i < 64
  · rw [List.getElem?_range hi]
    cases hact : active 32 m i <;> cases hrel : (f (lane a i) (lane t i)).1 <;> simp [compareLane, hi, hact, hrel]
  · rw [List.getElem?_eq_none (by simpa using hi)]
    simp [hi]

theorem compareResult_flags (f : Nat → Nat → Bool × Flags) (a m t : Vec) (b : Nat) :
    (compareResult f a m t).flags.getLsbD b = true ↔
      ∃ i, i < 64 ∧ active 32 m i = true ∧ (f (lane a i) (lane t i)).2.getLsbD b = true := by
  change (packElems 1 _).2.getLsbD b = true ↔ _
  simp only [packElems_flags, List.mem_map, List.mem_range, exists_exists_and_eq_and]
  refine exists_congr fun i => and_congr_right fun _ => ?_
  unfold compareLane
  split <;> simp_all

theorem exec_vecCmp {s : State} {c n : Nat} {k : Kernel} {h : MoveHead} {op : MoveHead → Instr} {a t m : Vec}
    {f : Nat → Nat → Bool × Flags} (hrun : RunsVec op fun w e => w.vecCmp e f)
    (hF : Fires s c n k h [(.vaA, a), (.vaM, m)] true t (.vaO (n / 2)) 3) :
    exec (op h) s = .next (s.fired c n h [.vaA, .vaM] (.vaO (n / 2)) 3 (n / 2 * 4 + 1) (compareResult f a m t).val
      (compareResult f a m t).flags) :=
  (hrun h s).trans (vecCmp_fires hF)

theorem exec_vecCmp_mask {s : State} {c n : Nat} {k : Kernel} {h : MoveHead} {op : MoveHead → Instr} {a t : Vec} {m : Word}
    {f : Nat → Nat → Bool × Flags} {g : BitVec 32 → BitVec 32 → Bool × Flags} (hrun : RunsVec op fun w e => w.vecCmp e f)
    (hfg : ∀ a t : BitVec 32, f a.toNat t.toNat = g a t) (hF : Fires s c n k h [(.vaA, a), (.vaM, ofWord m)] true t (.vaO (n / 2)) 3) :
    ∃ (r : Word) (fl : Flags), exec (op h) s = .next (s.fired c n h [.vaA, .vaM] (.vaO (n / 2)) 3 (n / 2 * 4 + 1) (ofWord r) fl) ∧
      (∀ i, i < 64 → r.getLsbD i = (m.getLsbD i && (g (laneW a i) (laneW t i)).1)) ∧
      ∀ b, fl.getLsbD b = true ↔ ∃ i, i < 64 ∧ m.getLsbD i = true ∧ (g (laneW a i) (laneW t i)).2.getLsbD b = true := by
  have hlow : ofWord ((compareResult f a (ofWord m) t).val.setWidth 64) = (compareResult f a (ofWord m) t).val :=
    ofWord_setWidth fun i hi => by simp [compareResult_val, Nat.not_lt.2 hi]
  refine ⟨(compareResult f a (ofWord m) t).val.setWidth 64, (compareResult f a (ofWord m) t).flags, ?_, fun i hi => ?_, fun b => ?_⟩
  · rw [hlow, exec_vecCmp hrun hF]
  · simp [compareResult_val, active_ofWord, ← hfg, laneW_toNat, hi]
  · simp only [compareResult_flags, active_ofWord, ← hfg, laneW_toNat]

theorem vaCompareOps_run : ∀ p ∈ vaCompareOps, ∃ f : Nat → Nat → Bool × Flags,
    RunsVec p.1 (fun w e => w.vecCmp e f) ∧ ∀ a t : BitVec 32, f a.toNat t.toNat = p.2 a t := by
  simp only [vaCompareOps, List.forall_mem_cons]
  refine ⟨⟨_, fun _ _ => rfl, fun _ _ => rfl⟩, ⟨_, fun _ _ => rfl, fun _ _ => rfl⟩, ⟨_, fun _ _ => rfl, fun _ _ => rfl⟩,
    ⟨_, fun _ _ => rfl, fun a t => ?ltI⟩, ⟨_, fun _ _ => rfl, fun a t => ?eqI⟩, by simp⟩
  case ltI => rw [toSigned_toInt, toSigned_toInt, BitVec.slt]
  case eqI =>
    congr 1
    rw [Bool.eq_iff_iff, beq_iff_eq, beq_iff_eq, BitVec.toNat_inj]

/-- Settles O4: every compare is one of `vaCompareOps_run`, whose mask and flags `exec_vecCmp_mask` gives. -/
theorem vaCompares : Obligations.VaCompares := by
  unfold Obligations.VaCompares
  refine ⟨codes_of_moveBits fun _ => rfl, rfl, rfl, fun p hp s c n k h a t m hF => ?_⟩
  obtain ⟨f, hrun, hfg⟩ := vaCompareOps_run p hp
  exact exec_vecCmp_mask hrun hfg hF

/-! ## Lane movement -/

theorem laneW_ofLanes (f : Nat → Nat) {i : Nat} (hi : i < 64) : laneW (ofLanes f) i = BitVec.ofNat 32 (f i) := by
  apply BitVec.eq_of_toNat_eq
  rw [laneW_toNat, lane_ofLanes f i hi, BitVec.toNat_ofNat]

theorem ofNat_lane (v : Vec) (i : Nat) : BitVec.ofNat 32 (lane v i) = laneW v i := by
  rw [← laneW_toNat, BitVec.ofNat_toNat, BitVec.setWidth_eq]

theorem laneW_permute (a t : Vec) (m : Word) {i : Nat} (hi : i < 64) :
    laneW (permute a m.toNat t) i = if m.getLsbD i then laneW a ((laneW t i).toNat % 64) else 0 := by
  rw [permute, laneW_ofLanes _ hi, bitAt_toNat, laneW_toNat, apply_ite (BitVec.ofNat 32), ofNat_lane]
  rfl

theorem laneW_select (a t : Vec) (m : Word) {i : Nat} (hi : i < 64) :
    laneW (select a m.toNat t) i = if m.getLsbD i then laneW a i else laneW t i := by
  rw [select, laneW_ofLanes _ hi, bitAt_toNat, apply_ite (BitVec.ofNat 32), ofNat_lane, ofNat_lane]

/-- The number of active lanes below lane `i`. -/
def activeBelow (m : Word) (i : Nat) : Nat := ((List.range i).filter fun j => m.getLsbD j).length

theorem popCount_eq_activeBelow (m : Word) (i : Nat) : popCount i m.toNat = activeBelow m i := by
  simp only [popCount, activeBelow, bitAt_toNat]

theorem laneW_expand (a t : Vec) (m : Word) {i : Nat} (hi : i < 64) :
    laneW (expand a m.toNat t) i = if m.getLsbD i then laneW a (activeBelow m i) else laneW t i := by
  rw [expand, laneW_ofLanes _ hi, bitAt_toNat, popCount_eq_activeBelow, apply_ite (BitVec.ofNat 32), ofNat_lane, ofNat_lane]

/-- A number that meets `p` stands in the filtered range behind those below it. -/
theorem filter_range_getElem? {p : Nat → Bool} {n j : Nat} (hj : j < n) (hp : p j = true) :
    ((List.range n).filter p)[((List.range j).filter p).length]? = some j := by
  obtain ⟨d, rfl⟩ := Nat.exists_eq_add_of_lt hj
  rw [Nat.add_assoc, List.range_add, List.range_succ_eq_map, List.map_cons, List.filter_append, List.filter_cons_of_pos (by simpa using hp)]
  simp

theorem activeLanes_toNat (m : Word) : activeLanes m.toNat = (List.range 64).filter fun j => m.getLsbD j := by
  rw [activeLanes, funext (bitAt_toNat m)]

theorem laneW_compress_of_active (a t : Vec) {m : Word} {j : Nat} (hj : j < 64) (hm : m.getLsbD j = true) (hi : activeBelow m j < 64) :
    laneW (compress a m.toNat t) (activeBelow m j) = laneW a j := by
  have hget : (activeLanes m.toNat)[activeBelow m j]? = some j := by
    rw [activeLanes_toNat]
    exact filter_range_getElem? hj hm
  obtain ⟨hlt, -⟩ := List.getElem?_eq_some_iff.1 hget
  rw [compress, laneW_ofLanes _ hi, if_pos hlt, List.getD_eq_getElem?_getD, hget, Option.getD_some, ofNat_lane]

theorem laneW_compress_of_le (a t : Vec) {m : Word} {i : Nat} (hi : i < 64) (hle : activeBelow m 64 ≤ i) :
    laneW (compress a m.toNat t) i = laneW t i := by
  have hlen : (activeLanes m.toNat).length = activeBelow m 64 := by rw [activeLanes_toNat, activeBelow]
  rw [compress, laneW_ofLanes _ hi, if_neg (by omega), ofNat_lane]

theorem laneW_repeatBits (x : Nat) {i : Nat} (hi : i < 64) : laneW (repeatBits 32 x) i = BitVec.ofNat 32 x :=
  laneW_ofLanes (fun _ => x) hi

theorem testBit_ofElems {w n j l : Nat} (f : Nat → Nat) (hj : j < n) (hl : l < w) :
    (ofElems w n f).testBit (w * j + l) = (f j).testBit l := by
  have hfld := congrArg (Nat.testBit · l) (fld_ofElems w n f j hj)
  simpa only [fld, Nat.testBit_mod_two_pow, Nat.testBit_shiftRight, hl, decide_true, Bool.true_and] using hfld

theorem testBit_ofBits {n l : Nat} (f : Nat → Bool) (hl : l < n) : (ofBits n f).testBit l = f l := by
  have hbit := testBit_ofElems (w := 1) (l := 0) (fun i => (f i).toNat) hl Nat.zero_lt_one
  rw [Nat.one_mul, Nat.add_zero] at hbit
  rw [ofBits, hbit, Nat.testBit_zero]
  cases f l <;> rfl

/-- Bit `l` of element `j` of a vector of 64 bits by 32, or of 32 bits by 64. -/
theorem getLsbD_ofElems_ofBits {w n j l : Nat} (f : Nat → Nat → Bool) (hsize : w * n = 2048) (hj : j < n) (hl : l < w) :
    (BitVec.ofNat 2048 (ofElems w n fun j => ofBits w (f j))).getLsbD (w * j + l) = f j l := by
  have hin : w * j + l < 2048 := by
    have : w * (j + 1) ≤ w * n := Nat.mul_le_mul_left w hj
    rw [Nat.mul_succ] at this
    omega
  rw [BitVec.getLsbD_ofNat, testBit_ofElems _ hj hl, testBit_ofBits _ hl, decide_eq_true hin, Bool.true_and]

theorem getLsbD_planes (t : Vec) {l j : Nat} (hl : l < 64) (hj : j < 32) : (planes t).getLsbD (64 * j + l) = t.getLsbD (32 * l + j) := by
  rw [planes, getLsbD_ofElems_ofBits (fun j l => bitAt t.toNat (32 * l + j)) rfl hj hl, bitAt_toNat]

theorem getLsbD_unplanes (t : Vec) {l j : Nat} (hl : l < 64) (hj : j < 32) : (unplanes t).getLsbD (32 * l + j) = t.getLsbD (64 * j + l) := by
  rw [unplanes, getLsbD_ofElems_ofBits (fun l j => bitAt t.toNat (64 * j + l)) rfl hl hj, bitAt_toNat]

theorem exec_vaBcast {s : State} {c n : Nat} {k : Kernel} {h : MoveHead} {a t : Vec}
    (hF : Fires s c n k h [(.vaA, a)] true t (.vaO (n / 2)) 3) :
    exec (.vaBcast h) s = .next (s.fired c n h [.vaA] (.vaO (n / 2)) 3 (n / 2 * 4 + 1) (repeatBits 32 (lane a (lane t 0 % 64)))) :=
  vecBcast_fires hF

/-- Settles O6: each instruction lands the vector that its lane function gives, and the lemmas above read that vector. -/
theorem vaLaneMovement : Obligations.VaLaneMovement := by
  unfold Obligations.VaLaneMovement
  refine ⟨codes_of_moveBits fun _ => rfl, rfl, rfl, rfl, fun s c n k h a t m hF => ⟨?perm, ?sel, ?expd, ?cmpr⟩,
    fun s c n k h t hF => ⟨?pln, ?upln⟩, fun s c n k h a t hF => ?bcast⟩
  case perm => exact ⟨_, exec_vecMove (fun _ _ => rfl) hF, fun i hi => laneW_permute a t m hi⟩
  case sel => exact ⟨_, exec_vecMove (fun _ _ => rfl) hF, fun i hi => laneW_select a t m hi⟩
  case expd => exact ⟨_, exec_vecMove (fun _ _ => rfl) hF, fun i hi => laneW_expand a t m hi⟩
  case cmpr =>
    refine ⟨_, exec_vecMove (fun _ _ => rfl) hF, fun i hi => ⟨fun j hj hm hbelow => ?_, laneW_compress_of_le a t hi⟩⟩
    subst hbelow
    exact laneW_compress_of_active a t hj hm hi
  case pln => exact ⟨_, exec_vecWhole (fun _ _ => rfl) hF, fun l j hl hj => getLsbD_planes t hl hj⟩
  case upln => exact ⟨_, exec_vecWhole (fun _ _ => rfl) hF, fun l j hl hj => getLsbD_unplanes t hl hj⟩
  case bcast =>
    refine ⟨_, exec_vaBcast hF, fun i hi => ?_⟩
    rw [laneW_repeatBits _ hi, ofNat_lane, laneW_toNat]

end Sys2Proof.Machine
end
